-- ==== Sys2Proof/Word.lean ====
section
/-! DEFINITION. The word types of the Exkius E9 (R10, R19, R62, R71). -/
namespace Sys2Proof

/-- A 64-bit register, doubleword or address (R62). -/
abbrev Word := BitVec 64
/-- An opcode word or an X word (R172). -/
abbrev W32 := BitVec 32
/-- One byte of memory. -/
abbrev Byte := BitVec 8
/-- A mask of up to 1,024 lanes: bit l stands for lane l, mask word j is bits 32j to 32j+31 (R19). -/
abbrev Mask := BitVec 1024
/-- A 7-bit register name: v0-v95, s0-s15, t0-t15 (R62). -/
abbrev Reg := BitVec 7

/-- A three-valued predicate (R71). -/
inductive Tri where | f | t | u
  deriving DecidableEq, Repr

/-- The condition of a lane (R15). -/
inductive LaneKind where | vacant | live | helper
  deriving DecidableEq, Repr

/-- The variants of the module (R4). -/
inductive Variant where | full | noUpper | noLink
  deriving DecidableEq, Repr

end Sys2Proof
end

