-- ==== Sys2Proof/Syntax.lean ====
section
/-! DEFINITION. The instructions and machine events of the Exkius E9: one constructor per row of
spec/opcode_table.json. An instruction word carries its fields as R172 names them; an event carries the names of
the objects it acts on and the data the outside world supplies. -/
namespace Sys2Proof

/-- Format A (R172). -/
structure FA where (e : Bool) (d a b : Reg)
  deriving DecidableEq, Repr
/-- Format A with the width or precision bit OPC[0] (R186, R187). -/
structure FAW where (e w : Bool) (d a b : Reg)
  deriving DecidableEq, Repr
/-- Format A with one X word. -/
structure FAX where (e : Bool) (d a b : Reg) (x : W32)
  deriving DecidableEq, Repr
/-- Format A with the width bit and one X word. -/
structure FAWX where (e w : Bool) (d a b : Reg) (x : W32)
  deriving DecidableEq, Repr
/-- Format B: IMM7 in i. -/
structure FB where (e : Bool) (d a i : Reg)
  deriving DecidableEq, Repr
/-- Format B with the width or precision bit. -/
structure FBW where (e w : Bool) (d a i : Reg)
  deriving DecidableEq, Repr
/-- Format C: IMM14 in i. -/
structure FC where (e : Bool) (d : Reg) (i : BitVec 14)
  deriving DecidableEq, Repr
/-- Format C with the width bit. -/
structure FCW where (e w : Bool) (d : Reg) (i : BitVec 14)
  deriving DecidableEq, Repr
/-- Format L: token K and size code SZ. -/
structure FL where (e : Bool) (d a : Reg) (k : BitVec 3) (sz : BitVec 4)
  deriving DecidableEq, Repr
/-- Format L with one X word. -/
structure FLX where (e : Bool) (d a : Reg) (k : BitVec 3) (sz : BitVec 4) (x : W32)
  deriving DecidableEq, Repr
/-- Format T. -/
structure FT where (e : Bool) (await : BitVec 8) (zero : BitVec 13)
  deriving DecidableEq, Repr
/-- LEA: the shift is OPC[1:0] (R208). -/
structure FE where (e : Bool) (sh : BitVec 2) (d a b : Reg)
  deriving DecidableEq, Repr
/-- MOVL: one X word for .32, two for .64 (R207). -/
structure FM where (e : Bool) (w : Bool) (d a b : Reg) (lo hi : W32)
  deriving DecidableEq, Repr

/-- A host access to BAR0 or to device memory, within one line (R143, R165); `keep` is the copy the host's cache holds
afterwards: 0 none, 1 shared, 2 exclusive (R403). -/
structure HostReq where
  port : Nat
  bar0 : Bool
  write : Bool
  tee : Bool
  keep : Nat
  addr : Nat
  len : Nat
  data : List Byte
  /-- It is a CXL.mem request, no request of CXL.io or PCIe (R402). -/
  cxl : Bool := false
  /-- The selective IDE stream that it arrives on (R401, R406). -/
  stream : Nat := 0
  deriving DecidableEq, Repr

/-- Where a soft error strikes (R433). -/
inductive ErrSite where
  | dram | l2 | dirtyL1 | cleanL1 | storeBuffer | register | accumulator | scratch | hamper | stewardSram | lockSram
  deriving DecidableEq, Repr

/-- A soft error: the array, the team, group, core or controller it strikes, the line address, and whether the
error code corrects it (R433). -/
structure SoftErr where
  site : ErrSite
  obj : Nat
  addr : Nat
  correctable : Bool
  deriving DecidableEq, Repr

/-- A Swiust message: the 16-byte header and what follows it (R409). -/
structure Msg where
  src : Nat
  tag : Nat
  flags : BitVec 32
  off : Nat
  body : List Byte
  deriving DecidableEq, Repr

/-- One constructor per row of the opcode table. -/
inductive Instr where
  | iadd (f : FAW)
  | isub (f : FAW)
  | imul (f : FAW)
  | imulhI (f : FAW)
  | imulhN (f : FAW)
  | imad (f : FAW)
  | idivI (f : FAW)
  | idivN (f : FAW)
  | iremI (f : FAW)
  | iremN (f : FAW)
  | iminI (f : FAW)
  | iminN (f : FAW)
  | imaxI (f : FAW)
  | imaxN (f : FAW)
  | iaddsI (f : FAW)
  | iaddsN (f : FAW)
  | isubsI (f : FAW)
  | isubsN (f : FAW)
  | andR (f : FAW)
  | orR (f : FAW)
  | xorR (f : FAW)
  | andn (f : FAW)
  | shl (f : FAW)
  | shr (f : FAW)
  | sar (f : FAW)
  | rol (f : FAW)
  | ror (f : FAW)
  | ineg (f : FAW)
  | iabs (f : FAW)
  | notR (f : FAW)
  | popc (f : FAW)
  | clz (f : FAW)
  | ctz (f : FAW)
  | brev (f : FAW)
  | movKill (f : FA)
  | mov (f : FAW)
  | bfx (f : FAWX)
  | bfi (f : FAWX)
  | sel (f : FAWX)
  | icmpEq (f : FAW)
  | icmpNe (f : FAW)
  | icmpLtI (f : FAW)
  | icmpLeI (f : FAW)
  | icmpGtI (f : FAW)
  | icmpGeI (f : FAW)
  | icmpLtN (f : FAW)
  | icmpLeN (f : FAW)
  | icmpGtN (f : FAW)
  | icmpGeN (f : FAW)
  | iaddImm (f : FBW)
  | isubImm (f : FBW)
  | imulImm (f : FBW)
  | andImm (f : FBW)
  | orImm (f : FBW)
  | xorImm (f : FBW)
  | shlImm (f : FBW)
  | shrImm (f : FBW)
  | sarImm (f : FBW)
  | movi (f : FCW)
  | movl (f : FM)
  | wbaseImm (f : FC)
  | wbaseReg (f : FA)
  | lea (f : FE)
  | fadd (f : FAW)
  | fsub (f : FAW)
  | fmul (f : FAW)
  | fdiv (f : FAW)
  | fdiv2 (f : FAW)
  | ffma (f : FAW)
  | fmin (f : FAW)
  | fmax (f : FAW)
  | fhull (f : FAW)
  | fmeet (f : FAW)
  | fmake (f : FAW)
  | fneg (f : FAW)
  | fabs (f : FAW)
  | fsqr (f : FAW)
  | fsqrt (f : FAW)
  | frcp (f : FAW)
  | frsq (f : FAW)
  | fexp (f : FAW)
  | fexp2 (f : FAW)
  | flog (f : FAW)
  | flog2 (f : FAW)
  | fsin (f : FAW)
  | fcos (f : FAW)
  | ftanh (f : FAW)
  | flo (f : FAW)
  | fhi (f : FAW)
  | fmid (f : FAW)
  | frad (f : FAW)
  | fwid (f : FAW)
  | fbis (f : FAW)
  | fcmpLt (f : FAW)
  | fcmpLe (f : FAW)
  | fcmpGt (f : FAW)
  | fcmpGe (f : FAW)
  | fcmpEq (f : FAW)
  | fcmpNe (f : FAW)
  | fcmpSub (f : FAW)
  | fcmpIn (f : FAW)
  | fcmpDis (f : FAW)
  | fclass (f : FAW)
  | cvtf (f : FAW)
  | cvti (f : FAW)
  | cvfi (f : FAW)
  | cbx (f : FAW)
  | cbq (f : FAW)
  | cbld (f : FL)
  | bra (f : FC)
  | brc (f : FC)
  | bmz (f : FC)
  | bmnz (f : FC)
  | call (f : FC)
  | ret (f : FA)
  | jmpi (f : FA)
  | exit (f : FA)
  | yield (f : FA)
  | waitcy (f : FA)
  | mif (f : FA)
  | melse (f : FA)
  | mund (f : FA)
  | mend (f : FA)
  | mwhile (f : FC)
  | mset (f : FA)
  | mget (f : FA)
  | pand (f : FA)
  | por (f : FA)
  | pnot (f : FA)
  | pxor (f : FA)
  | psel (f : FAX)
  | pmov (f : FA)
  | ptoi (f : FA)
  | itop (f : FA)
  | vote (f : FA)
  | redi (f : FA)
  | redf (f : FA)
  | scan (f : FA)
  | shfl (f : FA)
  | qxch (f : FA)
  | qbc (f : FA)
  | ld (f : FL)
  | ldOffset (f : FLX)
  | st (f : FL)
  | stOffset (f : FLX)
  | ldv (f : FL)
  | ldvOffset (f : FLX)
  | stv (f : FL)
  | stvOffset (f : FLX)
  | ldn (f : FL)
  | ldnOffset (f : FLX)
  | stn (f : FL)
  | stnOffset (f : FLX)
  | lds (f : FL)
  | ldsOffset (f : FLX)
  | sts (f : FL)
  | stsOffset (f : FLX)
  | ldg (f : FLX)
  | stg (f : FLX)
  | ldl (f : FL)
  | stl (f : FL)
  | ncvt (f : FA)
  | pref (f : FA)
  | prefOffset (f : FAX)
  | smap (f : FAX)
  | sunmap (f : FA)
  | aadd (f : FL)
  | amin (f : FL)
  | amax (f : FL)
  | aand (f : FL)
  | aor (f : FL)
  | axor (f : FL)
  | axchg (f : FL)
  | acas (f : FL)
  | ainc (f : FL)
  | adec (f : FL)
  | afadd (f : FL)
  | afmin (f : FL)
  | afmax (f : FL)
  | bar (f : FA)
  | barc (f : FA)
  | bufdef (f : FAX)
  | bufwait (f : FA)
  | buffree (f : FA)
  | cpygo (f : FA)
  | cpyst (f : FA)
  | publ (f : FA)
  | region (f : FA)
  | commit (f : FA)
  | waitc (f : FAX)
  | sigc (f : FA)
  | seal (f : FL)
  | unseal (f : FA)
  | macq (f : FA)
  | mrel (f : FA)
  | mldb (f : FL)
  | mma (f : FL)
  | mmar (f : FL)
  | mmaPair (f : FL)
  | mmarPair (f : FL)
  | mzero (f : FA)
  | mstore (f : FL)
  | mloadc (f : FL)
  | msave (f : FL)
  | mrst (f : FL)
  | mstat (f : FA)
  | mcbk (f : FL)
  | mdep (f : FA)
  | split (f : FBW)
  | fork (f : FB)
  | take (f : FB)
  | hstat (f : FA)
  | launch (f : FL)
  | lstat (f : FA)
  | nop (f : FA)
  | trl (f : FT)
  | trap (f : FC)
  | tret (f : FA)
  | rdsr (f : FC)
  | wrsr (f : FC)
  | ldio (f : FL)
  | stio (f : FL)
  | wfe (f : FA)
  | halt (f : FA)
  | pipeSelect (core : Nat) (pipe : Nat)
  | longLatencyArrival (tk : Nat) (id : Nat)
  | registerRefill (tk : Nat)
  | regionCommit (tk : Nat)
  | conflict (tk : Nat) (idx : Nat)
  | exclDeferralExpiry (die : Nat)
  | orderInversion (tk : Nat)
  | priorityAgeing (tk : Nat)
  | cycleReached (tk : Nat)
  | groupAdmit
  | swapwaitExpiry (gid : Nat)
  | groupSave (gid : Nat)
  | groupRestore (gid : Nat)
  | groupFree (gid : Nat)
  | hamperRefill (gid : Nat) (bin : Nat)
  | forageRequest (seq : Nat) (die : Nat) (bin : Nat)
  | forageTransferArrival (seq : Nat) (die : Nat)
  | forageRestart (seq : Nat) (die : Nat)
  | ringPathLost (a : Nat) (b : Nat)
  | quiescenceSweep
  | copyRecord (cid : Nat)
  | scratchArrival (cid : Nat)
  | sluiceStep (cid : Nat)
  | counterReread (tk : Nat)
  | matrixOpBegin (core : Nat)
  | matrixOccupancyEnd (core : Nat)
  | matrixOpRetire (core : Nat)
  | mdepDecrement (core : Nat)
  | launchAcceptance (gid : Nat)
  | qheadWrite (q : Nat) (v : BitVec 64)
  | qctlWrite (q : Nat) (v : BitVec 64)
  | qstatHaltClear (q : Nat)
  | launchCommand (q : Nat)
  | copyCommand (q : Nat)
  | waitcCommand (q : Nat)
  | sigcCommand (q : Nat)
  | markCmd (q : Nat)
  | tresumeResume (tag : Nat)
  | tresumeFail (tag : Nat)
  | faultRecordWrite
  | tlbinvPage (ctx : Nat) (va : Nat)
  | tlbinvContext (ctx : Nat)
  | tlbinvAll
  | tlbinvDone
  | registerWrite (off : Nat) (v : BitVec 64) (tee : Bool)
  | measureMailboxWrite (off : Nat) (v : BitVec 64)
  | mregExtend (i : Nat)
  | mlockWrite (v : BitVec 64)
  | otpProgramOwner
  | otpRevokeOwner
  | otpRevokeVendor
  | otpSvnRaise (v : Nat)
  | moduleReset
  | pwrctlWrite (v : BitVec 64)
  | vcoreWrite (die : Nat) (v : BitVec 64)
  | ctlrstWrite (v : BitVec 64)
  | evdbWrite (ctl : Nat)
  | hostenWrite (v : BitVec 64)
  | dramTrainStart (stack : Nat) (step : Nat)
  | dramTrainAbort (stack : Nat)
  | dramTrainDone (stack : Nat) (fail : BitVec 128)
  | dramTrainTimeout (stack : Nat)
  | dmenWrite (stack : Nat) (v : BitVec 64)
  | linkTrainStart (port : Nat) (step : Nat)
  | linkTrainAbort (port : Nat)
  | linkTrainDone (port : Nat) (pass : Bool) (peer : Nat)
  | linkTrainTimeout (port : Nat)
  | clockModeWrite (pair : Nat) (v : BitVec 64)
  | clockRelockDone (pair : Nat)
  | meteredClockHalt (pair : Nat) (mv : Nat)
  | meteredClockResume (pair : Nat) (mv : Nat)
  | coreHotSet (core : Nat) (temp : BitVec 12) (win : BitVec 16)
  | coreHotClear (core : Nat) (temp : BitVec 12) (win : BitVec 16)
  | softError (e : SoftErr)
  | hostAccess (h : HostReq)
  | hostSnoop (addr : Nat)
  | birsp (line : Nat) (data : List Byte)
  | birspTimeout (line : Nat)
  | flr
  | flrDrainDeadline
  | flrZeroDone
  | flitReceive (port : Nat) (flit : List Byte)
  | portDown (port : Nat) (cause : Nat)
  | rdl (port : Nat) (m : Msg)
  | wrl (port : Nat) (m : Msg)
  | dataMsg (port : Nat) (m : Msg)
  | ack (port : Nat) (m : Msg)
  | pgs (port : Nat) (m : Msg)
  | pgm (port : Nat) (m : Msg)
  | grant (port : Nat) (m : Msg)
  | recallMsg (port : Nat) (m : Msg)
  | retn (port : Nat) (m : Msg)
  | atom (port : Nat) (m : Msg)
  | nack (port : Nat) (m : Msg)
  | recallRetransmit (page : Nat)
  | spdmRequest (code : Nat)
  | powerGoodChange (v : BitVec 64)
  | droopLevelTrip (pair : Nat) (mv : Nat)
  deriving DecidableEq, Repr

end Sys2Proof
end

