-- ==== Sys2Proof/WellFormed.lean ====
section
/-! DEFINITION. The static limits of an instruction word: reserved fields and codes (R173, first rows of R190),
and the operand classes, register pairs and temporaries (R69, R176, R177). What also needs the launch-fixed values
or the place in a run is checked in Machine/Fetch.lean. -/
namespace Sys2Proof

/-- The three register classes by name (R62). -/
def isV (r : Reg) : Bool := r < 96
def isS (r : Reg) : Bool := 96 ≤ r && r < 112
def isT (r : Reg) : Bool := 112 ≤ r
/-- A predicate field (R176). -/
def predOk (r : Reg) : Bool := r < 32
/-- A predicate field that may name a flag (R176). -/
def predFl (r : Reg) : Bool := r < 37
/-- An s destination takes no v or t source (R176). -/
def clsOk (d a b : Reg) : Bool := !isS d || (isS a && isS b)
def clsOk1 (d a : Reg) : Bool := !isS d || isS a
/-- An F64 operand names an even register (R177). -/
def evenIf (w : Bool) (r : Reg) : Bool := !w || r.getLsbD 0 == false
/-- An even s register. -/
def evenS (r : Reg) : Bool := isS r && r.getLsbD 0 == false
/-- Two consecutive results: D even for .F32, D[1:0] = 0 for .F64 (R227). -/
def twoRes (w : Bool) (d : Reg) : Bool := d.getLsbD 0 == false && (!w || d.getLsbD 1 == false)
/-- POS and LEN of BFX and BFI (R204). -/
def bfxOk (w : Bool) (x : W32) : Bool :=
  let n := if w then 64 else 32
  let pos := (x.extractLsb' 0 6).toNat
  let len := (x.extractLsb' 8 7).toNat
  decide (pos < n) && decide (1 ≤ len) && decide (pos + len ≤ n) && x.extractLsb' 6 2 == 0
/-- A shift amount in IMM7 lies from 0 to w - 1 (R202). -/
def shiftOk (w : Bool) (i : Reg) : Bool := decide (i.toNat < (if w then 64 else 32))
/-- A window base: a multiple of 32 from 0 to 416 (R63, R209). -/
def wbaseOk (v : Int) : Bool := decide (0 ≤ v) && decide (v ≤ 416) && decide (v % 32 = 0)
/-- The conversion codes of CVTF (R238). -/
def cvtfOk (b : Reg) : Bool := b < 5 || (16 ≤ b && b < 19)
/-- The register pairs of CVTF: IN.F64 reads a pair, the interval of precision p is a pair for .F64 (R238). -/
def cvtfRegs (w : Bool) (b d a : Reg) : Bool :=
  if b < 5 then evenIf w d && evenIf (b == 1) a else evenIf w a
/-- The size codes of LDV and STV (R175). -/
def ivSz (sz : BitVec 4) : Bool := sz < 5 || (8 ≤ sz && sz < 13)
/-- The gather descriptor (R258). -/
def gatherOk (x : W32) : Bool :=
  isS (x.extractLsb' 0 7) && !(x.getLsbD 7 && x.getLsbD 8) && (x >>> 14) == 0
/-- The status register numbers of R312. -/
def srNums : List Nat := [0, 1, 2, 3, 4, 5, 6, 7, 0x10, 0x11, 0x12, 0x13, 0x14, 0x15, 0x16, 0x17, 0x18, 0x19, 0x1A,
  0x1B, 0x1C, 0x20, 0x21, 0x22, 0x23, 0x24, 0x25, 0x26, 0x27, 0x28, 0x29, 0x30]
def srNumOk (i : BitVec 14) : Bool := srNums.contains i.toNat
/-- FL and LANE are per lane (R311). -/
def srPerLane (n : Nat) : Bool := n == 5 || n == 0x10
/-- A per-lane register is read into a v or t register (R311). -/
def rdsrOk (d : Reg) (i : BitVec 14) : Bool := !(srPerLane i.toNat && isS d)
/-- FL is written from a v or t register, a uniform register from an s register (R311). -/
def wrsrOk (d : Reg) (i : BitVec 14) : Bool := if srPerLane i.toNat then !isS d else isS d

/-- Reserved fields are 0 and used fields hold accepted codes (R173, R190). Events carry object names within the
part's bounds. -/
def Instr.fieldsOk : Instr → Bool
  | .iadd _ => true
  | .isub _ => true
  | .imul _ => true
  | .imulhI _ => true
  | .imulhN _ => true
  | .imad _ => true
  | .idivI _ => true
  | .idivN _ => true
  | .iremI _ => true
  | .iremN _ => true
  | .iminI _ => true
  | .iminN _ => true
  | .imaxI _ => true
  | .imaxN _ => true
  | .iaddsI _ => true
  | .iaddsN _ => true
  | .isubsI _ => true
  | .isubsN _ => true
  | .andR _ => true
  | .orR _ => true
  | .xorR _ => true
  | .andn _ => true
  | .shl _ => true
  | .shr _ => true
  | .sar _ => true
  | .rol _ => true
  | .ror _ => true
  | .ineg f => f.b == 0
  | .iabs f => f.b == 0
  | .notR f => f.b == 0
  | .popc f => f.b == 0
  | .clz f => f.b == 0
  | .ctz f => f.b == 0
  | .brev f => f.b == 0
  | .movKill f => f.a == 0 && f.b == 1
  | .mov f => f.b == 0
  | .bfx f => f.b == 0 && bfxOk f.w f.x && f.x.getLsbD 15 == false && (f.x >>> 17) == 0
  | .bfi f => f.b == 0 && bfxOk f.w f.x && (f.x >>> 15) == 0
  | .sel f => predFl (f.x.extractLsb' 0 7) && f.x.getLsbD 7 == false && f.x.extractLsb' 8 2 != 3 && (f.x >>> 10) == 0
  | .icmpEq f => predOk f.d
  | .icmpNe f => predOk f.d
  | .icmpLtI f => predOk f.d
  | .icmpLeI f => predOk f.d
  | .icmpGtI f => predOk f.d
  | .icmpGeI f => predOk f.d
  | .icmpLtN f => predOk f.d
  | .icmpLeN f => predOk f.d
  | .icmpGtN f => predOk f.d
  | .icmpGeN f => predOk f.d
  | .iaddImm _ => true
  | .isubImm _ => true
  | .imulImm _ => true
  | .andImm _ => true
  | .orImm _ => true
  | .xorImm _ => true
  | .shlImm f => shiftOk f.w f.i
  | .shrImm f => shiftOk f.w f.i
  | .sarImm f => shiftOk f.w f.i
  | .movi _ => true
  | .movl f => f.a == 0 && f.b == 0 && (f.w || f.hi == 0)
  | .wbaseImm f => f.d == 0 && wbaseOk (f.i.toInt)
  | .wbaseReg f => f.d == 0 && f.b == 0
  | .lea _ => true
  | .fadd _ => true
  | .fsub _ => true
  | .fmul _ => true
  | .fdiv _ => true
  | .fdiv2 f => twoRes f.w f.d
  | .ffma _ => true
  | .fmin _ => true
  | .fmax _ => true
  | .fhull _ => true
  | .fmeet _ => true
  | .fmake _ => true
  | .fneg f => f.b == 0
  | .fabs f => f.b == 0
  | .fsqr f => f.b == 0
  | .fsqrt f => f.b == 0
  | .frcp f => f.b == 0
  | .frsq f => f.b == 0
  | .fexp f => f.b == 0
  | .fexp2 f => f.b == 0
  | .flog f => f.b == 0
  | .flog2 f => f.b == 0
  | .fsin f => f.b == 0
  | .fcos f => f.b == 0
  | .ftanh f => f.b == 0
  | .flo f => f.b == 0
  | .fhi f => f.b == 0
  | .fmid f => f.b == 0
  | .frad f => f.b == 0
  | .fwid f => f.b == 0
  | .fbis f => f.b == 0 && twoRes f.w f.d
  | .fcmpLt f => predOk f.d
  | .fcmpLe f => predOk f.d
  | .fcmpGt f => predOk f.d
  | .fcmpGe f => predOk f.d
  | .fcmpEq f => predOk f.d
  | .fcmpNe f => predOk f.d
  | .fcmpSub f => predOk f.d
  | .fcmpIn f => predOk f.d
  | .fcmpDis f => predOk f.d
  | .fclass f => f.b == 0
  | .cvtf f => cvtfOk f.b
  | .cvti f => f.b.extractLsb' 0 4 < 8 && f.b.extractLsb' 4 2 != 3 && f.b.getLsbD 6 == false
  | .cvfi f => f.b < 8
  | .cbx f => f.b == 0
  | .cbq f => f.b == 0
  | .cbld f => f.d == 0 && f.sz == 0
  | .bra f => f.d == 0
  | .brc f => f.d < 16
  | .bmz f => f.d == 0
  | .bmnz f => f.d == 0
  | .call _ => true
  | .ret f => f.d == 0 && f.b == 0
  | .jmpi f => f.d == 0 && f.b == 0
  | .exit f => f.d == 0 && f.a == 0 && f.b == 0
  | .yield f => f.d == 0 && f.a == 0 && f.b == 0
  | .waitcy f => f.d == 0 && f.b == 0
  | .mif f => f.d == 0 && predFl f.a && f.b < 3
  | .melse f => f.d == 0 && f.a == 0 && f.b == 0
  | .mund f => f.d == 0 && f.a == 0 && f.b == 0
  | .mend f => f.d == 0 && f.a == 0 && f.b == 0
  | .mwhile f => predOk f.d
  | .mset f => f.b < 4 && (f.b == 2 || (f.d == 0 && f.a == 0))
  | .mget f => f.b < 2 && (f.b == 0 || f.a == 0)
  | .pand f => predOk f.d && predFl f.a && predFl f.b
  | .por f => predOk f.d && predFl f.a && predFl f.b
  | .pnot f => predOk f.d && predFl f.a && f.b == 0
  | .pxor f => predOk f.d && predFl f.a && predFl f.b
  | .psel f => predOk f.d && predOk f.a && predOk f.b && predFl (f.x.extractLsb' 0 7) && f.x.getLsbD 7 == false && (f.x >>> 10) == 0
  | .pmov f => predOk f.d && f.b < 8 && (if f.b == 1 || f.b == 2 || f.b == 3 then f.a == 0 else predFl f.a)
  | .ptoi f => predOk f.a && (isS f.d || f.b == 0)
  | .itop f => predOk f.d && f.b < 3 && (f.b != 2 || f.a.getLsbD 0 == false)
  | .vote f => predFl f.a && f.b < 5 && (!(f.b < 2) || predOk f.d)
  | .redi f => f.b < 16 && !isS f.a
  | .redf f => f.b < 16 && f.b.extractLsb' 0 3 < 5 && !isS f.a
  | .scan f => f.b < 64 && (f.b.getLsbD 4 == false || f.b.extractLsb' 0 3 < 5) && !isS f.a
  | .shfl f => !isS f.a
  | .qxch f => f.b < 4 && !isS f.a
  | .qbc f => f.b < 4 && !isS f.a
  | .ld f => f.sz < 7
  | .ldOffset f => f.sz < 7
  | .st f => f.sz < 7 && f.sz.getLsbD 0 == false
  | .stOffset f => f.sz < 7 && f.sz.getLsbD 0 == false
  | .ldv f => ivSz f.sz
  | .ldvOffset f => ivSz f.sz
  | .stv f => ivSz f.sz
  | .stvOffset f => ivSz f.sz
  | .ldn f => f.sz.extractLsb' 0 3 < 6
  | .ldnOffset f => f.sz.extractLsb' 0 3 < 6
  | .stn f => f.sz.extractLsb' 0 3 < 6
  | .stnOffset f => f.sz.extractLsb' 0 3 < 6
  | .lds f => f.sz < 7
  | .ldsOffset f => f.sz < 7
  | .sts f => f.sz < 7 && f.sz.getLsbD 0 == false
  | .stsOffset f => f.sz < 7 && f.sz.getLsbD 0 == false
  | .ldg f => gatherOk f.x && (if f.x.getLsbD 13 then ivSz f.sz else f.sz < 7)
  | .stg f => gatherOk f.x && (if f.x.getLsbD 13 then ivSz f.sz else (f.sz < 7 && f.sz.getLsbD 0 == false))
  | .ldl f => f.sz == 4 || f.sz == 5 || f.sz == 6
  | .stl f => f.sz == 4 || f.sz == 6
  | .ncvt f => f.b < 16 && f.b.extractLsb' 0 3 < 6
  | .pref f => f.d == 0 && f.b < 2
  | .prefOffset f => f.d == 0 && f.b < 2
  | .smap f => f.b == 0 && (f.x >>> 21) == 0
  | .sunmap f => f.d == 0 && f.b == 0
  | .aadd f => f.sz.extractLsb' 0 2 != 3 && f.sz.getLsbD 3 == false
  | .amin f => f.sz.extractLsb' 0 2 != 3
  | .amax f => f.sz.extractLsb' 0 2 != 3
  | .aand f => f.sz.extractLsb' 0 2 != 3 && f.sz.getLsbD 3 == false
  | .aor f => f.sz.extractLsb' 0 2 != 3 && f.sz.getLsbD 3 == false
  | .axor f => f.sz.extractLsb' 0 2 != 3 && f.sz.getLsbD 3 == false
  | .axchg f => f.sz.extractLsb' 0 2 != 3 && f.sz.getLsbD 3 == false
  | .acas f => f.sz.extractLsb' 0 2 != 3 && f.sz.getLsbD 3 == false
  | .ainc f => f.sz.extractLsb' 0 2 != 3 && f.sz.getLsbD 3 == false
  | .adec f => f.sz.extractLsb' 0 2 != 3 && f.sz.getLsbD 3 == false
  | .afadd f => f.sz.extractLsb' 0 2 != 3 && f.sz.getLsbD 3 == false
  | .afmin f => f.sz.extractLsb' 0 2 != 3 && f.sz.getLsbD 3 == false
  | .afmax f => f.sz.extractLsb' 0 2 != 3 && f.sz.getLsbD 3 == false
  | .bar f => f.d == 0 && f.a == 0 && f.b < 16
  | .barc f => f.d == 0 && f.a == 0 && f.b < 16
  | .bufdef f => f.d == 0 && f.x < 64
  | .bufwait f => f.d == 0 && f.a == 0 && f.b < 64
  | .buffree f => f.d == 0 && f.a == 0 && f.b < 64
  | .cpygo f => f.d == 0 && f.b < 64 && (f.b.getLsbD 2 || f.b < 8)
  | .cpyst f => f.a == 0 && f.b < 4
  | .publ f => f.d == 0 && f.a == 0 && f.b < 4
  | .region f => f.d == 0 && f.a == 0 && f.b == 0
  | .commit f => f.d == 0 && f.a == 0 && f.b == 0
  | .waitc f => f.x < 6
  | .sigc f => f.d < 3
  | .seal f => f.d < 16 && f.sz == 0
  | .unseal f => f.d == 0 && f.a == 0 && f.b < 16
  | .macq f => f.a == 0 && f.b < 2
  | .mrel f => f.d == 0 && f.a == 0 && f.b == 0
  | .mldb f => f.d < 16 && f.sz < 4
  | .mma f => f.d < 16 && f.sz < 2
  | .mmar f => f.d < 16 && f.sz < 2
  | .mmaPair f => f.d < 16 && f.sz < 2
  | .mmarPair f => f.d < 16 && f.sz < 2
  | .mzero f => f.d == 0 && f.b < 2
  | .mstore f => f.sz.extractLsb' 0 3 < 5
  | .mloadc f => f.sz.extractLsb' 0 3 < 5
  | .msave f => f.sz == 0 || (f.sz == 1 && f.d == 0)
  | .mrst f => f.sz == 0 || (f.sz == 1 && f.d == 0)
  | .mstat f => f.a == 0 && f.b < 2
  | .mcbk f => f.d == 0 && f.sz < 2
  | .mdep f => f.d == 0 && f.b == 0
  | .split f => predOk f.d && f.i < 8
  | .fork f => predOk f.d && f.a == 0 && f.i < 8
  | .take f => predOk f.d && f.a == 0 && f.i < 8
  | .hstat f => f.a == 0 && f.b < 16
  | .launch f => f.d == 0 && f.sz == 0
  | .lstat f => f.a == 0 && f.b == 0
  | .nop f => f.d == 0 && f.a == 0 && f.b == 0
  | .trl f => f.zero == 0 && f.e
  | .trap f => f.d == 0
  | .tret f => f.d == 0 && f.a == 0 && f.b == 0
  | .rdsr f => srNumOk f.i
  | .wrsr f => srNumOk f.i
  | .ldio f => f.sz == 4 || f.sz == 6
  | .stio f => f.sz == 4 || f.sz == 6
  | .wfe f => f.d == 0 && f.a == 0 && f.b == 0
  | .halt f => f.d == 0 && f.a == 0 && f.b == 0
  | .pipeSelect core pipe => decide (core < 768) && decide (pipe < 2)
  | .longLatencyArrival _ _ => true
  | .registerRefill _ => true
  | .regionCommit _ => true
  | .conflict _ _ => true
  | .exclDeferralExpiry die => decide (die < 8)
  | .orderInversion _ => true
  | .priorityAgeing _ => true
  | .cycleReached _ => true
  | .groupAdmit => true
  | .swapwaitExpiry _ => true
  | .groupSave _ => true
  | .groupRestore _ => true
  | .groupFree _ => true
  | .hamperRefill _ _ => true
  | .forageRequest _ _ _ => true
  | .forageTransferArrival _ _ => true
  | .forageRestart _ _ => true
  | .ringPathLost _ _ => true
  | .quiescenceSweep => true
  | .copyRecord _ => true
  | .scratchArrival _ => true
  | .sluiceStep _ => true
  | .counterReread _ => true
  | .matrixOpBegin core => decide (core < 768)
  | .matrixOccupancyEnd core => decide (core < 768)
  | .matrixOpRetire core => decide (core < 768)
  | .mdepDecrement core => decide (core < 768)
  | .launchAcceptance _ => true
  | .qheadWrite q _ => decide (q < 64)
  | .qctlWrite q _ => decide (q < 64)
  | .qstatHaltClear q => decide (q < 64)
  | .launchCommand q => decide (q < 64)
  | .copyCommand q => decide (q < 64)
  | .waitcCommand q => decide (q < 64)
  | .sigcCommand q => decide (q < 64)
  | .markCmd q => decide (q < 64)
  | .tresumeResume tag => decide (tag < 65536)
  | .tresumeFail tag => decide (tag < 65536)
  | .faultRecordWrite => true
  | .tlbinvPage _ _ => true
  | .tlbinvContext _ => true
  | .tlbinvAll => true
  | .tlbinvDone => true
  | .registerWrite _ _ _ => true
  | .measureMailboxWrite _ _ => true
  | .mregExtend _ => true
  | .mlockWrite _ => true
  | .otpProgramOwner => true
  | .otpRevokeOwner => true
  | .otpRevokeVendor => true
  | .otpSvnRaise _ => true
  | .moduleReset => true
  | .pwrctlWrite _ => true
  | .vcoreWrite die _ => decide (die < 8)
  | .ctlrstWrite _ => true
  | .evdbWrite ctl => decide (ctl < 11)
  | .hostenWrite _ => true
  | .dramTrainStart stack step => decide (stack < 16) && decide (step < 16)
  | .dramTrainAbort stack => decide (stack < 16)
  | .dramTrainDone stack _ => decide (stack < 16)
  | .dramTrainTimeout stack => decide (stack < 16)
  | .dmenWrite stack _ => decide (stack < 16)
  | .linkTrainStart port step => decide (port < 20) && decide (step < 16)
  | .linkTrainAbort port => decide (port < 20)
  | .linkTrainDone port _ _ => decide (port < 20)
  | .linkTrainTimeout port => decide (port < 20)
  | .clockModeWrite pair _ => decide (pair < 384)
  | .clockRelockDone pair => decide (pair < 384)
  | .meteredClockHalt pair _ => decide (pair < 384)
  | .meteredClockResume pair _ => decide (pair < 384)
  | .coreHotSet core _ _ => decide (core < 768)
  | .coreHotClear core _ _ => decide (core < 768)
  | .softError _ => true
  | .hostAccess h => decide (h.port < 2) && decide (h.keep < 3) && decide (0 < h.len) && decide (h.addr % 128 + h.len ≤ 128) && (!h.write || h.data.length == h.len)
  | .hostSnoop _ => true
  | .birsp _ _ => true
  | .birspTimeout _ => true
  | .flr => true
  | .flrDrainDeadline => true
  | .flrZeroDone => true
  | .flitReceive port flit => decide (port < 18) && flit.length == 256
  | .portDown port _ => decide (port < 18)
  | .rdl port _ => decide (port < 18)
  | .wrl port _ => decide (port < 18)
  | .dataMsg port _ => decide (port < 18)
  | .ack port _ => decide (port < 18)
  | .pgs port _ => decide (port < 18)
  | .pgm port _ => decide (port < 18)
  | .grant port _ => decide (port < 18)
  | .recallMsg port _ => decide (port < 18)
  | .retn port _ => decide (port < 18)
  | .atom port _ => decide (port < 18)
  | .nack port _ => decide (port < 18)
  | .recallRetransmit _ => true
  | .spdmRequest _ => true
  | .powerGoodChange _ => true
  | .droopLevelTrip pair _ => decide (pair < 384)

/-- The operand classes, register pairs and temporaries of a word (R69, R176, R177, R190). -/
def Instr.classOk : Instr → Bool
  | .iadd f => clsOk f.d f.a f.b
  | .isub f => clsOk f.d f.a f.b
  | .imul f => clsOk f.d f.a f.b
  | .imulhI f => clsOk f.d f.a f.b
  | .imulhN f => clsOk f.d f.a f.b
  | .imad f => clsOk f.d f.a f.b
  | .idivI f => clsOk f.d f.a f.b
  | .idivN f => clsOk f.d f.a f.b
  | .iremI f => clsOk f.d f.a f.b
  | .iremN f => clsOk f.d f.a f.b
  | .iminI f => clsOk f.d f.a f.b
  | .iminN f => clsOk f.d f.a f.b
  | .imaxI f => clsOk f.d f.a f.b
  | .imaxN f => clsOk f.d f.a f.b
  | .iaddsI f => clsOk f.d f.a f.b
  | .iaddsN f => clsOk f.d f.a f.b
  | .isubsI f => clsOk f.d f.a f.b
  | .isubsN f => clsOk f.d f.a f.b
  | .andR f => clsOk f.d f.a f.b
  | .orR f => clsOk f.d f.a f.b
  | .xorR f => clsOk f.d f.a f.b
  | .andn f => clsOk f.d f.a f.b
  | .shl f => clsOk f.d f.a f.b
  | .shr f => clsOk f.d f.a f.b
  | .sar f => clsOk f.d f.a f.b
  | .rol f => clsOk f.d f.a f.b
  | .ror f => clsOk f.d f.a f.b
  | .ineg f => clsOk1 f.d f.a
  | .iabs f => clsOk1 f.d f.a
  | .notR f => clsOk1 f.d f.a
  | .popc f => clsOk1 f.d f.a
  | .clz f => clsOk1 f.d f.a
  | .ctz f => clsOk1 f.d f.a
  | .brev f => clsOk1 f.d f.a
  | .movKill f => !isT f.d
  | .mov f => clsOk1 f.d f.a
  | .bfx f => clsOk1 f.d f.a
  | .bfi f => clsOk1 f.d f.a
  | .sel f => !isS f.d
  | .icmpEq _ => true
  | .icmpNe _ => true
  | .icmpLtI _ => true
  | .icmpLeI _ => true
  | .icmpGtI _ => true
  | .icmpGeI _ => true
  | .icmpLtN _ => true
  | .icmpLeN _ => true
  | .icmpGtN _ => true
  | .icmpGeN _ => true
  | .iaddImm f => clsOk1 f.d f.a
  | .isubImm f => clsOk1 f.d f.a
  | .imulImm f => clsOk1 f.d f.a
  | .andImm f => clsOk1 f.d f.a
  | .orImm f => clsOk1 f.d f.a
  | .xorImm f => clsOk1 f.d f.a
  | .shlImm f => clsOk1 f.d f.a
  | .shrImm f => clsOk1 f.d f.a
  | .sarImm f => clsOk1 f.d f.a
  | .movi _ => true
  | .movl _ => true
  | .wbaseImm _ => true
  | .wbaseReg f => isS f.a
  | .lea f => clsOk f.d f.a f.b
  | .fadd f => evenIf f.w f.d && evenIf f.w f.a && evenIf f.w f.b && clsOk f.d f.a f.b
  | .fsub f => evenIf f.w f.d && evenIf f.w f.a && evenIf f.w f.b && clsOk f.d f.a f.b
  | .fmul f => evenIf f.w f.d && evenIf f.w f.a && evenIf f.w f.b && clsOk f.d f.a f.b
  | .fdiv f => evenIf f.w f.d && evenIf f.w f.a && evenIf f.w f.b && clsOk f.d f.a f.b
  | .fdiv2 f => evenIf f.w f.d && evenIf f.w f.a && evenIf f.w f.b && clsOk f.d f.a f.b
  | .ffma f => evenIf f.w f.d && evenIf f.w f.a && evenIf f.w f.b && clsOk f.d f.a f.b
  | .fmin f => evenIf f.w f.d && evenIf f.w f.a && evenIf f.w f.b && clsOk f.d f.a f.b
  | .fmax f => evenIf f.w f.d && evenIf f.w f.a && evenIf f.w f.b && clsOk f.d f.a f.b
  | .fhull f => evenIf f.w f.d && evenIf f.w f.a && evenIf f.w f.b && clsOk f.d f.a f.b
  | .fmeet f => evenIf f.w f.d && evenIf f.w f.a && evenIf f.w f.b && clsOk f.d f.a f.b
  | .fmake f => evenIf f.w f.d && evenIf f.w f.a && evenIf f.w f.b && clsOk f.d f.a f.b
  | .fneg f => evenIf f.w f.d && evenIf f.w f.a && clsOk1 f.d f.a
  | .fabs f => evenIf f.w f.d && evenIf f.w f.a && clsOk1 f.d f.a
  | .fsqr f => evenIf f.w f.d && evenIf f.w f.a && clsOk1 f.d f.a
  | .fsqrt f => evenIf f.w f.d && evenIf f.w f.a && clsOk1 f.d f.a
  | .frcp f => evenIf f.w f.d && evenIf f.w f.a && clsOk1 f.d f.a
  | .frsq f => evenIf f.w f.d && evenIf f.w f.a && clsOk1 f.d f.a
  | .fexp f => evenIf f.w f.d && evenIf f.w f.a && clsOk1 f.d f.a
  | .fexp2 f => evenIf f.w f.d && evenIf f.w f.a && clsOk1 f.d f.a
  | .flog f => evenIf f.w f.d && evenIf f.w f.a && clsOk1 f.d f.a
  | .flog2 f => evenIf f.w f.d && evenIf f.w f.a && clsOk1 f.d f.a
  | .fsin f => evenIf f.w f.d && evenIf f.w f.a && clsOk1 f.d f.a
  | .fcos f => evenIf f.w f.d && evenIf f.w f.a && clsOk1 f.d f.a
  | .ftanh f => evenIf f.w f.d && evenIf f.w f.a && clsOk1 f.d f.a
  | .flo f => evenIf f.w f.d && evenIf f.w f.a && clsOk1 f.d f.a
  | .fhi f => evenIf f.w f.d && evenIf f.w f.a && clsOk1 f.d f.a
  | .fmid f => evenIf f.w f.d && evenIf f.w f.a && clsOk1 f.d f.a
  | .frad f => evenIf f.w f.d && evenIf f.w f.a && clsOk1 f.d f.a
  | .fwid f => evenIf f.w f.d && evenIf f.w f.a && clsOk1 f.d f.a
  | .fbis f => evenIf f.w f.d && evenIf f.w f.a && clsOk1 f.d f.a
  | .fcmpLt f => evenIf f.w f.a && evenIf f.w f.b
  | .fcmpLe f => evenIf f.w f.a && evenIf f.w f.b
  | .fcmpGt f => evenIf f.w f.a && evenIf f.w f.b
  | .fcmpGe f => evenIf f.w f.a && evenIf f.w f.b
  | .fcmpEq f => evenIf f.w f.a && evenIf f.w f.b
  | .fcmpNe f => evenIf f.w f.a && evenIf f.w f.b
  | .fcmpSub f => evenIf f.w f.a && evenIf f.w f.b
  | .fcmpIn f => evenIf f.w f.a && evenIf f.w f.b
  | .fcmpDis f => evenIf f.w f.a && evenIf f.w f.b
  | .fclass f => evenIf f.w f.a && clsOk1 f.d f.a
  | .cvtf f => cvtfRegs f.w f.b f.d f.a && clsOk1 f.d f.a
  | .cvti f => evenIf f.w f.a && clsOk1 f.d f.a
  | .cvfi f => evenIf f.w f.d && clsOk1 f.d f.a
  | .cbx f => evenIf f.w f.d && clsOk1 f.d f.a
  | .cbq f => evenIf f.w f.a && clsOk1 f.d f.a
  | .cbld f => isS f.a
  | .bra _ => true
  | .brc _ => true
  | .bmz _ => true
  | .bmnz _ => true
  | .call f => isS f.d
  | .ret f => isS f.a
  | .jmpi f => isS f.a
  | .exit _ => true
  | .yield _ => true
  | .waitcy f => isS f.a
  | .mif _ => true
  | .melse _ => true
  | .mund _ => true
  | .mend _ => true
  | .mwhile _ => true
  | .mset f => f.b != 2 || (isS f.d && isS f.a)
  | .mget f => isS f.d && (f.b == 1 || isS f.a)
  | .pand _ => true
  | .por _ => true
  | .pnot _ => true
  | .pxor _ => true
  | .psel _ => true
  | .pmov _ => true
  | .ptoi f => !isS f.d || isS f.b
  | .itop f => f.b != 2 || isS f.a
  | .vote _ => true
  | .redi _ => true
  | .redf f => evenIf (f.b.getLsbD 3) f.d && evenIf (f.b.getLsbD 3) f.a
  | .scan f => !isS f.d && evenIf (f.b.extractLsb' 3 2 == 3) f.d && evenIf (f.b.extractLsb' 3 2 == 3) f.a
  | .shfl f => !isS f.d
  | .qxch f => !isS f.d
  | .qbc f => !isS f.d
  | .ld f => !isT f.d && clsOk1 f.d f.a
  | .ldOffset f => !isT f.d && clsOk1 f.d f.a
  | .st _ => true
  | .stOffset _ => true
  | .ldv f => evenIf (f.sz.getLsbD 3) f.d && !isT f.d && clsOk1 f.d f.a
  | .ldvOffset f => evenIf (f.sz.getLsbD 3) f.d && !isT f.d && clsOk1 f.d f.a
  | .stv f => evenIf (f.sz.getLsbD 3) f.d
  | .stvOffset f => evenIf (f.sz.getLsbD 3) f.d
  | .ldn f => isV f.d && evenIf (f.sz.getLsbD 3) f.d && evenS f.a
  | .ldnOffset f => isV f.d && evenIf (f.sz.getLsbD 3) f.d && evenS f.a
  | .stn f => evenIf (f.sz.getLsbD 3) f.d && evenS f.a
  | .stnOffset f => evenIf (f.sz.getLsbD 3) f.d && evenS f.a
  | .lds f => !isT f.d && clsOk1 f.d f.a
  | .ldsOffset f => !isT f.d && clsOk1 f.d f.a
  | .sts _ => true
  | .stsOffset _ => true
  | .ldg f => !isS f.a && isV f.d && evenIf (f.x.getLsbD 13 && f.sz.getLsbD 3) f.d
  | .stg f => !isS f.a && evenIf (f.x.getLsbD 13 && f.sz.getLsbD 3) f.d
  | .ldl f => !isT f.d && clsOk1 f.d f.a
  | .stl _ => true
  | .ncvt f => !isS f.d && evenIf (f.b.getLsbD 3) f.a
  | .pref _ => true
  | .prefOffset _ => true
  | .smap f => isS f.d && isS f.a
  | .sunmap f => isS f.a
  | .aadd f => (f.sz.extractLsb' 0 2 == 2 || (!isT f.d && clsOk1 f.d f.a))
  | .amin f => (f.sz.extractLsb' 0 2 == 2 || (!isT f.d && clsOk1 f.d f.a))
  | .amax f => (f.sz.extractLsb' 0 2 == 2 || (!isT f.d && clsOk1 f.d f.a))
  | .aand f => (f.sz.extractLsb' 0 2 == 2 || (!isT f.d && clsOk1 f.d f.a))
  | .aor f => (f.sz.extractLsb' 0 2 == 2 || (!isT f.d && clsOk1 f.d f.a))
  | .axor f => (f.sz.extractLsb' 0 2 == 2 || (!isT f.d && clsOk1 f.d f.a))
  | .axchg f => (f.sz.extractLsb' 0 2 == 2 || (!isT f.d && clsOk1 f.d f.a))
  | .acas f => (f.sz.extractLsb' 0 2 == 2 || (!isT f.d && clsOk1 f.d f.a)) && evenIf true f.d
  | .ainc f => (f.sz.extractLsb' 0 2 == 2 || (!isT f.d && clsOk1 f.d f.a))
  | .adec f => (f.sz.extractLsb' 0 2 == 2 || (!isT f.d && clsOk1 f.d f.a))
  | .afadd f => (f.sz.extractLsb' 0 2 == 2 || (!isT f.d && clsOk1 f.d f.a)) && evenIf (f.sz.getLsbD 2) f.d
  | .afmin f => (f.sz.extractLsb' 0 2 == 2 || (!isT f.d && clsOk1 f.d f.a)) && evenIf (f.sz.getLsbD 2) f.d
  | .afmax f => (f.sz.extractLsb' 0 2 == 2 || (!isT f.d && clsOk1 f.d f.a)) && evenIf (f.sz.getLsbD 2) f.d
  | .bar _ => true
  | .barc _ => true
  | .bufdef f => isS f.a && isS f.b
  | .bufwait _ => true
  | .buffree _ => true
  | .cpygo f => isS f.a
  | .cpyst f => isS f.d
  | .publ _ => true
  | .region _ => true
  | .commit _ => true
  | .waitc f => isS f.d && isS f.a && isS f.b
  | .sigc f => isS f.a && isS f.b
  | .seal f => isS f.a
  | .unseal _ => true
  | .macq f => isS f.d
  | .mrel _ => true
  | .mldb f => evenS f.a
  | .mma f => evenS f.a
  | .mmar f => evenS f.a
  | .mmaPair f => evenS f.a
  | .mmarPair f => evenS f.a
  | .mzero f => isS f.a
  | .mstore f => evenS f.d && evenS f.a
  | .mloadc f => evenS f.d && evenS f.a
  | .msave f => isS f.a && (f.sz == 1 || isS f.d)
  | .mrst f => isS f.a && (f.sz == 1 || isS f.d)
  | .mstat f => isS f.d
  | .mcbk f => isS f.a
  | .mdep f => isS f.a
  | .split f => isV f.a && evenIf f.w f.a
  | .fork _ => true
  | .take _ => true
  | .hstat f => isS f.d
  | .launch f => isS f.a
  | .lstat f => isS f.d
  | .nop _ => true
  | .trl _ => true
  | .trap _ => true
  | .tret _ => true
  | .rdsr f => rdsrOk f.d f.i
  | .wrsr f => wrsrOk f.d f.i
  | .ldio f => isS f.d && isS f.a
  | .stio f => isS f.d && isS f.a
  | .wfe _ => true
  | .halt _ => true
  | .pipeSelect _ _ => true
  | .longLatencyArrival _ _ => true
  | .registerRefill _ => true
  | .regionCommit _ => true
  | .conflict _ _ => true
  | .exclDeferralExpiry _ => true
  | .orderInversion _ => true
  | .priorityAgeing _ => true
  | .cycleReached _ => true
  | .groupAdmit => true
  | .swapwaitExpiry _ => true
  | .groupSave _ => true
  | .groupRestore _ => true
  | .groupFree _ => true
  | .hamperRefill _ _ => true
  | .forageRequest _ _ _ => true
  | .forageTransferArrival _ _ => true
  | .forageRestart _ _ => true
  | .ringPathLost _ _ => true
  | .quiescenceSweep => true
  | .copyRecord _ => true
  | .scratchArrival _ => true
  | .sluiceStep _ => true
  | .counterReread _ => true
  | .matrixOpBegin _ => true
  | .matrixOccupancyEnd _ => true
  | .matrixOpRetire _ => true
  | .mdepDecrement _ => true
  | .launchAcceptance _ => true
  | .qheadWrite _ _ => true
  | .qctlWrite _ _ => true
  | .qstatHaltClear _ => true
  | .launchCommand _ => true
  | .copyCommand _ => true
  | .waitcCommand _ => true
  | .sigcCommand _ => true
  | .markCmd _ => true
  | .tresumeResume _ => true
  | .tresumeFail _ => true
  | .faultRecordWrite => true
  | .tlbinvPage _ _ => true
  | .tlbinvContext _ => true
  | .tlbinvAll => true
  | .tlbinvDone => true
  | .registerWrite _ _ _ => true
  | .measureMailboxWrite _ _ => true
  | .mregExtend _ => true
  | .mlockWrite _ => true
  | .otpProgramOwner => true
  | .otpRevokeOwner => true
  | .otpRevokeVendor => true
  | .otpSvnRaise _ => true
  | .moduleReset => true
  | .pwrctlWrite _ => true
  | .vcoreWrite _ _ => true
  | .ctlrstWrite _ => true
  | .evdbWrite _ => true
  | .hostenWrite _ => true
  | .dramTrainStart _ _ => true
  | .dramTrainAbort _ => true
  | .dramTrainDone _ _ => true
  | .dramTrainTimeout _ => true
  | .dmenWrite _ _ => true
  | .linkTrainStart _ _ => true
  | .linkTrainAbort _ => true
  | .linkTrainDone _ _ _ => true
  | .linkTrainTimeout _ => true
  | .clockModeWrite _ _ => true
  | .clockRelockDone _ => true
  | .meteredClockHalt _ _ => true
  | .meteredClockResume _ _ => true
  | .coreHotSet _ _ _ => true
  | .coreHotClear _ _ _ => true
  | .softError _ => true
  | .hostAccess _ => true
  | .hostSnoop _ => true
  | .birsp _ _ => true
  | .birspTimeout _ => true
  | .flr => true
  | .flrDrainDeadline => true
  | .flrZeroDone => true
  | .flitReceive _ _ => true
  | .portDown _ _ => true
  | .rdl _ _ => true
  | .wrl _ _ => true
  | .dataMsg _ _ => true
  | .ack _ _ => true
  | .pgs _ _ => true
  | .pgm _ _ => true
  | .grant _ _ => true
  | .recallMsg _ _ => true
  | .retn _ _ => true
  | .atom _ _ => true
  | .nack _ _ => true
  | .recallRetransmit _ => true
  | .spdmRequest _ => true
  | .powerGoodChange _ => true
  | .droopLevelTrip _ _ => true

/-- A word that no static cause of its own makes ILLEGAL (R190). -/
def Instr.wf (i : Instr) : Bool := i.fieldsOk && i.classOk

/-- The E bit of a word; an event has none. -/
def Instr.ebit : Instr → Bool
  | .iadd f => f.e
  | .isub f => f.e
  | .imul f => f.e
  | .imulhI f => f.e
  | .imulhN f => f.e
  | .imad f => f.e
  | .idivI f => f.e
  | .idivN f => f.e
  | .iremI f => f.e
  | .iremN f => f.e
  | .iminI f => f.e
  | .iminN f => f.e
  | .imaxI f => f.e
  | .imaxN f => f.e
  | .iaddsI f => f.e
  | .iaddsN f => f.e
  | .isubsI f => f.e
  | .isubsN f => f.e
  | .andR f => f.e
  | .orR f => f.e
  | .xorR f => f.e
  | .andn f => f.e
  | .shl f => f.e
  | .shr f => f.e
  | .sar f => f.e
  | .rol f => f.e
  | .ror f => f.e
  | .ineg f => f.e
  | .iabs f => f.e
  | .notR f => f.e
  | .popc f => f.e
  | .clz f => f.e
  | .ctz f => f.e
  | .brev f => f.e
  | .movKill f => f.e
  | .mov f => f.e
  | .bfx f => f.e
  | .bfi f => f.e
  | .sel f => f.e
  | .icmpEq f => f.e
  | .icmpNe f => f.e
  | .icmpLtI f => f.e
  | .icmpLeI f => f.e
  | .icmpGtI f => f.e
  | .icmpGeI f => f.e
  | .icmpLtN f => f.e
  | .icmpLeN f => f.e
  | .icmpGtN f => f.e
  | .icmpGeN f => f.e
  | .iaddImm f => f.e
  | .isubImm f => f.e
  | .imulImm f => f.e
  | .andImm f => f.e
  | .orImm f => f.e
  | .xorImm f => f.e
  | .shlImm f => f.e
  | .shrImm f => f.e
  | .sarImm f => f.e
  | .movi f => f.e
  | .movl f => f.e
  | .wbaseImm f => f.e
  | .wbaseReg f => f.e
  | .lea f => f.e
  | .fadd f => f.e
  | .fsub f => f.e
  | .fmul f => f.e
  | .fdiv f => f.e
  | .fdiv2 f => f.e
  | .ffma f => f.e
  | .fmin f => f.e
  | .fmax f => f.e
  | .fhull f => f.e
  | .fmeet f => f.e
  | .fmake f => f.e
  | .fneg f => f.e
  | .fabs f => f.e
  | .fsqr f => f.e
  | .fsqrt f => f.e
  | .frcp f => f.e
  | .frsq f => f.e
  | .fexp f => f.e
  | .fexp2 f => f.e
  | .flog f => f.e
  | .flog2 f => f.e
  | .fsin f => f.e
  | .fcos f => f.e
  | .ftanh f => f.e
  | .flo f => f.e
  | .fhi f => f.e
  | .fmid f => f.e
  | .frad f => f.e
  | .fwid f => f.e
  | .fbis f => f.e
  | .fcmpLt f => f.e
  | .fcmpLe f => f.e
  | .fcmpGt f => f.e
  | .fcmpGe f => f.e
  | .fcmpEq f => f.e
  | .fcmpNe f => f.e
  | .fcmpSub f => f.e
  | .fcmpIn f => f.e
  | .fcmpDis f => f.e
  | .fclass f => f.e
  | .cvtf f => f.e
  | .cvti f => f.e
  | .cvfi f => f.e
  | .cbx f => f.e
  | .cbq f => f.e
  | .cbld f => f.e
  | .bra f => f.e
  | .brc f => f.e
  | .bmz f => f.e
  | .bmnz f => f.e
  | .call f => f.e
  | .ret f => f.e
  | .jmpi f => f.e
  | .exit f => f.e
  | .yield f => f.e
  | .waitcy f => f.e
  | .mif f => f.e
  | .melse f => f.e
  | .mund f => f.e
  | .mend f => f.e
  | .mwhile f => f.e
  | .mset f => f.e
  | .mget f => f.e
  | .pand f => f.e
  | .por f => f.e
  | .pnot f => f.e
  | .pxor f => f.e
  | .psel f => f.e
  | .pmov f => f.e
  | .ptoi f => f.e
  | .itop f => f.e
  | .vote f => f.e
  | .redi f => f.e
  | .redf f => f.e
  | .scan f => f.e
  | .shfl f => f.e
  | .qxch f => f.e
  | .qbc f => f.e
  | .ld f => f.e
  | .ldOffset f => f.e
  | .st f => f.e
  | .stOffset f => f.e
  | .ldv f => f.e
  | .ldvOffset f => f.e
  | .stv f => f.e
  | .stvOffset f => f.e
  | .ldn f => f.e
  | .ldnOffset f => f.e
  | .stn f => f.e
  | .stnOffset f => f.e
  | .lds f => f.e
  | .ldsOffset f => f.e
  | .sts f => f.e
  | .stsOffset f => f.e
  | .ldg f => f.e
  | .stg f => f.e
  | .ldl f => f.e
  | .stl f => f.e
  | .ncvt f => f.e
  | .pref f => f.e
  | .prefOffset f => f.e
  | .smap f => f.e
  | .sunmap f => f.e
  | .aadd f => f.e
  | .amin f => f.e
  | .amax f => f.e
  | .aand f => f.e
  | .aor f => f.e
  | .axor f => f.e
  | .axchg f => f.e
  | .acas f => f.e
  | .ainc f => f.e
  | .adec f => f.e
  | .afadd f => f.e
  | .afmin f => f.e
  | .afmax f => f.e
  | .bar f => f.e
  | .barc f => f.e
  | .bufdef f => f.e
  | .bufwait f => f.e
  | .buffree f => f.e
  | .cpygo f => f.e
  | .cpyst f => f.e
  | .publ f => f.e
  | .region f => f.e
  | .commit f => f.e
  | .waitc f => f.e
  | .sigc f => f.e
  | .seal f => f.e
  | .unseal f => f.e
  | .macq f => f.e
  | .mrel f => f.e
  | .mldb f => f.e
  | .mma f => f.e
  | .mmar f => f.e
  | .mmaPair f => f.e
  | .mmarPair f => f.e
  | .mzero f => f.e
  | .mstore f => f.e
  | .mloadc f => f.e
  | .msave f => f.e
  | .mrst f => f.e
  | .mstat f => f.e
  | .mcbk f => f.e
  | .mdep f => f.e
  | .split f => f.e
  | .fork f => f.e
  | .take f => f.e
  | .hstat f => f.e
  | .launch f => f.e
  | .lstat f => f.e
  | .nop f => f.e
  | .trl f => f.e
  | .trap f => f.e
  | .tret f => f.e
  | .rdsr f => f.e
  | .wrsr f => f.e
  | .ldio f => f.e
  | .stio f => f.e
  | .wfe f => f.e
  | .halt f => f.e
  | .pipeSelect _ _ => false
  | .longLatencyArrival _ _ => false
  | .registerRefill _ => false
  | .regionCommit _ => false
  | .conflict _ _ => false
  | .exclDeferralExpiry _ => false
  | .orderInversion _ => false
  | .priorityAgeing _ => false
  | .cycleReached _ => false
  | .groupAdmit => false
  | .swapwaitExpiry _ => false
  | .groupSave _ => false
  | .groupRestore _ => false
  | .groupFree _ => false
  | .hamperRefill _ _ => false
  | .forageRequest _ _ _ => false
  | .forageTransferArrival _ _ => false
  | .forageRestart _ _ => false
  | .ringPathLost _ _ => false
  | .quiescenceSweep => false
  | .copyRecord _ => false
  | .scratchArrival _ => false
  | .sluiceStep _ => false
  | .counterReread _ => false
  | .matrixOpBegin _ => false
  | .matrixOccupancyEnd _ => false
  | .matrixOpRetire _ => false
  | .mdepDecrement _ => false
  | .launchAcceptance _ => false
  | .qheadWrite _ _ => false
  | .qctlWrite _ _ => false
  | .qstatHaltClear _ => false
  | .launchCommand _ => false
  | .copyCommand _ => false
  | .waitcCommand _ => false
  | .sigcCommand _ => false
  | .markCmd _ => false
  | .tresumeResume _ => false
  | .tresumeFail _ => false
  | .faultRecordWrite => false
  | .tlbinvPage _ _ => false
  | .tlbinvContext _ => false
  | .tlbinvAll => false
  | .tlbinvDone => false
  | .registerWrite _ _ _ => false
  | .measureMailboxWrite _ _ => false
  | .mregExtend _ => false
  | .mlockWrite _ => false
  | .otpProgramOwner => false
  | .otpRevokeOwner => false
  | .otpRevokeVendor => false
  | .otpSvnRaise _ => false
  | .moduleReset => false
  | .pwrctlWrite _ => false
  | .vcoreWrite _ _ => false
  | .ctlrstWrite _ => false
  | .evdbWrite _ => false
  | .hostenWrite _ => false
  | .dramTrainStart _ _ => false
  | .dramTrainAbort _ => false
  | .dramTrainDone _ _ => false
  | .dramTrainTimeout _ => false
  | .dmenWrite _ _ => false
  | .linkTrainStart _ _ => false
  | .linkTrainAbort _ => false
  | .linkTrainDone _ _ _ => false
  | .linkTrainTimeout _ => false
  | .clockModeWrite _ _ => false
  | .clockRelockDone _ => false
  | .meteredClockHalt _ _ => false
  | .meteredClockResume _ _ => false
  | .coreHotSet _ _ _ => false
  | .coreHotClear _ _ _ => false
  | .softError _ => false
  | .hostAccess _ => false
  | .hostSnoop _ => false
  | .birsp _ _ => false
  | .birspTimeout _ => false
  | .flr => false
  | .flrDrainDeadline => false
  | .flrZeroDone => false
  | .flitReceive _ _ => false
  | .portDown _ _ => false
  | .rdl _ _ => false
  | .wrl _ _ => false
  | .dataMsg _ _ => false
  | .ack _ _ => false
  | .pgs _ _ => false
  | .pgm _ _ => false
  | .grant _ _ => false
  | .recallMsg _ _ => false
  | .retn _ _ => false
  | .atom _ _ => false
  | .nack _ _ => false
  | .recallRetransmit _ => false
  | .spdmRequest _ => false
  | .powerGoodChange _ => false
  | .droopLevelTrip _ _ => false

/-- An event of the machine, not an instruction word. -/
def Instr.isEvent : Instr → Bool
  | .iadd _ => false
  | .isub _ => false
  | .imul _ => false
  | .imulhI _ => false
  | .imulhN _ => false
  | .imad _ => false
  | .idivI _ => false
  | .idivN _ => false
  | .iremI _ => false
  | .iremN _ => false
  | .iminI _ => false
  | .iminN _ => false
  | .imaxI _ => false
  | .imaxN _ => false
  | .iaddsI _ => false
  | .iaddsN _ => false
  | .isubsI _ => false
  | .isubsN _ => false
  | .andR _ => false
  | .orR _ => false
  | .xorR _ => false
  | .andn _ => false
  | .shl _ => false
  | .shr _ => false
  | .sar _ => false
  | .rol _ => false
  | .ror _ => false
  | .ineg _ => false
  | .iabs _ => false
  | .notR _ => false
  | .popc _ => false
  | .clz _ => false
  | .ctz _ => false
  | .brev _ => false
  | .movKill _ => false
  | .mov _ => false
  | .bfx _ => false
  | .bfi _ => false
  | .sel _ => false
  | .icmpEq _ => false
  | .icmpNe _ => false
  | .icmpLtI _ => false
  | .icmpLeI _ => false
  | .icmpGtI _ => false
  | .icmpGeI _ => false
  | .icmpLtN _ => false
  | .icmpLeN _ => false
  | .icmpGtN _ => false
  | .icmpGeN _ => false
  | .iaddImm _ => false
  | .isubImm _ => false
  | .imulImm _ => false
  | .andImm _ => false
  | .orImm _ => false
  | .xorImm _ => false
  | .shlImm _ => false
  | .shrImm _ => false
  | .sarImm _ => false
  | .movi _ => false
  | .movl _ => false
  | .wbaseImm _ => false
  | .wbaseReg _ => false
  | .lea _ => false
  | .fadd _ => false
  | .fsub _ => false
  | .fmul _ => false
  | .fdiv _ => false
  | .fdiv2 _ => false
  | .ffma _ => false
  | .fmin _ => false
  | .fmax _ => false
  | .fhull _ => false
  | .fmeet _ => false
  | .fmake _ => false
  | .fneg _ => false
  | .fabs _ => false
  | .fsqr _ => false
  | .fsqrt _ => false
  | .frcp _ => false
  | .frsq _ => false
  | .fexp _ => false
  | .fexp2 _ => false
  | .flog _ => false
  | .flog2 _ => false
  | .fsin _ => false
  | .fcos _ => false
  | .ftanh _ => false
  | .flo _ => false
  | .fhi _ => false
  | .fmid _ => false
  | .frad _ => false
  | .fwid _ => false
  | .fbis _ => false
  | .fcmpLt _ => false
  | .fcmpLe _ => false
  | .fcmpGt _ => false
  | .fcmpGe _ => false
  | .fcmpEq _ => false
  | .fcmpNe _ => false
  | .fcmpSub _ => false
  | .fcmpIn _ => false
  | .fcmpDis _ => false
  | .fclass _ => false
  | .cvtf _ => false
  | .cvti _ => false
  | .cvfi _ => false
  | .cbx _ => false
  | .cbq _ => false
  | .cbld _ => false
  | .bra _ => false
  | .brc _ => false
  | .bmz _ => false
  | .bmnz _ => false
  | .call _ => false
  | .ret _ => false
  | .jmpi _ => false
  | .exit _ => false
  | .yield _ => false
  | .waitcy _ => false
  | .mif _ => false
  | .melse _ => false
  | .mund _ => false
  | .mend _ => false
  | .mwhile _ => false
  | .mset _ => false
  | .mget _ => false
  | .pand _ => false
  | .por _ => false
  | .pnot _ => false
  | .pxor _ => false
  | .psel _ => false
  | .pmov _ => false
  | .ptoi _ => false
  | .itop _ => false
  | .vote _ => false
  | .redi _ => false
  | .redf _ => false
  | .scan _ => false
  | .shfl _ => false
  | .qxch _ => false
  | .qbc _ => false
  | .ld _ => false
  | .ldOffset _ => false
  | .st _ => false
  | .stOffset _ => false
  | .ldv _ => false
  | .ldvOffset _ => false
  | .stv _ => false
  | .stvOffset _ => false
  | .ldn _ => false
  | .ldnOffset _ => false
  | .stn _ => false
  | .stnOffset _ => false
  | .lds _ => false
  | .ldsOffset _ => false
  | .sts _ => false
  | .stsOffset _ => false
  | .ldg _ => false
  | .stg _ => false
  | .ldl _ => false
  | .stl _ => false
  | .ncvt _ => false
  | .pref _ => false
  | .prefOffset _ => false
  | .smap _ => false
  | .sunmap _ => false
  | .aadd _ => false
  | .amin _ => false
  | .amax _ => false
  | .aand _ => false
  | .aor _ => false
  | .axor _ => false
  | .axchg _ => false
  | .acas _ => false
  | .ainc _ => false
  | .adec _ => false
  | .afadd _ => false
  | .afmin _ => false
  | .afmax _ => false
  | .bar _ => false
  | .barc _ => false
  | .bufdef _ => false
  | .bufwait _ => false
  | .buffree _ => false
  | .cpygo _ => false
  | .cpyst _ => false
  | .publ _ => false
  | .region _ => false
  | .commit _ => false
  | .waitc _ => false
  | .sigc _ => false
  | .seal _ => false
  | .unseal _ => false
  | .macq _ => false
  | .mrel _ => false
  | .mldb _ => false
  | .mma _ => false
  | .mmar _ => false
  | .mmaPair _ => false
  | .mmarPair _ => false
  | .mzero _ => false
  | .mstore _ => false
  | .mloadc _ => false
  | .msave _ => false
  | .mrst _ => false
  | .mstat _ => false
  | .mcbk _ => false
  | .mdep _ => false
  | .split _ => false
  | .fork _ => false
  | .take _ => false
  | .hstat _ => false
  | .launch _ => false
  | .lstat _ => false
  | .nop _ => false
  | .trl _ => false
  | .trap _ => false
  | .tret _ => false
  | .rdsr _ => false
  | .wrsr _ => false
  | .ldio _ => false
  | .stio _ => false
  | .wfe _ => false
  | .halt _ => false
  | .pipeSelect _ _ => true
  | .longLatencyArrival _ _ => true
  | .registerRefill _ => true
  | .regionCommit _ => true
  | .conflict _ _ => true
  | .exclDeferralExpiry _ => true
  | .orderInversion _ => true
  | .priorityAgeing _ => true
  | .cycleReached _ => true
  | .groupAdmit => true
  | .swapwaitExpiry _ => true
  | .groupSave _ => true
  | .groupRestore _ => true
  | .groupFree _ => true
  | .hamperRefill _ _ => true
  | .forageRequest _ _ _ => true
  | .forageTransferArrival _ _ => true
  | .forageRestart _ _ => true
  | .ringPathLost _ _ => true
  | .quiescenceSweep => true
  | .copyRecord _ => true
  | .scratchArrival _ => true
  | .sluiceStep _ => true
  | .counterReread _ => true
  | .matrixOpBegin _ => true
  | .matrixOccupancyEnd _ => true
  | .matrixOpRetire _ => true
  | .mdepDecrement _ => true
  | .launchAcceptance _ => true
  | .qheadWrite _ _ => true
  | .qctlWrite _ _ => true
  | .qstatHaltClear _ => true
  | .launchCommand _ => true
  | .copyCommand _ => true
  | .waitcCommand _ => true
  | .sigcCommand _ => true
  | .markCmd _ => true
  | .tresumeResume _ => true
  | .tresumeFail _ => true
  | .faultRecordWrite => true
  | .tlbinvPage _ _ => true
  | .tlbinvContext _ => true
  | .tlbinvAll => true
  | .tlbinvDone => true
  | .registerWrite _ _ _ => true
  | .measureMailboxWrite _ _ => true
  | .mregExtend _ => true
  | .mlockWrite _ => true
  | .otpProgramOwner => true
  | .otpRevokeOwner => true
  | .otpRevokeVendor => true
  | .otpSvnRaise _ => true
  | .moduleReset => true
  | .pwrctlWrite _ => true
  | .vcoreWrite _ _ => true
  | .ctlrstWrite _ => true
  | .evdbWrite _ => true
  | .hostenWrite _ => true
  | .dramTrainStart _ _ => true
  | .dramTrainAbort _ => true
  | .dramTrainDone _ _ => true
  | .dramTrainTimeout _ => true
  | .dmenWrite _ _ => true
  | .linkTrainStart _ _ => true
  | .linkTrainAbort _ => true
  | .linkTrainDone _ _ _ => true
  | .linkTrainTimeout _ => true
  | .clockModeWrite _ _ => true
  | .clockRelockDone _ => true
  | .meteredClockHalt _ _ => true
  | .meteredClockResume _ _ => true
  | .coreHotSet _ _ _ => true
  | .coreHotClear _ _ _ => true
  | .softError _ => true
  | .hostAccess _ => true
  | .hostSnoop _ => true
  | .birsp _ _ => true
  | .birspTimeout _ => true
  | .flr => true
  | .flrDrainDeadline => true
  | .flrZeroDone => true
  | .flitReceive _ _ => true
  | .portDown _ _ => true
  | .rdl _ _ => true
  | .wrl _ _ => true
  | .dataMsg _ _ => true
  | .ack _ _ => true
  | .pgs _ _ => true
  | .pgm _ _ => true
  | .grant _ _ => true
  | .recallMsg _ _ => true
  | .retn _ _ => true
  | .atom _ _ => true
  | .nack _ _ => true
  | .recallRetransmit _ => true
  | .spdmRequest _ => true
  | .powerGoodChange _ => true
  | .droopLevelTrip _ _ => true

end Sys2Proof
end

