-- ==== Sys2Proof/Decode.lean ====
section
/-! DEFINITION. The decoder, total on any words, and the encoder (R172, R185 to R189). -/
namespace Sys2Proof

/-- Why words are no instruction. -/
inductive DecodeError where
  | noWord        -- nothing to decode
  | unassigned    -- an OPC no table assigns
  | truncated     -- an X word is missing
  | reserved      -- a reserved field is nonzero or a code is not accepted
  deriving DecidableEq, Repr

/-- What the decoder answers: an instruction and its word count, or a named rejection. -/
inductive Decoded where
  | ok (i : Instr) (n : Nat)
  | error (e : DecodeError)
  deriving DecidableEq, Repr

/-- OPC, bits [30:21] of a word. -/
def wordOpc (x : W32) : BitVec 10 := x.extractLsb' 21 10

/-- Assembling a word of each format (R172). -/
def mkA (e : Bool) (opc : Nat) (d a b : Reg) : W32 :=
  BitVec.ofBool e ++ BitVec.ofNat 10 opc ++ d ++ a ++ b
def mkC (e : Bool) (opc : Nat) (d : Reg) (i : BitVec 14) : W32 := BitVec.ofBool e ++ BitVec.ofNat 10 opc ++ d ++ i
def mkL (e : Bool) (opc : Nat) (d a : Reg) (k : BitVec 3) (sz : BitVec 4) : W32 :=
  BitVec.ofBool e ++ BitVec.ofNat 10 opc ++ d ++ a ++ k ++ sz
def mkT (e : Bool) (opc : Nat) (aw : BitVec 8) (z : BitVec 13) : W32 :=
  BitVec.ofBool e ++ BitVec.ofNat 10 opc ++ aw ++ z

/-- Fields of a word. -/
def fE (x : W32) : Bool := x.getLsbD 31
def fW (x : W32) : Bool := x.getLsbD 21
def fD (x : W32) : Reg := x.extractLsb' 14 7
def fA (x : W32) : Reg := x.extractLsb' 7 7
def fB (x : W32) : Reg := x.extractLsb' 0 7
def fI14 (x : W32) : BitVec 14 := x.extractLsb' 0 14
def fK (x : W32) : BitVec 3 := x.extractLsb' 4 3
def fSz (x : W32) : BitVec 4 := x.extractLsb' 0 4

/-- How the words of a row become a constructor. -/
inductive Shape where
  | a (c : FA → Instr) | aw (c : FAW → Instr) | ax (c : FAX → Instr) | awx (c : FAWX → Instr)
  | b (c : FB → Instr) | bw (c : FBW → Instr) | c (c : FC → Instr) | cw (c : FCW → Instr)
  | l (c : FL → Instr) | lx (c : FLX → Instr) | t (c : FT → Instr) | e (c : FE → Instr) | m (c : FM → Instr)

/-- One row of the opcode map: its first OPC, how many OPCs it takes, and its shape. -/
structure Row where
  opc : Nat
  n : Nat
  shape : Shape

/-- The instruction that a row's shape reads from a word and the words that follow it, with the number of words. -/
def Shape.read (s : Shape) (x : W32) (xs : List W32) : Option (Instr × Nat) :=
  match s with
  | .a mk => some (mk ⟨fE x, fD x, fA x, fB x⟩, 1)
  | .aw mk => some (mk ⟨fE x, fW x, fD x, fA x, fB x⟩, 1)
  | .ax mk => xs.head?.map fun y => (mk ⟨fE x, fD x, fA x, fB x, y⟩, 2)
  | .awx mk => xs.head?.map fun y => (mk ⟨fE x, fW x, fD x, fA x, fB x, y⟩, 2)
  | .b mk => some (mk ⟨fE x, fD x, fA x, fB x⟩, 1)
  | .bw mk => some (mk ⟨fE x, fW x, fD x, fA x, fB x⟩, 1)
  | .c mk => some (mk ⟨fE x, fD x, fI14 x⟩, 1)
  | .cw mk => some (mk ⟨fE x, fW x, fD x, fI14 x⟩, 1)
  | .l mk => some (mk ⟨fE x, fD x, fA x, fK x, fSz x⟩, 1)
  | .lx mk => xs.head?.map fun y => (mk ⟨fE x, fD x, fA x, fK x, fSz x, y⟩, 2)
  | .t mk => some (mk ⟨fE x, x.extractLsb' 13 8, x.extractLsb' 0 13⟩, 1)
  | .e mk => some (mk ⟨fE x, x.extractLsb' 21 2, fD x, fA x, fB x⟩, 1)
  | .m mk =>
    match fW x, xs with
    | false, y :: _ => some (mk ⟨fE x, false, fD x, fA x, fB x, y, 0⟩, 2)
    | true, y :: z :: _ => some (mk ⟨fE x, true, fD x, fA x, fB x, y, z⟩, 3)
    | _, _ => none

/-- The opcode map, OPC 0x000 to 0x07F (R186 to R189). -/
def rowsInt : List Row := [
  ⟨0x000, 2, .aw .iadd⟩,
  ⟨0x002, 2, .aw .isub⟩,
  ⟨0x004, 2, .aw .imul⟩,
  ⟨0x006, 2, .aw .imulhI⟩,
  ⟨0x008, 2, .aw .imulhN⟩,
  ⟨0x00A, 2, .aw .imad⟩,
  ⟨0x00C, 2, .aw .idivI⟩,
  ⟨0x00E, 2, .aw .idivN⟩,
  ⟨0x010, 2, .aw .iremI⟩,
  ⟨0x012, 2, .aw .iremN⟩,
  ⟨0x014, 2, .aw .iminI⟩,
  ⟨0x016, 2, .aw .iminN⟩,
  ⟨0x018, 2, .aw .imaxI⟩,
  ⟨0x01A, 2, .aw .imaxN⟩,
  ⟨0x01C, 2, .aw .iaddsI⟩,
  ⟨0x01E, 2, .aw .iaddsN⟩,
  ⟨0x020, 2, .aw .isubsI⟩,
  ⟨0x022, 2, .aw .isubsN⟩,
  ⟨0x024, 2, .aw .andR⟩,
  ⟨0x026, 2, .aw .orR⟩,
  ⟨0x028, 2, .aw .xorR⟩,
  ⟨0x02A, 2, .aw .andn⟩,
  ⟨0x02C, 2, .aw .shl⟩,
  ⟨0x02E, 2, .aw .shr⟩,
  ⟨0x030, 2, .aw .sar⟩,
  ⟨0x032, 2, .aw .rol⟩,
  ⟨0x034, 2, .aw .ror⟩,
  ⟨0x036, 2, .aw .ineg⟩,
  ⟨0x038, 2, .aw .iabs⟩,
  ⟨0x03A, 2, .aw .notR⟩,
  ⟨0x03C, 2, .aw .popc⟩,
  ⟨0x03E, 2, .aw .clz⟩,
  ⟨0x040, 2, .aw .ctz⟩,
  ⟨0x042, 2, .aw .brev⟩,
  ⟨0x044, 2, .aw .mov⟩,
  ⟨0x046, 2, .awx .bfx⟩,
  ⟨0x048, 2, .awx .bfi⟩,
  ⟨0x04A, 2, .awx .sel⟩,
  ⟨0x04C, 2, .aw .icmpEq⟩,
  ⟨0x04E, 2, .aw .icmpNe⟩,
  ⟨0x050, 2, .aw .icmpLtI⟩,
  ⟨0x052, 2, .aw .icmpLeI⟩,
  ⟨0x054, 2, .aw .icmpGtI⟩,
  ⟨0x056, 2, .aw .icmpGeI⟩,
  ⟨0x058, 2, .aw .icmpLtN⟩,
  ⟨0x05A, 2, .aw .icmpLeN⟩,
  ⟨0x05C, 2, .aw .icmpGtN⟩,
  ⟨0x05E, 2, .aw .icmpGeN⟩,
  ⟨0x060, 2, .bw .iaddImm⟩,
  ⟨0x062, 2, .bw .isubImm⟩,
  ⟨0x064, 2, .bw .imulImm⟩,
  ⟨0x066, 2, .bw .andImm⟩,
  ⟨0x068, 2, .bw .orImm⟩,
  ⟨0x06A, 2, .bw .xorImm⟩,
  ⟨0x06C, 2, .bw .shlImm⟩,
  ⟨0x06E, 2, .bw .shrImm⟩,
  ⟨0x070, 2, .bw .sarImm⟩,
  ⟨0x072, 2, .cw .movi⟩,
  ⟨0x074, 2, .m .movl⟩,
  ⟨0x076, 1, .c .wbaseImm⟩,
  ⟨0x077, 1, .a .wbaseReg⟩,
  ⟨0x078, 4, .e .lea⟩]

/-- The opcode map, OPC 0x080 to 0x0FF (R186 to R189). -/
def rowsFloat : List Row := [
  ⟨0x080, 2, .aw .fadd⟩,
  ⟨0x082, 2, .aw .fsub⟩,
  ⟨0x084, 2, .aw .fmul⟩,
  ⟨0x086, 2, .aw .fdiv⟩,
  ⟨0x088, 2, .aw .fdiv2⟩,
  ⟨0x08A, 2, .aw .ffma⟩,
  ⟨0x08C, 2, .aw .fmin⟩,
  ⟨0x08E, 2, .aw .fmax⟩,
  ⟨0x090, 2, .aw .fhull⟩,
  ⟨0x092, 2, .aw .fmeet⟩,
  ⟨0x094, 2, .aw .fmake⟩,
  ⟨0x096, 2, .aw .fneg⟩,
  ⟨0x098, 2, .aw .fabs⟩,
  ⟨0x09A, 2, .aw .fsqr⟩,
  ⟨0x09C, 2, .aw .fsqrt⟩,
  ⟨0x09E, 2, .aw .frcp⟩,
  ⟨0x0A0, 2, .aw .frsq⟩,
  ⟨0x0A2, 2, .aw .fexp⟩,
  ⟨0x0A4, 2, .aw .fexp2⟩,
  ⟨0x0A6, 2, .aw .flog⟩,
  ⟨0x0A8, 2, .aw .flog2⟩,
  ⟨0x0AA, 2, .aw .fsin⟩,
  ⟨0x0AC, 2, .aw .fcos⟩,
  ⟨0x0AE, 2, .aw .ftanh⟩,
  ⟨0x0B0, 2, .aw .flo⟩,
  ⟨0x0B2, 2, .aw .fhi⟩,
  ⟨0x0B4, 2, .aw .fmid⟩,
  ⟨0x0B6, 2, .aw .frad⟩,
  ⟨0x0B8, 2, .aw .fwid⟩,
  ⟨0x0BA, 2, .aw .fbis⟩,
  ⟨0x0C0, 2, .aw .fcmpLt⟩,
  ⟨0x0C2, 2, .aw .fcmpLe⟩,
  ⟨0x0C4, 2, .aw .fcmpGt⟩,
  ⟨0x0C6, 2, .aw .fcmpGe⟩,
  ⟨0x0C8, 2, .aw .fcmpEq⟩,
  ⟨0x0CA, 2, .aw .fcmpNe⟩,
  ⟨0x0CC, 2, .aw .fcmpSub⟩,
  ⟨0x0CE, 2, .aw .fcmpIn⟩,
  ⟨0x0D0, 2, .aw .fcmpDis⟩,
  ⟨0x0D2, 2, .aw .fclass⟩,
  ⟨0x0D4, 2, .aw .cvtf⟩,
  ⟨0x0D6, 2, .aw .cvti⟩,
  ⟨0x0D8, 2, .aw .cvfi⟩,
  ⟨0x0DA, 2, .aw .cbx⟩,
  ⟨0x0DC, 2, .aw .cbq⟩,
  ⟨0x0DE, 1, .l .cbld⟩]

/-- The opcode map, OPC 0x100 to 0x17F (R186 to R189). -/
def rowsControl : List Row := [
  ⟨0x100, 1, .c .bra⟩,
  ⟨0x101, 1, .c .brc⟩,
  ⟨0x102, 1, .c .bmz⟩,
  ⟨0x103, 1, .c .bmnz⟩,
  ⟨0x104, 1, .c .call⟩,
  ⟨0x105, 1, .a .ret⟩,
  ⟨0x106, 1, .a .jmpi⟩,
  ⟨0x107, 1, .a .exit⟩,
  ⟨0x108, 1, .a .yield⟩,
  ⟨0x109, 1, .a .waitcy⟩,
  ⟨0x10A, 1, .a .mif⟩,
  ⟨0x10B, 1, .a .melse⟩,
  ⟨0x10C, 1, .a .mund⟩,
  ⟨0x10D, 1, .a .mend⟩,
  ⟨0x10E, 1, .c .mwhile⟩,
  ⟨0x10F, 1, .a .mset⟩,
  ⟨0x110, 1, .a .mget⟩,
  ⟨0x111, 1, .a .pand⟩,
  ⟨0x112, 1, .a .por⟩,
  ⟨0x113, 1, .a .pnot⟩,
  ⟨0x114, 1, .a .pxor⟩,
  ⟨0x115, 1, .ax .psel⟩,
  ⟨0x116, 1, .a .pmov⟩,
  ⟨0x117, 1, .a .ptoi⟩,
  ⟨0x118, 1, .a .itop⟩,
  ⟨0x119, 1, .a .vote⟩,
  ⟨0x11A, 1, .a .redi⟩,
  ⟨0x11B, 1, .a .redf⟩,
  ⟨0x11C, 1, .a .scan⟩,
  ⟨0x11D, 1, .a .shfl⟩,
  ⟨0x11E, 1, .a .qxch⟩,
  ⟨0x11F, 1, .a .qbc⟩]

/-- The opcode map, OPC 0x180 to 0x1FF (R186 to R189). -/
def rowsMemory : List Row := [
  ⟨0x180, 1, .l .ld⟩,
  ⟨0x181, 1, .lx .ldOffset⟩,
  ⟨0x182, 1, .l .st⟩,
  ⟨0x183, 1, .lx .stOffset⟩,
  ⟨0x184, 1, .l .ldv⟩,
  ⟨0x185, 1, .lx .ldvOffset⟩,
  ⟨0x186, 1, .l .stv⟩,
  ⟨0x187, 1, .lx .stvOffset⟩,
  ⟨0x188, 1, .l .ldn⟩,
  ⟨0x189, 1, .lx .ldnOffset⟩,
  ⟨0x18A, 1, .l .stn⟩,
  ⟨0x18B, 1, .lx .stnOffset⟩,
  ⟨0x18C, 1, .l .lds⟩,
  ⟨0x18D, 1, .lx .ldsOffset⟩,
  ⟨0x18E, 1, .l .sts⟩,
  ⟨0x18F, 1, .lx .stsOffset⟩,
  ⟨0x190, 1, .lx .ldg⟩,
  ⟨0x191, 1, .lx .stg⟩,
  ⟨0x192, 1, .l .ldl⟩,
  ⟨0x193, 1, .l .stl⟩,
  ⟨0x194, 1, .a .ncvt⟩,
  ⟨0x196, 1, .a .pref⟩,
  ⟨0x197, 1, .ax .prefOffset⟩,
  ⟨0x198, 1, .ax .smap⟩,
  ⟨0x199, 1, .a .sunmap⟩]

/-- The opcode map, OPC 0x200 to 0x27F (R186 to R189). -/
def rowsSync : List Row := [
  ⟨0x200, 1, .l .aadd⟩,
  ⟨0x201, 1, .l .amin⟩,
  ⟨0x202, 1, .l .amax⟩,
  ⟨0x203, 1, .l .aand⟩,
  ⟨0x204, 1, .l .aor⟩,
  ⟨0x205, 1, .l .axor⟩,
  ⟨0x206, 1, .l .axchg⟩,
  ⟨0x207, 1, .l .acas⟩,
  ⟨0x208, 1, .l .ainc⟩,
  ⟨0x209, 1, .l .adec⟩,
  ⟨0x20A, 1, .l .afadd⟩,
  ⟨0x20B, 1, .l .afmin⟩,
  ⟨0x20C, 1, .l .afmax⟩,
  ⟨0x210, 1, .a .bar⟩,
  ⟨0x211, 1, .a .barc⟩,
  ⟨0x212, 1, .ax .bufdef⟩,
  ⟨0x213, 1, .a .bufwait⟩,
  ⟨0x214, 1, .a .buffree⟩,
  ⟨0x215, 1, .a .cpygo⟩,
  ⟨0x216, 1, .a .cpyst⟩,
  ⟨0x217, 1, .a .publ⟩,
  ⟨0x218, 1, .a .region⟩,
  ⟨0x219, 1, .a .commit⟩,
  ⟨0x21A, 1, .ax .waitc⟩,
  ⟨0x21B, 1, .a .sigc⟩]

/-- The opcode map, OPC 0x280 to 0x2FF (R186 to R189). -/
def rowsMatrix : List Row := [
  ⟨0x280, 1, .l .seal⟩,
  ⟨0x281, 1, .a .unseal⟩,
  ⟨0x282, 1, .a .macq⟩,
  ⟨0x283, 1, .a .mrel⟩,
  ⟨0x284, 1, .l .mldb⟩,
  ⟨0x285, 1, .l .mma⟩,
  ⟨0x286, 1, .l .mmar⟩,
  ⟨0x287, 1, .l .mmaPair⟩,
  ⟨0x288, 1, .l .mmarPair⟩,
  ⟨0x289, 1, .a .mzero⟩,
  ⟨0x28A, 1, .l .mstore⟩,
  ⟨0x28B, 1, .l .mloadc⟩,
  ⟨0x28C, 1, .l .msave⟩,
  ⟨0x28D, 1, .l .mrst⟩,
  ⟨0x28E, 1, .a .mstat⟩,
  ⟨0x28F, 1, .l .mcbk⟩,
  ⟨0x290, 1, .a .mdep⟩]

/-- The opcode map, OPC 0x300 to 0x37F (R186 to R189). -/
def rowsTask : List Row := [
  ⟨0x300, 2, .bw .split⟩,
  ⟨0x302, 1, .b .fork⟩,
  ⟨0x303, 1, .b .take⟩,
  ⟨0x304, 1, .a .hstat⟩,
  ⟨0x305, 1, .l .launch⟩,
  ⟨0x306, 1, .a .lstat⟩]

/-- The opcode map, OPC 0x380 to 0x3FF (R186 to R189). -/
def rowsSystem : List Row := [
  ⟨0x380, 1, .a .nop⟩,
  ⟨0x381, 1, .t .trl⟩,
  ⟨0x382, 1, .c .trap⟩,
  ⟨0x383, 1, .a .tret⟩,
  ⟨0x384, 1, .c .rdsr⟩,
  ⟨0x385, 1, .c .wrsr⟩,
  ⟨0x388, 1, .l .ldio⟩,
  ⟨0x389, 1, .l .stio⟩,
  ⟨0x38A, 1, .a .wfe⟩,
  ⟨0x38B, 1, .a .halt⟩]

/-- The class of an OPC names its table (R185). -/
def rowsOf (cls : Nat) : List Row :=
  match cls with
  | 0 => rowsInt
  | 1 => rowsFloat
  | 2 => rowsControl
  | 3 => rowsMemory
  | 4 => rowsSync
  | 5 => rowsMatrix
  | 6 => rowsTask
  | _ => rowsSystem

/-- The row an OPC belongs to, if any table assigns it. -/
def findRow (opc : Nat) : Option Row := (rowsOf (opc / 128)).find? fun r => decide (r.opc ≤ opc) && decide (opc < r.opc + r.n)

/-- MOV.KILL shares OPC 0x045 with MOV.64 and is told apart by B = 0x01 (R207). -/
def isMovKill (x : W32) : Bool := wordOpc x == 0x045 && fB x == 1

/-- Decodes the first word of a list, with the X words that follow it; answers the instruction and its word count. -/
def decode (ws : List W32) : Decoded :=
  match ws with
  | [] => .error .noWord
  | x :: xs =>
    if isMovKill x then
      let i := Instr.movKill ⟨fE x, fD x, fA x, fB x⟩
      if i.fieldsOk then .ok i 1 else .error .reserved
    else
      match findRow (wordOpc x).toNat with
      | none => .error .unassigned
      | some r =>
        match r.shape.read x xs with
        | none => .error .truncated
        | some (i, n) => if i.fieldsOk then .ok i n else .error .reserved

/-- The words of each format. -/
def FA.words (f : FA) (opc : Nat) : List W32 := [mkA f.e opc f.d f.a f.b]
def FAW.words (f : FAW) (opc : Nat) : List W32 := [mkA f.e (opc + f.w.toNat) f.d f.a f.b]
def FAX.words (f : FAX) (opc : Nat) : List W32 := [mkA f.e opc f.d f.a f.b, f.x]
def FAWX.words (f : FAWX) (opc : Nat) : List W32 := [mkA f.e (opc + f.w.toNat) f.d f.a f.b, f.x]
def FB.words (f : FB) (opc : Nat) : List W32 := [mkA f.e opc f.d f.a f.i]
def FBW.words (f : FBW) (opc : Nat) : List W32 := [mkA f.e (opc + f.w.toNat) f.d f.a f.i]
def FC.words (f : FC) (opc : Nat) : List W32 := [mkC f.e opc f.d f.i]
def FCW.words (f : FCW) (opc : Nat) : List W32 := [mkC f.e (opc + f.w.toNat) f.d f.i]
def FL.words (f : FL) (opc : Nat) : List W32 := [mkL f.e opc f.d f.a f.k f.sz]
def FLX.words (f : FLX) (opc : Nat) : List W32 := [mkL f.e opc f.d f.a f.k f.sz, f.x]
def FT.words (f : FT) (opc : Nat) : List W32 := [mkT f.e opc f.await f.zero]
def FE.words (f : FE) (opc : Nat) : List W32 := [mkA f.e (opc + f.sh.toNat) f.d f.a f.b]
def FM.words (f : FM) (opc : Nat) : List W32 :=
  mkA f.e (opc + f.w.toNat) f.d f.a f.b :: (if f.w then [f.lo, f.hi] else [f.lo])

/-- The words of an instruction; an event has none. A MOVL.32 carries one X word, so its second literal must be 0. -/
def encode : Instr → List W32
  | .iadd f => f.words 0x000
  | .isub f => f.words 0x002
  | .imul f => f.words 0x004
  | .imulhI f => f.words 0x006
  | .imulhN f => f.words 0x008
  | .imad f => f.words 0x00A
  | .idivI f => f.words 0x00C
  | .idivN f => f.words 0x00E
  | .iremI f => f.words 0x010
  | .iremN f => f.words 0x012
  | .iminI f => f.words 0x014
  | .iminN f => f.words 0x016
  | .imaxI f => f.words 0x018
  | .imaxN f => f.words 0x01A
  | .iaddsI f => f.words 0x01C
  | .iaddsN f => f.words 0x01E
  | .isubsI f => f.words 0x020
  | .isubsN f => f.words 0x022
  | .andR f => f.words 0x024
  | .orR f => f.words 0x026
  | .xorR f => f.words 0x028
  | .andn f => f.words 0x02A
  | .shl f => f.words 0x02C
  | .shr f => f.words 0x02E
  | .sar f => f.words 0x030
  | .rol f => f.words 0x032
  | .ror f => f.words 0x034
  | .ineg f => f.words 0x036
  | .iabs f => f.words 0x038
  | .notR f => f.words 0x03A
  | .popc f => f.words 0x03C
  | .clz f => f.words 0x03E
  | .ctz f => f.words 0x040
  | .brev f => f.words 0x042
  | .movKill f => f.words 0x045
  | .mov f => f.words 0x044
  | .bfx f => f.words 0x046
  | .bfi f => f.words 0x048
  | .sel f => f.words 0x04A
  | .icmpEq f => f.words 0x04C
  | .icmpNe f => f.words 0x04E
  | .icmpLtI f => f.words 0x050
  | .icmpLeI f => f.words 0x052
  | .icmpGtI f => f.words 0x054
  | .icmpGeI f => f.words 0x056
  | .icmpLtN f => f.words 0x058
  | .icmpLeN f => f.words 0x05A
  | .icmpGtN f => f.words 0x05C
  | .icmpGeN f => f.words 0x05E
  | .iaddImm f => f.words 0x060
  | .isubImm f => f.words 0x062
  | .imulImm f => f.words 0x064
  | .andImm f => f.words 0x066
  | .orImm f => f.words 0x068
  | .xorImm f => f.words 0x06A
  | .shlImm f => f.words 0x06C
  | .shrImm f => f.words 0x06E
  | .sarImm f => f.words 0x070
  | .movi f => f.words 0x072
  | .movl f => f.words 0x074
  | .wbaseImm f => f.words 0x076
  | .wbaseReg f => f.words 0x077
  | .lea f => f.words 0x078
  | .fadd f => f.words 0x080
  | .fsub f => f.words 0x082
  | .fmul f => f.words 0x084
  | .fdiv f => f.words 0x086
  | .fdiv2 f => f.words 0x088
  | .ffma f => f.words 0x08A
  | .fmin f => f.words 0x08C
  | .fmax f => f.words 0x08E
  | .fhull f => f.words 0x090
  | .fmeet f => f.words 0x092
  | .fmake f => f.words 0x094
  | .fneg f => f.words 0x096
  | .fabs f => f.words 0x098
  | .fsqr f => f.words 0x09A
  | .fsqrt f => f.words 0x09C
  | .frcp f => f.words 0x09E
  | .frsq f => f.words 0x0A0
  | .fexp f => f.words 0x0A2
  | .fexp2 f => f.words 0x0A4
  | .flog f => f.words 0x0A6
  | .flog2 f => f.words 0x0A8
  | .fsin f => f.words 0x0AA
  | .fcos f => f.words 0x0AC
  | .ftanh f => f.words 0x0AE
  | .flo f => f.words 0x0B0
  | .fhi f => f.words 0x0B2
  | .fmid f => f.words 0x0B4
  | .frad f => f.words 0x0B6
  | .fwid f => f.words 0x0B8
  | .fbis f => f.words 0x0BA
  | .fcmpLt f => f.words 0x0C0
  | .fcmpLe f => f.words 0x0C2
  | .fcmpGt f => f.words 0x0C4
  | .fcmpGe f => f.words 0x0C6
  | .fcmpEq f => f.words 0x0C8
  | .fcmpNe f => f.words 0x0CA
  | .fcmpSub f => f.words 0x0CC
  | .fcmpIn f => f.words 0x0CE
  | .fcmpDis f => f.words 0x0D0
  | .fclass f => f.words 0x0D2
  | .cvtf f => f.words 0x0D4
  | .cvti f => f.words 0x0D6
  | .cvfi f => f.words 0x0D8
  | .cbx f => f.words 0x0DA
  | .cbq f => f.words 0x0DC
  | .cbld f => f.words 0x0DE
  | .bra f => f.words 0x100
  | .brc f => f.words 0x101
  | .bmz f => f.words 0x102
  | .bmnz f => f.words 0x103
  | .call f => f.words 0x104
  | .ret f => f.words 0x105
  | .jmpi f => f.words 0x106
  | .exit f => f.words 0x107
  | .yield f => f.words 0x108
  | .waitcy f => f.words 0x109
  | .mif f => f.words 0x10A
  | .melse f => f.words 0x10B
  | .mund f => f.words 0x10C
  | .mend f => f.words 0x10D
  | .mwhile f => f.words 0x10E
  | .mset f => f.words 0x10F
  | .mget f => f.words 0x110
  | .pand f => f.words 0x111
  | .por f => f.words 0x112
  | .pnot f => f.words 0x113
  | .pxor f => f.words 0x114
  | .psel f => f.words 0x115
  | .pmov f => f.words 0x116
  | .ptoi f => f.words 0x117
  | .itop f => f.words 0x118
  | .vote f => f.words 0x119
  | .redi f => f.words 0x11A
  | .redf f => f.words 0x11B
  | .scan f => f.words 0x11C
  | .shfl f => f.words 0x11D
  | .qxch f => f.words 0x11E
  | .qbc f => f.words 0x11F
  | .ld f => f.words 0x180
  | .ldOffset f => f.words 0x181
  | .st f => f.words 0x182
  | .stOffset f => f.words 0x183
  | .ldv f => f.words 0x184
  | .ldvOffset f => f.words 0x185
  | .stv f => f.words 0x186
  | .stvOffset f => f.words 0x187
  | .ldn f => f.words 0x188
  | .ldnOffset f => f.words 0x189
  | .stn f => f.words 0x18A
  | .stnOffset f => f.words 0x18B
  | .lds f => f.words 0x18C
  | .ldsOffset f => f.words 0x18D
  | .sts f => f.words 0x18E
  | .stsOffset f => f.words 0x18F
  | .ldg f => f.words 0x190
  | .stg f => f.words 0x191
  | .ldl f => f.words 0x192
  | .stl f => f.words 0x193
  | .ncvt f => f.words 0x194
  | .pref f => f.words 0x196
  | .prefOffset f => f.words 0x197
  | .smap f => f.words 0x198
  | .sunmap f => f.words 0x199
  | .aadd f => f.words 0x200
  | .amin f => f.words 0x201
  | .amax f => f.words 0x202
  | .aand f => f.words 0x203
  | .aor f => f.words 0x204
  | .axor f => f.words 0x205
  | .axchg f => f.words 0x206
  | .acas f => f.words 0x207
  | .ainc f => f.words 0x208
  | .adec f => f.words 0x209
  | .afadd f => f.words 0x20A
  | .afmin f => f.words 0x20B
  | .afmax f => f.words 0x20C
  | .bar f => f.words 0x210
  | .barc f => f.words 0x211
  | .bufdef f => f.words 0x212
  | .bufwait f => f.words 0x213
  | .buffree f => f.words 0x214
  | .cpygo f => f.words 0x215
  | .cpyst f => f.words 0x216
  | .publ f => f.words 0x217
  | .region f => f.words 0x218
  | .commit f => f.words 0x219
  | .waitc f => f.words 0x21A
  | .sigc f => f.words 0x21B
  | .seal f => f.words 0x280
  | .unseal f => f.words 0x281
  | .macq f => f.words 0x282
  | .mrel f => f.words 0x283
  | .mldb f => f.words 0x284
  | .mma f => f.words 0x285
  | .mmar f => f.words 0x286
  | .mmaPair f => f.words 0x287
  | .mmarPair f => f.words 0x288
  | .mzero f => f.words 0x289
  | .mstore f => f.words 0x28A
  | .mloadc f => f.words 0x28B
  | .msave f => f.words 0x28C
  | .mrst f => f.words 0x28D
  | .mstat f => f.words 0x28E
  | .mcbk f => f.words 0x28F
  | .mdep f => f.words 0x290
  | .split f => f.words 0x300
  | .fork f => f.words 0x302
  | .take f => f.words 0x303
  | .hstat f => f.words 0x304
  | .launch f => f.words 0x305
  | .lstat f => f.words 0x306
  | .nop f => f.words 0x380
  | .trl f => f.words 0x381
  | .trap f => f.words 0x382
  | .tret f => f.words 0x383
  | .rdsr f => f.words 0x384
  | .wrsr f => f.words 0x385
  | .ldio f => f.words 0x388
  | .stio f => f.words 0x389
  | .wfe f => f.words 0x38A
  | .halt f => f.words 0x38B
  | .pipeSelect _ _ => []
  | .longLatencyArrival _ _ => []
  | .registerRefill _ => []
  | .regionCommit _ => []
  | .conflict _ _ => []
  | .exclDeferralExpiry _ => []
  | .orderInversion _ => []
  | .priorityAgeing _ => []
  | .cycleReached _ => []
  | .groupAdmit => []
  | .swapwaitExpiry _ => []
  | .groupSave _ => []
  | .groupRestore _ => []
  | .groupFree _ => []
  | .hamperRefill _ _ => []
  | .forageRequest _ _ _ => []
  | .forageTransferArrival _ _ => []
  | .forageRestart _ _ => []
  | .ringPathLost _ _ => []
  | .quiescenceSweep => []
  | .copyRecord _ => []
  | .scratchArrival _ => []
  | .sluiceStep _ => []
  | .counterReread _ => []
  | .matrixOpBegin _ => []
  | .matrixOccupancyEnd _ => []
  | .matrixOpRetire _ => []
  | .mdepDecrement _ => []
  | .launchAcceptance _ => []
  | .qheadWrite _ _ => []
  | .qctlWrite _ _ => []
  | .qstatHaltClear _ => []
  | .launchCommand _ => []
  | .copyCommand _ => []
  | .waitcCommand _ => []
  | .sigcCommand _ => []
  | .markCmd _ => []
  | .tresumeResume _ => []
  | .tresumeFail _ => []
  | .faultRecordWrite => []
  | .tlbinvPage _ _ => []
  | .tlbinvContext _ => []
  | .tlbinvAll => []
  | .tlbinvDone => []
  | .registerWrite _ _ _ => []
  | .measureMailboxWrite _ _ => []
  | .mregExtend _ => []
  | .mlockWrite _ => []
  | .otpProgramOwner => []
  | .otpRevokeOwner => []
  | .otpRevokeVendor => []
  | .otpSvnRaise _ => []
  | .moduleReset => []
  | .pwrctlWrite _ => []
  | .vcoreWrite _ _ => []
  | .ctlrstWrite _ => []
  | .evdbWrite _ => []
  | .hostenWrite _ => []
  | .dramTrainStart _ _ => []
  | .dramTrainAbort _ => []
  | .dramTrainDone _ _ => []
  | .dramTrainTimeout _ => []
  | .dmenWrite _ _ => []
  | .linkTrainStart _ _ => []
  | .linkTrainAbort _ => []
  | .linkTrainDone _ _ _ => []
  | .linkTrainTimeout _ => []
  | .clockModeWrite _ _ => []
  | .clockRelockDone _ => []
  | .meteredClockHalt _ _ => []
  | .meteredClockResume _ _ => []
  | .coreHotSet _ _ _ => []
  | .coreHotClear _ _ _ => []
  | .softError _ => []
  | .hostAccess _ => []
  | .hostSnoop _ => []
  | .birsp _ _ => []
  | .birspTimeout _ => []
  | .flr => []
  | .flrDrainDeadline => []
  | .flrZeroDone => []
  | .flitReceive _ _ => []
  | .portDown _ _ => []
  | .rdl _ _ => []
  | .wrl _ _ => []
  | .dataMsg _ _ => []
  | .ack _ _ => []
  | .pgs _ _ => []
  | .pgm _ _ => []
  | .grant _ _ => []
  | .recallMsg _ _ => []
  | .retn _ _ => []
  | .atom _ _ => []
  | .nack _ _ => []
  | .recallRetransmit _ => []
  | .spdmRequest _ => []
  | .powerGoodChange _ => []
  | .droopLevelTrip _ _ => []

/-- The words of a bit string numbered as spec/opcode_table.json numbers it: bit 0 is the least significant bit of
the first word, and words of zeros follow. -/
def tableWords (w : Nat) : List W32 :=
  [BitVec.ofNat 32 w, BitVec.ofNat 32 (w >>> 32), BitVec.ofNat 32 (w >>> 64)]

/-- The instruction the decoder reads from a word of the opcode table. -/
def decodeTableWord (nbits w : Nat) : Option Instr :=
  match decode (tableWords (w % 2 ^ nbits)) with
  | .ok i _ => some i
  | .error _ => none

end Sys2Proof
end

