-- ==== Sys2Proof/Config.lean ====
section
/-! DEFINITION. What an implementation fixes, and the free values: constants the spec leaves open, with no body,
so that no proof can see what they are (assumption log 5, 6, 8, 9, 12, 13, 14, 102). -/
namespace Sys2Proof.Config

/-- A fresh value the spec leaves open, drawn by the counter State.free (log 5). -/
opaque freeValue : Nat → BitVec 64
/-- Which of the old and the new translation an access uses before TLBINV ends (R398, log 9). -/
opaque tlbUsesOld : Nat → Bool
/-- The register-block address of a target's access table, which R400 leaves unplaced (log 8). -/
opaque accessTableBase : Nat → Nat
/-- The register-block addresses of HOSTEN and UDSLOCK, which R421 and R425 leave unplaced (log 8). -/
opaque hostenAddr : Nat
opaque udslockAddr : Nat
/-- The polynomial of the CRC-64 of a flit, which R407 names without giving (log 13). -/
opaque crcPoly : BitVec 64
/-- The parity bytes of a codeword, by place (R407, log 13). -/
opaque fecParity : List (BitVec 8) → Nat → BitVec 8
/-- The fused device secret, 32 bytes (R423, log 6). -/
opaque uds : Nat → BitVec 8
/-- The ROM's policy-free content of an SPDM answer beyond what R424 fixes (log 14). -/
opaque spdmContent : Nat → List (BitVec 8)
/-- The certificates that the boot flash holds before that of the device's own key, and the certificate of a key (R424,
log 14). -/
opaque certChain : List (BitVec 8) → List (BitVec 8)
opaque certOf : List (BitVec 8) → List (BitVec 8)
/-- The register window through which the lockkeeper's firmware reads and writes the boot flash: R438 says that it writes
it and gives no interface (log 102). -/
opaque flashAddr : Nat
opaque flashBytes : Nat
/-- The ranges of device memory that the lockkeeper's firmware policy shares at a lock (R406, log 14). -/
opaque sharedRanges : Nat → List (Nat × Nat)
/-- The payload doublewords of an order-log entry that records a choice: R381 fixes the header alone (log 12). -/
opaque logPayload : List Nat → List (BitVec 64)
/-- The outlier slots of a row are served exactly; their cycle count O is read from the record (R292). -/
def outlierSlots (code : BitVec 2) : Nat := match code.toNat with | 0 => 0 | 1 => 4 | 2 => 8 | _ => 16

/-- Cores of a die, dies of the package, team slots of a core (R2, R26). -/
def coresPerDie : Nat := 96
def numDies : Nat := 8
def numCores : Nat := 768
def numPairs : Nat := 384
def slotsPerCore : Nat := 64
/-- Bytes of one DRAM stack (R126). -/
def stackBytes : Nat := 0x1800000000
/-- Physical vector and scalar registers of a core (R65). -/
def physVector : Nat := 6144
def physScalar : Nat := 2048
/-- Accumulator entries of an array (R279). -/
def accEntries : Nat := 98304
/-- Entries of a die's counter-watch table (R376). -/
def watchEntries : Nat := 1024
/-- Host-cached lines a die tracks (R403). -/
def hostLineMax : Nat := 262144
/-- Translations that a core's TLB and that of a die hold (R398). -/
def tlbCore : Nat := 128
def tlbDie : Nat := 16384
/-- Fault tags (R389). -/
def numTags : Nat := 65536
/-- Journal slots (R383). -/
def journalSlots : Nat := 65536
/-- RAS records of SEV 1 to 3 the lockkeeper holds (R435). -/
def rasHeldMax : Nat := 256
/-- Sets and ways of a core's L1 data cache: 256 KiB in lines of 128 bytes, 16 ways to a set (R128). -/
def l1Sets : Nat := 128
def l1Ways : Nat := 16
/-- Bytes of a core's L1 instruction cache (R131), and of one of the 192 L2 slices of a die, which has 16 ways (R130);
what they hold shows in no value, event or outcome (R129). -/
def l1iBytes : Nat := 0x10000
def l2SliceBytes : Nat := 0x100000
def l2SlicesPerDie : Nat := 192
/-- Spin reads before ORDER_INVERSION (R171). -/
def spinLimit : Nat := 65536

end Sys2Proof.Config
end

