-- ==== Sys2Proof/Machine/Store.lean ====
section
/-! DEFINITION. Sparse tables with natural keys: the one form in which memory, registers and the tables of objects are held. -/
namespace Sys2Proof

/-- A table: key and value pairs, keys strictly rising in its canonical form. Reading and writing agree on every list. -/
abbrev Tab (α : Type) := List (Nat × α)

/-- The value at a key, if listed. -/
def tget? {α : Type} : Tab α → Nat → Option α
  | [], _ => none
  | (k, v) :: r, a => if a = k then some v else tget? r a

/-- The value at a key, or `d` where the table lists none. -/
def tget {α : Type} (d : α) (m : Tab α) (a : Nat) : α := (tget? m a).getD d

/-- Lists a value at a key. -/
def tput {α : Type} : Tab α → Nat → α → Tab α
  | [], a, x => [(a, x)]
  | (k, v) :: r, a, x => if a = k then (k, x) :: r else if a < k then (a, x) :: (k, v) :: r else (k, v) :: tput r a x

/-- Removes a key. -/
def tdel {α : Type} : Tab α → Nat → Tab α
  | [], _ => []
  | (k, v) :: r, a => if a = k then tdel r a else (k, v) :: tdel r a

/-- Writes a value where unlisted keys read as `d`: writing `d` removes the key. -/
def tset {α : Type} [DecidableEq α] (d : α) (m : Tab α) (a : Nat) (x : α) : Tab α :=
  if x = d then tdel m a else tput m a x

/-- Keys strictly rising from a lower bound. -/
def trising {α : Type} : Nat → Tab α → Bool
  | _, [] => true
  | n, (k, _) :: r => decide (n ≤ k) && trising (k + 1) r

/-- The canonical form of a table whose unlisted keys read as `d`. -/
def twf {α : Type} [DecidableEq α] (d : α) (m : Tab α) : Bool := trising 0 m && m.all fun c => decide (c.2 ≠ d)

/-- Writes a list of key and value pairs in order. -/
def tsetAll {α : Type} [DecidableEq α] (d : α) (m : Tab α) (cs : List (Nat × α)) : Tab α :=
  cs.foldl (fun m c => tset d m c.1 c.2) m

/-- Adds a number to a rising list of numbers. -/
def nins (l : List Nat) (a : Nat) : List Nat :=
  match l with
  | [] => [a]
  | k :: r => if a = k then l else if a < k then a :: l else k :: nins r a

end Sys2Proof
end

