-- ==== Sys2Proof/Machine/State.lean ====
section
/-! DEFINITION. The state of the Exkius E9 as plain data, and the state after reset. INVENTORY.md lists each field
with the rule of spec/ that names it. -/
namespace Sys2Proof.Machine

/-- Why a run of the model stops. Raised by the model's own step only; each is safe. -/
inductive Fault where
  /-- A word was given to exec while no agent issues: no spec behaviour is cut off (safe). -/
  | noIssuer
  /-- An agenda entry names an instruction word as an event: the agenda is the model's own (safe). -/
  | notAnEvent
  deriving DecidableEq, Repr

/-- Why an instruction has no meaning. -/
inductive Refusal where
  /-- An instruction the model does not reach yet (safe). -/
  | notModelled (mnemonic : String)
  deriving DecidableEq, Repr

/-- Who issues a word. -/
inductive Agent where
  /-- a team, or a controller's thread, by its key -/
  | team (tk : Nat)
  deriving DecidableEq, Repr

/-- One entry of the agenda. -/
inductive Move where
  | event (i : Instr)
  /-- a message that a flit has brought: port, OP and message -/
  | msg (p op : Nat) (m : Msg)
  | issue (a : Agent)
  deriving DecidableEq, Repr

/-- Park causes (R30). -/
inductive Park where
  | none | trailer | tokens | barrier | buffer | presence | launchq | counter | cycle | take | commit | excl | ticket
  | fault
  deriving DecidableEq, Repr

/-- Team states (R29). -/
inductive TState where
  | free | ready | issuing | parked | swapped | exited
  deriving DecidableEq, Repr

/-- Condition codes (R73). -/
structure CC where
  (z n c v u : Bool)
  deriving DecidableEq, Repr

/-- A physical register: which version of the architectural register it holds, its last use, and whether it stands
in the spill region (R65, R67). -/
structure PhysReg where
  ver : Nat
  stamp : Nat
  spilled : Bool
  deriving DecidableEq, Repr

/-- One result of a long-latency word: register key, value, and the cycle it is due. -/
structure LWrite where
  key : Nat
  val : Word
  due : Nat
  deriving DecidableEq, Repr

/-- What a long-latency word still waits for. -/
inductive LWait where
  /-- arrival by the model's arrival event -/
  | arrival
  /-- the end of a copy chain -/
  | chain (cid : Nat)
  /-- retirement of a matrix operation of a core -/
  | matrix (core mid : Nat)
  /-- acceptance of a launch record -/
  | launch (gid seqno : Nat)
  deriving DecidableEq, Repr

/-- A long-latency word that has not completed (R76, R182). -/
structure Inflight where
  id : Nat
  /-- The cycle an exact word is due (R348, R349). -/
  due : Nat
  /-- The token it holds, if it names one (R271). -/
  tok : Option Nat
  rid : Nat
  run : Nat
  wait : LWait
  exact : Bool
  arrived : Bool
  /-- Its results stand in the registers; kept in ordered mode until a run end awaits its token (R183). -/
  applied : Bool
  vw : List LWrite
  sw : List LWrite
  flw : List (Nat × BitVec 5)
  cbt : Option (List (BitVec 16))
  deriving DecidableEq, Repr

/-- Where an access lands. -/
structure Place where
  /-- address as presented at the target -/
  pa : Nat
  loc : Nat
  /-- 0 D, 1 S, 2 U -/
  coh : Nat
  base : Nat
  size : Nat
  pte : Nat
  deriving DecidableEq, Repr

/-- What a rollback restores (R79). Vector registers, predicates and flags are keyed as in Team. -/
structure Waymark where
  pc : Word
  live : Mask
  helper : Mask
  mask : Mask
  stack : List Mask
  v : Tab Word
  s : Tab Word
  p : Tab Tri
  fl : Tab (BitVec 5)
  cc : CC
  lvl : Bool
  wb : Nat
  careful : Bool
  regcnt : BitVec 16
  metered : Bool
  ordered : Bool
  pev : Bool
  excl : Bool
  prio : Nat
  tswRes : BitVec 2
  alloc : Tab PhysReg
  salloc : Tab PhysReg
  /-- The older words in flight: their results belong to the state at the waymark (R76). -/
  inflight : List Inflight
  /-- It is the kernel's entry point: every other waymark lies inside a run (R184). -/
  start : Bool := false
  deriving DecidableEq, Repr

/-- An uncommitted region (R148, R149). -/
structure Region where
  rid : Nat
  wm : Waymark
  closed : Bool
  /-- It is the region of a U access (R152). -/
  uacc : Bool
  /-- Lines it has read (R129). -/
  reads : List Nat
  /-- Buffered global stores by location (R128). -/
  stores : Tab Byte
  /-- The same, store event by store event in program order, for the watchers of counters (R376). -/
  evts : List (List (Nat × Byte))
  /-- S pages its stores touch: first location and bytes (R122). -/
  spages : List (Nat × Nat)
  /-- Buffered scratch stores (R262). -/
  sstores : Tab Byte
  /-- Stash line and memory line of its stores through a mapping (R135). -/
  mapped : List (Nat × Nat)
  /-- Some of its U stores have been sent to or performed at their homes: it is not rolled back any more (R152). -/
  begun : Bool := false
  deriving DecidableEq, Repr

/-- What a parked team waits for beside its cause. -/
structure ParkWait where
  /-- tokens awaited (R180) -/
  toks : BitVec 8
  /-- CYC value (R216), counter location (R276), handle, bin or scratch line -/
  val : Nat
  deriving DecidableEq, Repr

/-- A team, or the one thread of a controller (R13, R191). Vector registers are keyed areg·1024 + lane, temporaries
(n)·1024 + lane, predicates n·1024 + lane, flags by lane. -/
structure Team where
  gid : Nat
  teami : Nat
  width : Nat
  st : TState
  park : Park
  wait : ParkWait
  pc : Word
  live : Mask
  helper : Mask
  mask : Mask
  stack : List Mask
  v : Tab Word
  s : Tab Word
  t : Tab Word
  p : Tab Tri
  fl : Tab (BitVec 5)
  cc : CC
  cbt : List (BitVec 16)
  tok : BitVec 8
  lvl : Bool
  wb : Nat
  careful : Bool
  regcnt : BitVec 16
  metered : Bool
  ordered : Bool
  pev : Bool
  excl : Bool
  prio : Nat
  tswRes : BitVec 2
  ssw : Word
  spc : Word
  scause : BitVec 32
  saddr : Word
  sinfo : Word
  hvec : Word
  spcW : Bool
  hs : Tab Word
  plim : BitVec 32
  regions : List Region
  nextRid : Nat
  escal : Nat
  escalRid : Nat
  inflight : List Inflight
  nextId : Nat
  run : Nat
  runWords : Nat
  susp : Bool
  inRun : Bool
  /-- The address of the word being issued, and of the word after it. -/
  wordPc : Word
  nextPc : Word
  /-- A control word that takes effect at the run's end, with its address (R181). -/
  pend : Option Instr
  pendPc : Word
  /-- The irrevocable word has passed its waits at this address. -/
  irrev : Bool
  clk : Nat
  /-- The cycle of its last park (R31). -/
  parkedAt : Nat
  slot : Nat
  pos : Nat
  pipe : Option Nat
  /-- The cycle its run was selected in: the older run goes first at a shared unit (R21). -/
  runAt : Nat
  readyAt : Nat
  age : Nat
  parkSeq : Nat
  arrG : BitVec 16
  arrC : BitVec 16
  satisfied : Bool
  alloc : Tab PhysReg
  salloc : Tab PhysReg
  nextVer : Nat
  refill : Option Nat
  spillLane : Nat
  tag : Option Nat
  faultAddr : Word
  faultCause : Nat
  oiCount : Nat
  cycrem : Nat
  waymarked : Bool
  /-- The handle whose ERROR made it ready (R270). -/
  bufErr : Option Nat
  /-- The lines of an access that waits, for the exclusive holder and for retries (R156, R157). -/
  wantLines : List Nat
  /-- Where an irrevocable memory word found its lanes' bytes before its wait (R251, R277, R278). -/
  placed : Option (List (Nat × List (Nat × Place)))
  /-- Lanes of an atomic that have acted, with the old value and flags of each (R145). -/
  lanesDone : List (Nat × Nat × BitVec 5)
  /-- SPC holds, as the entry into the handler left it, an address inside a run (R184, R310). -/
  spcWay : Bool := false
  /-- A fault reported while it was parked: cause and address; its handler is entered once it stands parked (R30, R308). -/
  pendFault : Option (Nat × Word × Bool) := Option.none
  deriving DecidableEq, Repr

/-- States of a buffer handle (R269). -/
inductive HState where
  | free | filling | full | draining | error
  deriving DecidableEq, Repr

/-- A buffer handle (R269). -/
structure Handle where
  st : HState
  off : Nat
  count0 : Nat
  cnt : Nat
  deriving DecidableEq, Repr

/-- A stash mapping (R263). -/
structure SMapping where
  off : Nat
  len : Nat
  addr : Nat
  deriving DecidableEq, Repr

/-- A hamper or cistern entry (R44), with the drawing team and region while TAKEN and the pushing team (R55). -/
structure HEntry where
  bin : Nat
  spec : Bool
  rtag : Nat
  taken : Bool
  nreg : Nat
  pushno : Nat
  group : Nat
  pay : List Word
  pusher : Nat
  pushRid : Nat
  drawer : Nat
  drawRid : Nat
  slot : Nat
  deriving DecidableEq, Repr

/-- Group states (R34). -/
inductive GState where
  | pending | resident | swapped | draining | freed
  deriving DecidableEq, Repr

/-- A queued device launch: the copied record, the memory address of the record, the issuing team and its token. -/
structure PendLaunch where
  lrec : List Word
  addr : Word
  tk : Nat
  inflightId : Nat
  /-- The bytes of STATUS and SEQ, once it is accepted and while their write has yet to be made (R302). -/
  acc : Option (List Byte) := none
  deriving DecidableEq, Repr

/-- An operation that MDEP may bind to, since the holder's MACQ (R298). -/
structure MIssue where
  mid : Nat
  rid : Nat
  committed : Bool
  bound : Bool
  deriving DecidableEq, Repr

/-- A group (R13, R34). -/
structure Group where
  gid : Nat
  seq : Nat
  idx : Nat
  gx : Nat
  gy : Nat
  gz : Nat
  clpos : Nat
  mate : Option Nat
  st : GState
  core : Nat
  nteam : Nat
  width : Nat
  ctx : Nat
  /-- The context descriptor as the group's last admission or restore read it (R385). -/
  desc : List Word
  stashSize : Nat
  hlog : Nat
  frame : List Nat
  scratch : Tab Byte
  absent : List Nat
  /-- The cycle since which a line that an engine delivered is present (R294). -/
  present : Tab Nat
  maps : List SMapping
  mapLines : List Nat
  handles : Tab Handle
  slots : Tab (List Word)
  hamper : List HEntry
  /-- Draws that have committed before the group holds its ticket: its re-execution returns them (R55, R56, R169). -/
  drawn : List HEntry
  pushno : Nat
  launchq : List PendLaunch
  launchSeq : Nat
  lstat : Word
  saveSlot : Nat
  /-- First spill lanes of its teams, by team index (R386). -/
  lanes : List Nat
  /-- Whether a saved team holds an array, and whether a pair (R284, R394). -/
  hold : Option Bool
  /-- What MDEP may bind to, of a saved holder (R298). -/
  issued : List MIssue
  ticket : Bool
  staged : Tab Byte
  stagedS : List (Nat × Nat)
  stagedE : List (List (Nat × Byte))
  rmarks : List Nat
  /-- Lines under U at other E9s whose staged writes have been acknowledged while it takes its ticket (R168, R410). -/
  stagedU : List Nat := []
  /-- Scratch lines that a copy engine has poisoned (R434). -/
  spoison : List Nat := []
  /-- Re-executions from its start in a row, while it has not its ticket (R156, R169). -/
  restarts : Nat := 0
  deriving DecidableEq, Repr

/-- Grid states of the journal (R383). -/
inductive GridState where
  | accepted | started | retired | failed
  deriving DecidableEq, Repr

/-- A forage of a die: in flight with its entries, or ended and resting until its restart (R57, R58). -/
structure Forage where
  bin : Nat
  donor : Option Nat
  moving : List HEntry
  resting : Bool
  deriving DecidableEq, Repr

/-- A grid. -/
structure Grid where
  seq : Nat
  lrec : List Word
  ctx : Nat
  queue : Nat
  dev : Bool
  det : Bool
  replay : Bool
  recAddr : Nat
  gdimz : Nat
  ksplit : Bool
  prio : Nat
  st : GridState
  cause : Nat
  info : Nat
  addr : Word
  status : Nat
  icache : Tab Byte
  /-- Memory as it stood at the launch, where some of the code could not be copied then (R131). -/
  image : Option (List Host.Cell × Tab Byte)
  cistern : Tab (List HEntry)
  forage : Tab Forage
  change : Tab Nat
  lastSweep : Option (List Nat)
  quiescent : Bool
  tick : Nat
  next : Nat
  left : Nat
  /-- Counters that it has yet to decrement as it completes, in order, and whether the first is asked of another E9 (R37). -/
  counters : List (Nat × Word)
  asked : Bool := false
  /-- It has completed but for its counters. -/
  ending : Bool := false
  deriving DecidableEq, Repr

/-- The stage of a matrix operation (R290). -/
inductive MStage where
  | queued | running | latency | retired
  deriving DecidableEq, Repr

/-- The resident B of an array (R110, R396). Aligned values are keyed k·N + j, block data j·8 + κ. -/
structure ResB where
  kind : Nat
  w : Nat
  n : Nat
  imode : Bool
  beta : Tab Int
  rowScale : Tab (BitVec 8)
  sat : List Nat
  nai : List Nat
  xb : Tab Int
  eb : List Nat
  zero : List Nat
  deriving DecidableEq, Repr

/-- A matrix operation of an array: the registers and the record it captured, its times, the accumulator entries it
reads and writes, the resident B it uses and sets (bit 0 the leader's, bit 1 the follower's), and its results. -/
structure MOp where
  mid : Nat
  tk : Nat
  gid : Nat
  rid : Nat
  ctx : Nat
  ins : Instr
  ra : Nat
  rb : Nat
  rd : Nat
  re : Nat
  lrec : List Nat
  issue : Nat
  beginC : Nat
  occ : Nat
  lat : Nat
  stage : MStage
  reads : Nat × Nat
  writes : Nat × Nat
  usesB : Nat
  setsB : Nat
  /-- It reads a memory operand (R291). -/
  mem : Bool
  committed : Bool
  shadow : Option (List (Nat × Word))
  results : List (Nat × Word)
  resB : Option ResB
  acb : Option (List (BitVec 16))
  bcb : Option (List (BitVec 16))
  mstat : Nat
  outcnt : Nat
  /-- MSTAT as an image gives it (R396). -/
  mset : Option Nat
  data : List (Nat × Byte)
  spages : List (Nat × Nat)
  /-- Lines of another E9 that it writes under U (R159, R410). -/
  ulines : List Nat
  /-- Lines of another E9 that it writes, with a virtual address in each (R36). -/
  vas : Tab Nat := []
  toScratch : Bool
  slines : List Nat
  /-- The lines of it that are present again (R294). -/
  slinesIn : List Nat
  /-- The cycle its region committed (R294). -/
  release : Nat
  token : Option Nat
  deriving DecidableEq, Repr

/-- A binding of MDEP: the operation, the counter and its address space, the team, its group, the region that issued it
and whether that has committed, and whether the decrement has been made (R164, R298, log 67). -/
structure MBind where
  mid : Nat
  va : Nat
  ctx : Nat
  tk : Nat
  gid : Nat
  rid : Nat
  committed : Bool
  made : Bool
  /-- Its decrement at another E9 has been asked for, and awaits the reply (R35). -/
  sent : Bool
  deriving DecidableEq, Repr

/-- The array of a core (R279). -/
structure MArray where
  holder : Option Nat
  paired : Bool
  follower : Bool
  lastCtx : Option Nat
  acc : Tab Word
  resB : Option ResB
  acb : List (BitVec 16)
  bcb : List (BitVec 16)
  mstat : Nat
  outcnt : Nat
  ops : List MOp
  nextMid : Nat
  freeAt : Nat
  issued : List MIssue
  mdeps : List MBind
  deriving DecidableEq, Repr

/-- A copy channel (R271, R274). -/
structure Channel where
  heads : List Nat
  lastSt : Nat
  stopped : Bool
  done : Nat
  deriving DecidableEq, Repr

/-- The last word of a pipe on the SFU lanes: its first pass, the interval of a pass, its end, and the cycle in which its
run was selected (R229). -/
structure SfuUse where
  begin : Nat
  ivl : Nat
  fin : Nat
  runAt : Nat
  deriving DecidableEq, Repr

/-- A core. Index 96·die + core. -/
structure Core where
  pipes : Tab Nat
  /-- First cycles in which the scalar pipe and the hamper unit are free (R21, R45). -/
  scalarAt : Nat
  hamAt : Nat
  /-- SFU lanes in use, by pipe (R229). -/
  sfu : Tab SfuUse
  /-- The cycle after the last pass of a packed slot's word, by pipe (R24). -/
  coFin : Tab Nat
  arr : MArray
  chans : Tab Channel
  hot : Bool
  deriving DecidableEq, Repr

/-- The clock block of a pair (R429) and its CYC (R313). Index 48·die + pair. -/
structure Pair where
  metered : Bool
  switching : Bool
  swerr : Bool
  drBase : Nat
  drStep : Nat
  mfloor : Nat
  drcnt : BitVec 32
  drwin : BitVec 16
  temp : BitVec 12
  memerg : BitVec 32
  cyc : Nat
  stopped : Bool
  deriving DecidableEq, Repr

/-- Who waits for a counter (R376). -/
inductive Waiter where
  | team (tk : Nat)
  | queue (q : Nat) (ra : Nat)
  deriving DecidableEq, Repr

/-- An entry of a counter-watch table (R376). -/
structure Watch where
  loc : Nat
  cond : Nat
  val : Word
  who : Waiter
  inTable : Bool
  met : Bool
  deriving DecidableEq, Repr

/-- A die: its exclusive token (R157) and counter-watch table (R376). -/
structure Die where
  /-- The clock-mode request of the distributor to the die steward: the pair and the mode asked for (R432). -/
  modeReq : Option (Nat × Bool) := none
  exclHolder : Option Nat
  exclWait : List Nat
  deferred : List Nat
  watch : List Watch
  deriving DecidableEq, Repr

/-- A training block (R426, R427). -/
structure Train where
  step : Nat
  busy : Bool
  done : Bool
  pass : Bool
  seqerr : Bool
  last : Nat
  deriving DecidableEq, Repr

/-- A stack (R426). -/
structure Stack where
  tr : Train
  fail : BitVec 128
  dmen : Bool
  deriving DecidableEq, Repr

/-- A message on its way to a device (R409). -/
structure OutMsg where
  op : Nat
  dev : Nat
  msg : Msg
  deriving DecidableEq, Repr

/-- A Swiust port (R408, R409, R427): what waits to be sent, the replay buffer, one message to a flit, and the flits it
has sent. -/
structure Port where
  st : Nat
  downev : Bool
  dcause : Nat
  badop : Nat
  peer : Nat
  retries : Nat
  tr : Train
  txSeq : Nat
  rxSeq : Nat
  rxAny : Bool
  replay : List (Nat × OutMsg)
  retryOf : Nat
  retryCnt : Nat
  out : List OutMsg
  tx : List (List Byte)
  heldRoutes : List Nat
  heldPeer : Nat
  deriving DecidableEq, Repr

/-- A host port (R427). -/
structure HPort where
  tr : Train
  ltpre : Word
  /-- Its link is trained and has not gone down (R418, R427). -/
  up : Bool := false
  deriving DecidableEq, Repr

/-- A command record accepted and not retired (R373). -/
structure Accepted where
  recAddr : Nat
  kind : Nat
  seq : Nat
  deriving DecidableEq, Repr

/-- A host queue (R371). -/
structure Queue where
  heads : List Nat
  cur : Option Nat
  en : Bool
  prio : Nat
  weight : Nat
  det : Bool
  replay : Bool
  ctx : Nat
  ovf : Bool
  halt : Bool
  lastst : Nat
  logbase : Nat
  logsize : Nat
  logptr : Nat
  running : List Accepted
  /-- Records served in the turn it has (R372). -/
  served : Nat
  deriving DecidableEq, Repr

/-- One element on its way to scratch: offset, bytes (none where it is skipped), size, and the handle it counts on
(R269, R273). -/
structure Arrival where
  off : Nat
  bytes : Option (List Byte)
  size : Nat
  handle : Option Nat
  /-- Its source was poisoned (R434). -/
  poison : Bool
  deriving DecidableEq, Repr

/-- A chain of transfer records on a copy engine (R271 to R273). -/
structure Chain where
  cid : Nat
  /-- Issuing team and group, or the host queue and the number of its record. -/
  tk : Option Nat
  gid : Option Nat
  rid : Nat
  inflightId : Option Nat
  queueRec : Option (Nat × Nat)
  core : Nat
  ch : Nat
  ctx : Nat
  /-- The record it stands at. -/
  cur : Nat
  committed : Bool
  publ : Bool
  /-- Bytes of its next sluice step, its S pages, and the lines it poisons. -/
  shadow : Tab Byte
  spages : List (Nat × Nat)
  poisonLines : List Nat
  /-- The record in hand: its elements on the way, its doubleword 0, its bytes done, and its status so far. -/
  busy : Bool
  arrivals : List Arrival
  dw0 : Nat
  done : Nat
  stat : Nat
  /-- The cause and address of the fault that stopped it (R36). -/
  fcause : Nat
  faddr : Nat
  /-- Scratch lines it has made absent and not yet delivered. -/
  slines : List Nat
  /-- Lines of another E9 that its next step writes under U (R159, R410). -/
  ulines : List Nat
  /-- Lines of another E9 that its next step writes, with a virtual address in each (R36). -/
  vas : Tab Nat := []
  /-- The order log holds its next step (R163). -/
  logged : Bool := false
  stepDue : Bool
  ended : Bool
  stop : Nat
  deriving DecidableEq, Repr

/-- A held translation: core, context, virtual page, page bits, and the leaf entry (R398). -/
structure TlbEntry where
  core : Nat
  ctx : Nat
  vpn : Nat
  bits : Nat
  pte : Word
  deriving DecidableEq, Repr

/-- A held fault tag (R389). -/
structure TagHold where
  tag : Nat
  tk : Nat
  deriving DecidableEq, Repr

/-- A page entry of the home (R410): sharers oldest first, or an owner, recalls outstanding, and the offset under which
each borrower names the page. -/
structure PageEntry where
  offs : Tab Nat
  sharers : List Nat
  owner : Option Nat
  recalls : List (Nat × Bool)
  /-- Recalls made of it, and the number of the last one by device (R413). -/
  rno : Nat := 0
  rtags : Tab Nat := []
  deriving DecidableEq, Repr

/-- A borrowed page (R411, R412). -/
structure Borrow where
  mod : Bool
  granted : Bool
  upgrading : Bool
  deriving DecidableEq, Repr

/-- A request to another E9 that has no reply yet: what it is for (0 a D line, 1 a U line, 2 a U line written, 3 a lane's
atomic, 4 a page, 5 a grid's counter, 6 a line written back, 7 a counter of MDEP, 8 one of a host SIGC, 9 one given up), its location,
and the key of its reply. -/
structure Ask where
  what : Nat
  loc : Nat
  key : Nat
  deriving DecidableEq, Repr

/-- The host state of a device line, and the back-invalidation that is out: 0 none, 1 BISnpData, 2 BISnpInv (R403). -/
structure HostLine where
  line : Nat
  excl : Bool
  snoop : Nat
  /-- A TEE request gained the copy (R406). -/
  tee : Bool := false
  deriving DecidableEq, Repr

/-- The scheduling block's global registers (R378, R399, R435, R436). -/
structure Sched where
  thot : BitVec 8
  dhot : BitVec 16
  swapwait : BitVec 32
  jbase : Word
  jseq : Nat
  fpthr : BitVec 7
  ctxbase : Nat
  frbase : Nat
  frsize : Nat
  frprod : Nat
  frcons : Nat
  tlbinv : BitVec 8
  tlbBusy : Bool
  tlbHeld : List Word
  tlbva : Nat
  /-- The page of the invalidation under way, and what its end still waits for, once old translations are gone. -/
  tlbPage : Nat
  tlbWait : Option (List (Nat × Nat × Nat))
  rasbase : Nat
  rassize : Nat
  rasprod : Nat
  rascons : Nat
  raslost : Nat
  pwrmod : BitVec 16
  pwrpeak : BitVec 16
  deriving DecidableEq, Repr

/-- The lockkeeper block (R420 to R425). -/
structure Lock where
  owner : Nat
  vendor : Nat
  svnmin : Nat
  ownerKey : List Byte
  vendorKey : List Byte
  otpkey : Tab Byte
  mreg : Tab (BitVec 512)
  mextd : Tab Byte
  mlock : Bool
  udslock : Bool
  idpub : List Byte
  seed : List Byte
  pwrctl : BitVec 34
  pwrgood : BitVec 34
  vcore : Tab Nat
  ctlrst : BitVec 11
  stewst : Tab (BitVec 32)
  hosten : Bool
  bootCode : Nat
  bootDetail : Nat
  mbDigest : Tab Byte
  mbStatus : Nat
  mbQueue : List (Nat × List Byte)
  deriving DecidableEq, Repr

/-- States of a controller. -/
inductive CState where
  | reset | running | waiting | halted
  deriving DecidableEq, Repr

/-- The lockkeeper's SPDM session (R424). -/
inductive Spdm where
  | none | opening | open_
  deriving DecidableEq, Repr

/-- A controller (R415 to R419). -/
structure Ctl where
  st : CState
  latch : Bool
  codebase : Nat
  codesz : Nat
  mapbase : Nat
  cyc : Nat
  deriving DecidableEq, Repr

/-- Function level reset in progress (R405). -/
inductive Flr where
  | none | draining | zeroing
  deriving DecidableEq, Repr

/-- The TDI (R406). -/
inductive Tdi where
  | unlocked | locked | run | error
  deriving DecidableEq, Repr

/-- A RAS record held until the ring has space (R435). -/
structure RasRec where
  site : Nat
  sev : Nat
  die : Nat
  unit : Nat
  ctx : Option Nat
  addr : Nat
  count : Nat
  deriving DecidableEq, Repr

/-- A fault report waiting for a tag or for the ring (R389). -/
structure FaultRep where
  tk : Nat
  tag : Option Nat
  ctx : Nat
  die : Nat
  core : Nat
  cause : Nat
  kind : Nat
  addr : Word
  regcnt : BitVec 16
  group : Nat
  seq : Nat
  teami : Nat
  deriving DecidableEq, Repr

/-- A journal record to be rewritten as its command advances (R383). -/
structure JRec where
  seq : Nat
  queue : Nat
  dev : Bool
  noq : Bool
  kind : Nat
  st : Nat
  status : Nat
  cause : Nat
  info : Nat
  recAddr : Nat
  addr : Word
  deriving DecidableEq, Repr

/-- The machine. -/
structure State where
  variant : Variant
  silrev : BitVec 4
  devno : Nat
  mem : List Host.Cell
  poison : List Nat
  /-- The attribute under which lines were last read at their homes: 1 D, 2 S, 3 U (R124). -/
  attrs : Tab Nat
  /-- S pages that teams have used: first device-physical address and bytes (R122). -/
  sPages : List (Nat × Nat)
  teams : Tab Team
  groups : Tab Group
  grids : Tab Grid
  handed : List Nat
  cores : Tab Core
  pairs : Tab Pair
  dies : Tab Die
  dstacks : Tab Stack
  ports : Tab Port
  hports : Tab HPort
  queues : Tab Queue
  rrTurn : Tab Nat
  ctls : Tab Ctl
  chains : Tab Chain
  sched : Sched
  lock : Lock
  tags : List TagHold
  faultWait : List FaultRep
  tlb : List TlbEntry
  access : Tab Word
  pages : Tab PageEntry
  borrowed : Tab Borrow
  proxy : Tab Byte
  proxyLines : List Nat
  proxyDirty : List Nat
  hostLines : List HostLine
  hostDirty : List Nat
  route : Tab (BitVec 18)
  rasHeld : List RasRec
  /-- Records of corrected errors in the RAS ring, by place, that later ones of their site may fold into (R435). -/
  rasOpen : List (Nat × RasRec)
  telpair : Tab Word
  flash : List Byte
  tdi : Tdi
  shared : List (Nat × Nat)
  /-- IDE streams whose keys are programmed: the host port, whether selective, and the stream of its kind (R401, R405). -/
  ide : List (Nat × Bool × Nat)
  /-- The SPDM session of the lockkeeper: none, being opened, or open (R424). -/
  spdm : Spdm := .none
  flr : Flr
  hostOut : List (Bool × List Byte)
  aer : List Nat
  ringDown : List (Nat × Nat)
  loaded : List (BitVec 512)
  journal : List JRec
  remoteOut : Tab Ask
  remoteIn : Tab (List Byte)
  /-- Writes of units that are no teams, by location, that wait for lines that someone holds (R157, R403, R411). -/
  physOut : List (List (Nat × Byte))
  /-- Negative replies by line, until an access meets them (R409). -/
  nacks : Tab Nat
  /-- Requests of the host and of peers that wait, in order of arrival (R165, R403, R410). -/
  hostWait : List HostReq
  peerWait : List (Nat × Nat × Msg)
  nextGid : Nat
  nextCid : Nat
  nextPark : Nat
  saveBusy : List (Nat × Nat)
  free : Nat
  cur : Option Agent
  agenda : List Move
  deriving DecidableEq, Repr

def CC.zero : CC := ⟨false, false, false, false, false⟩

/-- A team slot with no team. -/
def Team.none : Team :=
  { gid := 0, teami := 0, width := 8, st := .free, park := .none, wait := ⟨0, 0⟩, pc := 0, live := 0, helper := 0,
    mask := 0, stack := [], v := [], s := [], t := [], p := [], fl := [], cc := CC.zero,
    cbt := List.replicate 16 0, tok := 0, lvl := false, wb := 0, careful := false, regcnt := 0, metered := false,
    ordered := false, pev := false, excl := false, prio := 0, tswRes := 0, ssw := 0, spc := 0, scause := 0,
    saddr := 0, sinfo := 0, hvec := 0, spcW := false, hs := [], plim := 0, regions := [], nextRid := 0, escal := 0, escalRid := 0,
    inflight := [], nextId := 0, run := 0, runWords := 0, susp := false, inRun := false, wordPc := 0, nextPc := 0,
    pend := Option.none, pendPc := 0, irrev := false, clk := 0, parkedAt := 0, slot := 0, pos := 0, pipe := Option.none,
    readyAt := 0, age := 0, parkSeq := 0, arrG := 0, arrC := 0, satisfied := false, alloc := [], salloc := [],
    nextVer := 0, refill := Option.none, spillLane := 0, tag := Option.none, faultAddr := 0, faultCause := 0,
    oiCount := 0, cycrem := 0, waymarked := false, runAt := 0, bufErr := Option.none,
    wantLines := [], placed := Option.none, lanesDone := [] }

def MArray.reset : MArray :=
  { holder := none, paired := false, follower := false, lastCtx := none, acc := [], resB := none,
    acb := List.replicate 16 0, bcb := List.replicate 16 0, mstat := 0, outcnt := 0, ops := [], nextMid := 0,
    freeAt := 0, issued := [], mdeps := [] }

def Channel.reset : Channel := { heads := [], lastSt := 0, stopped := false, done := 0 }
def Core.reset : Core := { pipes := [], scalarAt := 0, hamAt := 0, sfu := [], coFin := [], arr := MArray.reset, chans := [], hot := false }
def Pair.reset : Pair :=
  { metered := false, switching := false, swerr := false, drBase := 12, drStep := 6, mfloor := 40, drcnt := 0,
    drwin := 0, temp := 0, memerg := 0, cyc := 0, stopped := false }
def Die.reset : Die := { exclHolder := none, exclWait := [], deferred := [], watch := [] }
def Train.reset : Train := { step := 0, busy := false, done := false, pass := false, seqerr := false, last := 0 }
def Stack.reset : Stack := { tr := Train.reset, fail := 0, dmen := false }
def Port.reset : Port :=
  { st := 0, downev := false, dcause := 0, badop := 0, peer := 0, retries := 0, tr := Train.reset, txSeq := 0,
    rxSeq := 0, rxAny := false, replay := [], retryOf := 0, retryCnt := 0, out := [], tx := [], heldRoutes := [], heldPeer := 0 }
def HPort.reset : HPort := { tr := Train.reset, ltpre := 0 }
def Queue.reset : Queue :=
  { heads := [], cur := none, en := false, prio := 0, weight := 1, det := false, replay := false, ctx := 0,
    ovf := false, halt := false, lastst := 0, logbase := 0, logsize := 0, logptr := 0, running := [], served := 0 }
def Handle.reset : Handle := { st := .free, off := 0, count0 := 0, cnt := 0 }
def PageEntry.reset : PageEntry := { offs := [], sharers := [], owner := none, recalls := [] }
def Ctl.reset : Ctl :=
  { st := .reset, latch := false, codebase := 0,
    codesz := 0, mapbase := 0, cyc := 0 }
def Sched.reset : Sched :=
  { thot := 95, dhot := 64, swapwait := 0x10000, jbase := 0, jseq := 0, fpthr := 50, ctxbase := 0, frbase := 0,
    frsize := 0, frprod := 0, frcons := 0, tlbinv := 0, tlbBusy := false, tlbHeld := [], tlbva := 0, tlbPage := 0, tlbWait := none, rasbase := 0,
    rassize := 0, rasprod := 0, rascons := 0, raslost := 0, pwrmod := 0, pwrpeak := 0 }
def Lock.reset : Lock :=
  { owner := 0, vendor := 0, svnmin := 0, ownerKey := [], vendorKey := [], otpkey := [], mreg := [], mextd := [],
    mlock := false, udslock := false, idpub := [], seed := [], pwrctl := 0, pwrgood := 0, vcore := [], ctlrst := 0,
    stewst := [], hosten := false, bootCode := 0, bootDetail := 0, mbDigest := [], mbStatus := 0, mbQueue := [] }

/-- The machine right after module reset, before the lockkeeper's ROM has run (R370 to R439; log 2, 6). -/
def State.reset : State :=
  { variant := .full, silrev := 0, devno := 0, mem := [], poison := [], attrs := [], sPages := [], teams := [], groups := [], grids := [], handed := [],
    cores := [], pairs := [], dies := [], dstacks := [], ports := [], hports := [], queues := [], rrTurn := [],
    ctls := [], chains := [], sched := Sched.reset, lock := Lock.reset, tags := [], faultWait := [], tlb := [],
    access := [], pages := [], borrowed := [], proxy := [], proxyLines := [], proxyDirty := [],
    hostLines := [], hostDirty := [], route := [], rasHeld := [], rasOpen := [], telpair := [], flash := [],
    tdi := .unlocked, shared := [], ide := [], flr := .none, hostOut := [], aer := [], ringDown := [], loaded := [],
    journal := [], remoteOut := [], remoteIn := [], physOut := [], nacks := [], hostWait := [], peerWait := [], nextGid := 0, nextCid := 0, nextPark := 0, saveBusy := [], free := 0, cur := none, agenda := [] }

/-- What an unlisted byte of memory reads as (log 1). -/
def Memory.unlisted : Byte := 0
/-- The canonical form of memory: addresses rise, no entry equals what an unlisted address reads as. -/
abbrev Memory.wf (m : List Host.Cell) : Prop := twf Memory.unlisted m = true

end Sys2Proof.Machine
end

