-- ==== Sys2Proof/Machine/Bits.lean ====
section
/-! DEFINITION. Byte order, fields and sign extension, and the tables of the state. -/
namespace Sys2Proof.Machine

/-- The n bytes of a value, least significant first (R10). -/
def leBytes (n : Nat) (v : Nat) : List Byte := (List.range n).map fun i => BitVec.ofNat 8 (v / 2 ^ (8 * i))
/-- The value of little-endian bytes. -/
def leVal : List Byte → Nat
  | [] => 0
  | b :: r => b.toNat + 256 * leVal r
/-- Bits [hi:lo] of a number. -/
def bits (v lo n : Nat) : Nat := v / 2 ^ lo % 2 ^ n
/-- Sign extension of the low n bits of a number. -/
def sextN (n v : Nat) : Int := let u := v % 2 ^ n; if 2 ^ (n - 1) ≤ u then (u : Int) - 2 ^ n else u
/-- A 64-bit word of an integer. -/
def wInt (i : Int) : Word := BitVec.ofInt 64 i
/-- Least multiple of m at or above n. -/
def roundUp (n m : Nat) : Nat := (n + m - 1) / m * m
/-- Ceiling division. -/
def ceilDiv (n m : Nat) : Nat := (n + m - 1) / m
/-- The n-th element of a list of words, 0 beyond it. -/
def nth {α : Type} (d : α) (l : List α) (n : Nat) : α := (l.drop n).headD d
/-- Replaces the n-th element of a list. -/
def setNth {α : Type} : List α → Nat → α → List α
  | [], _, _ => []
  | _ :: r, 0, x => x :: r
  | a :: r, n + 1, x => a :: setNth r n x
/-- The numbers of a list that occur once, in order of first occurrence. -/
def distinct (l : List Nat) : List Nat := l.foldl (fun acc a => if acc.contains a then acc else acc ++ [a]) []

namespace State

/-- The objects of the machine; an unlisted one stands as at reset. -/
def team (s : State) (tk : Nat) : Team := tget Team.none s.teams tk
def setTeam (s : State) (tk : Nat) (t : Team) : State := { s with teams := tset Team.none s.teams tk t }
def modTeam (s : State) (tk : Nat) (f : Team → Team) : State := s.setTeam tk (f (s.team tk))
def core (s : State) (c : Nat) : Core := tget Core.reset s.cores c
def setCore (s : State) (c : Nat) (x : Core) : State := { s with cores := tset Core.reset s.cores c x }
def pair (s : State) (c : Nat) : Pair := tget Pair.reset s.pairs c
def setPair (s : State) (c : Nat) (x : Pair) : State := { s with pairs := tset Pair.reset s.pairs c x }
def die (s : State) (c : Nat) : Die := tget Die.reset s.dies c
def setDie (s : State) (c : Nat) (x : Die) : State := { s with dies := tset Die.reset s.dies c x }
def stack (s : State) (c : Nat) : Stack := tget Stack.reset s.dstacks c
def setStack (s : State) (c : Nat) (x : Stack) : State := { s with dstacks := tset Stack.reset s.dstacks c x }
def port (s : State) (c : Nat) : Port := tget Port.reset s.ports c
def setPort (s : State) (c : Nat) (x : Port) : State := { s with ports := tset Port.reset s.ports c x }
def hport (s : State) (c : Nat) : HPort := tget HPort.reset s.hports c
def setHPort (s : State) (c : Nat) (x : HPort) : State := { s with hports := tset HPort.reset s.hports c x }
def queue (s : State) (c : Nat) : Queue := tget Queue.reset s.queues c
def setQueue (s : State) (c : Nat) (x : Queue) : State := { s with queues := tset Queue.reset s.queues c x }
def ctl (s : State) (c : Nat) : Ctl := tget Ctl.reset s.ctls c
def setCtl (s : State) (c : Nat) (x : Ctl) : State := { s with ctls := tset Ctl.reset s.ctls c x }
def group? (s : State) (g : Nat) : Option Group := tget? s.groups g
def setGroup (s : State) (g : Group) : State := { s with groups := tput s.groups g.gid g }
def modGroup (s : State) (g : Nat) (f : Group → Group) : State :=
  match s.group? g with
  | some x => { s with groups := tput s.groups g (f x) }
  | none => s
def grid? (s : State) (q : Nat) : Option Grid := tget? s.grids q
def setGrid (s : State) (g : Grid) : State := { s with grids := tput s.grids g.seq g }
def modGrid (s : State) (q : Nat) (f : Grid → Grid) : State :=
  match s.grid? q with
  | some x => { s with grids := tput s.grids q (f x) }
  | none => s
def chain? (s : State) (c : Nat) : Option Chain := tget? s.chains c
def setChain (s : State) (c : Chain) : State := { s with chains := tput s.chains c.cid c }
def pageEntry (s : State) (p : Nat) : PageEntry := tget PageEntry.reset s.pages p
def setPageEntry (s : State) (p : Nat) (e : PageEntry) : State := { s with pages := tset PageEntry.reset s.pages p e }
/-- A fresh free value (log 5). -/
def freeVal (s : State) : Word := Config.freeValue s.free
def drawFree (s : State) : State := { s with free := s.free + 1 }

end State

/-- Team keys: the group's name and the team's index. -/
def teamKey (gid ti : Nat) : Nat := gid * 16 + ti
/-- The pair and the die of a core. -/
def pairOfCore (c : Nat) : Nat := c / 2
def dieOfCore (c : Nat) : Nat := c / Config.coresPerDie

/-- The clock of a core's pair runs: it is neither stopped nor relocking (R431, R432). -/
def clockRuns (s : State) (c : Nat) : Bool := let p := s.pair (pairOfCore c); !p.stopped && !p.switching

namespace Group
/-- Keys of the teams of a group. -/
def teamKeys (g : Group) : List Nat := (List.range g.nteam).map fun i => teamKey g.gid i
/-- Bytes of the hamper, and of the program's part of the stash (R134). -/
def hamperN (g : Group) : Nat := if g.hlog = 0 then 0 else 2 ^ g.hlog
def progBytes (g : Group) : Nat := g.stashSize - 64 * g.hamperN
end Group

/-- FEAT (R5), STASHCAP (R133) and the variant's limits (R4). -/
def variantCode : Variant → Nat
  | .full => 1
  | .noUpper => 2
  | .noLink => 3
def featOf (s : State) : Nat :=
  variantCode s.variant + (if s.variant = .noUpper then 0 else 0x10) + (if s.variant = .noLink then 0 else 0x20) +
  (if s.variant = .noLink then 0 else 0x40) + 0x800 + s.silrev.toNat * 0x1000
def stashCapKib (s : State) : Nat := if s.variant = .noUpper then 512 else 1024
def stashCapOf (s : State) : Nat := stashCapKib s + (if s.variant = .noUpper then 0 else 0x10000)
def hlogMax (s : State) : Nat := if s.variant = .noUpper then 12 else 13

end Sys2Proof.Machine
end

