-- ==== Sys2Proof/Machine/Memory.lean ====
section
/-! DEFINITION. Places and translation: the device-physical windows, the two DRAM views, home slices, access tables,
page tables and the TLBs (R118 to R127, R397 to R400). A location names one byte: the die-local address of a DRAM
byte, the address of a host or SRAM byte, or 2^60 + device · 2^45 + offset for a byte of another E9. -/
namespace Sys2Proof.Machine

def dramBytes : Nat := 16 * Config.stackBytes
def ilvBase : Nat := 0x40000000000
def hostBase : Nat := 0x8000000000000
def sramBase : Nat := 0xE000000000000
def regBase : Nat := 0xF000000000000
def remoteBase : Nat := 2 ^ 60

/-- The stack and offset of a package-interleaved address (R126). -/
def ilvDecode (q : Nat) : Nat × Nat :=
  let g := q / 4096
  let s := (bits g 0 4) ^^^ (bits g 4 4) ^^^ (bits g 8 4) ^^^ (bits g 12 4)
  (s, g / 16 * 4096 + q % 4096)
/-- The location of a device-physical address, if a window holds it (R119). -/
def physLoc (a : Nat) : Option Nat :=
  if a < dramBytes then some a
  else if ilvBase ≤ a && decide (a < ilvBase + dramBytes) then
    let (st, off) := ilvDecode (a - ilvBase); some (st * Config.stackBytes + off)
  else if hostBase ≤ a && decide (a < hostBase + 2 ^ 48) then some a
  else if sramBase ≤ a && decide (a < sramBase + 0x1000000) then
    let o := a - sramBase
    if o / 0x100000 < 11 && o % 0x100000 < 0x80000 then some a else none
  else none
/-- The package-interleaved offset of a DRAM location: the inverse of `ilvDecode` (R126). -/
def ilvEncode (l : Nat) : Nat :=
  let off := l % Config.stackBytes
  let h := off / 4096
  let low := (l / Config.stackBytes) ^^^ (bits h 0 4) ^^^ (bits h 4 4) ^^^ (bits h 8 4)
  (h * 16 + low) * 4096 + off % 4096
def isDram (l : Nat) : Bool := decide (l < dramBytes)
def isHost (l : Nat) : Bool := decide (hostBase ≤ l) && decide (l < hostBase + 2 ^ 48)
def isRemote (l : Nat) : Bool := decide (remoteBase ≤ l)
def lineOf (l : Nat) : Nat := l / 128
def pageOf (l : Nat) : Nat := l / 4096
/-- The location of an address that units other than controllers reach: SRAM is the controllers' own (R119). -/
def memLoc (a : Nat) : Option Nat :=
  match physLoc a with
  | some l => if isDram l || isHost l then some l else none
  | none => none
/-- A line lies in a page, which is named by its first device-physical address, in either view, and its size. -/
def inPage (p : Nat × Nat) (line : Nat) : Bool :=
  let here := fun (a : Nat) => decide (p.1 ≤ a) && decide (a < p.1 + p.2)
  here (line * 128) || (isDram (line * 128) && here (ilvBase + ilvEncode (line * 128)))
/-- A byte of another E9 stands, for its proxy's die and slice, where a local byte of its offset would (R127). -/
def proxyLoc (l : Nat) : Nat := (physLoc (l % 2 ^ 45)).getD (l % 2 ^ 45 % dramBytes)
/-- Stack of a DRAM location, and die of its home slice (R126, R127). -/
def stackOf (l : Nat) : Nat := l / Config.stackBytes
def homeDie (l : Nat) : Nat :=
  if isDram l then stackOf l / 2 else if isHost l then l / 128 % 8 else proxyLoc l / Config.stackBytes / 2
/-- The home slice of a line on its die (R127). -/
def homeSlice (l : Nat) : Nat :=
  let h := fun (n : Nat) => (n ^^^ (n / 2 ^ 7) ^^^ (n / 2 ^ 14)) % 96
  if isHost l then h (l / 128)
  else let l := if isRemote l then proxyLoc l else l
       96 * (stackOf l % 2) + h ((l % Config.stackBytes) / 128)

/-- Who makes a physical access (R400). -/
structure Req where
  cls : Nat
  id : Nat
  deriving DecidableEq, Repr
/-- The lockkeeper's own accesses are never checked (R416). -/
def Req.free (r : Req) : Bool := r.cls == 1 && r.id == 0

/-- Targets of access tables: DRAM controllers 0 to 15, host ports 16 and 17, Swiust ports 20 to 37, register blocks
from 40. -/
def accessEntry (s : State) (target i dw : Nat) : Nat := (tget 0 s.access (target * 256 + i * 4 + dw)).toNat
/-- The first valid entry that matches decides; none refuses (R400). -/
def accessScan (s : State) (target : Nat) (r : Req) (page : Nat) (write : Bool) : Nat → Bool
  | 0 => false
  | n + 1 =>
    let i := 63 - n
    let d0 := accessEntry s target i 0
    if bits d0 0 1 = 1 && bits d0 3 3 = r.cls && bits d0 8 12 = r.id &&
       decide (bits (accessEntry s target i 1) 12 40 ≤ page) && decide (page ≤ bits (accessEntry s target i 2) 12 40)
    then (if write then bits d0 2 1 else bits d0 1 1) == 1
    else accessScan s target r page write n
def accessOk (s : State) (target : Nat) (r : Req) (pa : Nat) (write : Bool) : Bool :=
  r.free || accessScan s target r (pa / 4096) write 64

/-- The Swiust port that carries a page of a device (R409). -/
def setBits (p : BitVec 18) : List Nat := (List.range 18).filter fun i => p.getLsbD i
def routePort (s : State) (dev page : Nat) : Option Nat :=
  let ps := setBits (tget 0 s.route dev)
  if ps.isEmpty then none else some (nth 0 ps (page % ps.length))
/-- The device number of this E9: exchanged at training, held by no register (log 17). -/
def ownDev (s : State) : Nat := s.devno

/-- The target that checks an access. -/
def targetOf (s : State) (loc : Nat) : Option Nat :=
  if isDram loc then some (stackOf loc)
  else if isHost loc then some (16 + loc / 128 % 2)
  else if isRemote loc then (routePort s (bits loc 45 12) (loc % 2 ^ 45 / 4096)).map (20 + ·)
  else none

/-- Bytes of memory by location, without regard to buffers; a byte of another E9 stands in the proxy. -/
def readMem (s : State) (loc : Nat) : Byte := if isRemote loc then tget 0 s.proxy loc else tget Memory.unlisted s.mem loc
def readMemN (s : State) (loc n : Nat) : Nat := leVal ((List.range n).map fun i => readMem s (loc + i))
/-- A byte as the scheduling units read it: their own writes that still wait stand before memory. -/
def readOwn (s : State) (l : Nat) : Byte :=
  ((s.physOut.flatten.filter fun c => c.1 == l).getLast?.map (·.2)).getD (readMem s l)
/-- Bytes of memory by device-physical address; a hole reads 0 to the units that name no hole. -/
def readPhysN (s : State) (pa n : Nat) : Nat :=
  leVal ((List.range n).map fun i => match memLoc (pa + i) with | some l => readOwn s l | none => 0)

/-- Cause codes (R387). -/
def cILLEGAL : Nat := 0x01
def cTRAP : Nat := 0x02
def cMASK : Nat := 0x03
def cHAZARD : Nat := 0x04
def cSEAL : Nat := 0x05
def cBUF : Nat := 0x06
def cORDER : Nat := 0x07
def cNONCANON : Nat := 0x10
def cACCESS : Nat := 0x11
def cPRIV : Nat := 0x12
def cSTASH : Nat := 0x13
def cNOTMAPPED : Nat := 0x18
def cWRITEPROT : Nat := 0x19
def cFETCH : Nat := 0x1A
def cPTBAD : Nat := 0x1B
def cPOISON : Nat := 0x1C
def cSBAD : Nat := 0x20
def cSPILL : Nat := 0x21
def cHANDLER : Nat := 0x22

/-- What kind of access is made. -/
inductive AKind where
  | read | write | fetch
  deriving DecidableEq, Repr

/-- A leaf of a walk: the entry and its level. -/
inductive Walk where
  | leaf (pte lvl : Nat)
  | fault (cause : Nat)
  deriving DecidableEq, Repr

/-- The number of address bits below a leaf's page. -/
def pageBits (pte lvl : Nat) : Nat := if bits pte 6 1 = 1 then 16 else 12 + 9 * lvl
/-- Reserved fields of an entry (R397). -/
def pteReserved (e lvl : Nat) (leaf : Bool) : Bool :=
  bits e 8 4 ≠ 0 || bits e 4 2 = 3 || (bits e 7 1 = 0 && bits e 52 12 ≠ 0) || (bits e 7 1 = 1 && bits e 45 7 ≠ 0) ||
  (bits e 6 1 = 1 && !(leaf && lvl = 0))
/-- The group of 16 entries of a 64 KiB page (R397). -/
def contOk (s : State) (tbl idx e : Nat) : Bool :=
  let fr := bits e 12 40
  fr % 16 == idx % 16 && (List.range 16).all fun i =>
    let x := readPhysN s (tbl + 8 * (idx / 16 * 16 + i)) 8
    x % 2 ^ 12 == e % 2 ^ 12 && bits x 52 12 == bits e 52 12 && bits x 12 40 == fr / 16 * 16 + i
/-- A table entry can be read: it lies in memory that units reach, and its stack is enabled (R119, R426). The reads of a
walk and of the scheduling units are checked by no access table: R400 gives them no requester class (DESIGN CHOICE, log 87). -/
def tableReach (s : State) (pa : Nat) : Bool :=
  match memLoc pa with
  | some l => !isDram l || (s.stack (stackOf l)).dmen
  | none => false
/-- The walk of R397, from a level down. -/
def walkFrom (s : State) (va : Nat) (fetch : Bool) : Nat → Nat → Walk
  | 0, _ => .fault cPTBAD
  | n + 1, t =>
    let lvl := n
    let idx := bits va (12 + 9 * lvl) 9
    let pa := t + 8 * idx
    if !tableReach s pa then .fault cACCESS
    else
      let e := readPhysN s pa 8
      if bits e 0 1 = 0 then .fault (if fetch then cFETCH else cNOTMAPPED)
      else
        let isLeaf := bits e 1 1 = 1
        if pteReserved e lvl isLeaf then .fault cPTBAD
        else if lvl = 0 then
          if !isLeaf then .fault cPTBAD
          else if bits e 6 1 = 1 && !contOk s t idx e then .fault cPTBAD
          else .leaf e 0
        else if isLeaf then
          if 3 ≤ lvl then .fault cPTBAD
          else if bits e 12 40 * 4096 % 2 ^ (12 + 9 * lvl) ≠ 0 then .fault cPTBAD
          else .leaf e lvl
        else walkFrom s va fetch n (bits e 12 40 * 4096)
/-- A doubleword of a context's descriptor as it stands (R385). -/
def descDw (s : State) (ctx i : Nat) : Nat := readPhysN s (s.sched.ctxbase + 128 * ctx + 8 * i) 8
/-- An address space: a context and the frame of the page-table root that applies, as ctx + 64 · frame. -/
def asOf (ctx ptroot : Nat) : Nat := ctx % 64 + 64 * bits ptroot 12 40
def asCtx (as : Nat) : Nat := as % 64
/-- The address space of a context under its descriptor as it stands. -/
def ctxAs (s : State) (ctx : Nat) : Nat := asOf ctx (descDw s ctx 1)
def walk (s : State) (as va : Nat) (fetch : Bool) : Walk := walkFrom s va fetch 5 (as / 64 * 4096)

inductive Xlate where
  | ok (p : Place)
  | fault (cause : Nat)
  deriving DecidableEq, Repr

/-- The offset of a byte of another E9: one that either DRAM view names is named by its die-local address, so that both
views reach one copy (R119, R120, R126). -/
def remoteOff (fo : Nat) : Nat :=
  match physLoc fo with
  | some l => if isDram l then l else fo
  | none => fo
/-- The place a leaf gives an address (R120, R121, R125). -/
def leafPlace (s : State) (va e nbits : Nat) : Xlate :=
  let size := 2 ^ nbits
  let coh := bits e 4 2
  let off := va % size
  if bits e 7 1 = 1 then
    let dev := bits e 52 12
    let fo := (bits e 12 33 * 4096) / size * size + off
    if dev = ownDev s then
      match physLoc fo with
      | some l => if isDram l then .ok ⟨fo, l, if coh = 1 then 2 else coh, fo - off, size, e⟩ else .fault cACCESS
      | none => .fault cACCESS
    else if (routePort s dev (fo / 4096)).isNone then .fault cACCESS
    else let l := remoteBase + dev * 2 ^ 45 + remoteOff fo
         .ok ⟨fo, l, if coh = 1 then 2 else coh, l - off, size, e⟩
  else
    let pa := (bits e 12 40 * 4096) / size * size + off
    match physLoc pa with
    | none => .fault cACCESS
    | some l =>
      let coh := if isHost l && s.variant = .noLink then 2 else coh
      .ok ⟨pa, l, coh, pa - off, size, e⟩

/-- A held translation of a page: a core's own, else one that the TLB of its die holds (R398). -/
def tlbFind (s : State) (core as va : Nat) : Option TlbEntry :=
  let here := fun (e : TlbEntry) => e.ctx == asCtx as && e.vpn == va / 2 ^ e.bits
  (s.tlb.find? fun e => e.core == core && here e).orElse fun _ => s.tlb.find? fun e => dieOfCore e.core == dieOfCore core && here e
/-- The translations that the TLBs hold, the newest first: those of a core's own and those of its die (R398; which gives
way is DESIGN CHOICE, log 9). -/
def tlbTrim : List TlbEntry → Tab Nat → Tab Nat → List TlbEntry
  | [], _, _ => []
  | e :: r, cores, dies =>
    let d := dieOfCore e.core
    let n := tget 0 cores e.core
    let m := tget 0 dies d
    let rest := tlbTrim r (tput cores e.core (n + 1)) (tput dies d (m + 1))
    if n < Config.tlbCore || m < Config.tlbDie then e :: rest else rest
def tlbHold (l : List TlbEntry) : List TlbEntry := if l.length ≤ Config.tlbDie then l else tlbTrim l [] []
/-- The leaf an access uses: a held entry that differs from the table is used or not as the free choice says (log 9). -/
def leafFor (s : State) (core as va : Nat) (fetch : Bool) : Walk :=
  let w := walk s as va fetch
  match tlbFind s core as va with
  | none => w
  | some e => if w = .leaf e.pte.toNat (if e.bits = 16 then 0 else (e.bits - 12) / 9) then w
              else if Config.tlbUsesOld s.free then .leaf e.pte.toNat (if e.bits = 16 then 0 else (e.bits - 12) / 9)
              else w
/-- Holds a translation after use, and notes a page used under S; a choice between an old and a new one is spent (R122,
R398, log 9). -/
def tlbNote (s : State) (core as va : Nat) : State :=
  match leafFor s core as va false with
  | .leaf e lvl =>
    let nb := pageBits e lvl
    let s := match leafPlace s va e nb with
      | .ok p => if p.coh = 1 && !s.sPages.contains (p.base, p.size) then { s with sPages := (p.base, p.size) :: s.sPages } else s
      | .fault _ => s
    let t : TlbEntry := ⟨core, asCtx as, va / 2 ^ nb, nb, BitVec.ofNat 64 e⟩
    match tlbFind s core as va with
    | some x =>
      if x == t then s
      else
        let s := if x == { t with core := x.core } then s else s.drawFree
        { s with tlb := tlbHold (t :: s.tlb.filter fun x => !(x.core == core && x.ctx == asCtx as && x.vpn == va / 2 ^ x.bits)) }
    | none => { s with tlb := tlbHold (t :: s.tlb) }
  | .fault _ => s

/-- Translation and checks of one byte's address for a context's lanes and engines (R118, R119, R397, R400, R426,
R434). `poisonOk` is for engines, which pass poison on (R434). -/
def xlate (s : State) (core as va : Nat) (k : AKind) (poisonOk : Bool := false) : Xlate :=
  if 2 ^ 57 ≤ va then .fault cNONCANON
  else
    match leafFor s core as va (k == .fetch) with
    | .fault c => .fault c
    | .leaf e lvl =>
      if k == .write && bits e 2 1 = 0 then .fault cWRITEPROT
      else if k == .fetch && bits e 3 1 = 0 then .fault cFETCH
      else
        match leafPlace s va e (pageBits e lvl) with
        | .fault c => .fault c
        | .ok p =>
          match targetOf s p.loc with
          | none => .fault cACCESS
          | some t =>
            if isRemote p.loc && (tget? s.nacks (lineOf p.loc)).isSome then .fault (tget cACCESS s.nacks (lineOf p.loc))
            else if isDram p.loc && !(s.stack (stackOf p.loc)).dmen then .fault cACCESS
            else if !accessOk s t ⟨0, asCtx as⟩ p.pa (k == .write) then .fault cACCESS
            else if !poisonOk && s.poison.contains (lineOf p.loc) then .fault cPOISON
            else .ok p

/-- Locations of the bytes of an access, byte by byte; a fault of either page faults the access (R250). -/
inductive Places where
  | ok (l : List (Nat × Place))
  | fault (cause : Nat) (va : Nat)
  deriving DecidableEq, Repr
/-- Byte offsets of an access that begin a page or the access itself. -/
def pageCuts (va n : Nat) : List Nat := (List.range n).filter fun i => i == 0 || (va + i) % 4096 == 0
def xlatePieces (s : State) (core as va : Nat) (k : AKind) (poisonOk : Bool) : List Nat → Nat → Places
  | [], _ => .ok []
  | i :: r, n =>
    match xlate s core as (va + i) k poisonOk with
    | .fault c => .fault c (va + i)
    | .ok p =>
      let upto := match r with | j :: _ => j | [] => n
      match xlatePieces s core as va k poisonOk r n with
      | .fault c a => .fault c a
      | .ok l => .ok ((List.range (upto - i)).map (fun j => (p.loc + j, p)) ++ l)
/-- Poison of a later line of the access. -/
def poisoned (s : State) (l : List (Nat × Place)) : Bool := l.any fun x => s.poison.contains (lineOf x.1)
/-- The host port of a later line of the access refuses it (R119, R400). -/
def portRefused (s : State) (as : Nat) (k : AKind) (l : List (Nat × Place)) : Bool :=
  l.any fun x => isHost x.1 && !accessOk s (16 + x.1 / 128 % 2) ⟨0, asCtx as⟩ x.2.pa (k == .write)
/-- The bytes of an access and where they lie. An access that begins below 2^57 and crosses it reports its own start
(DESIGN CHOICE, log 69). -/
def xlateN (s : State) (core as va n : Nat) (k : AKind) (poisonOk : Bool := false) : Places :=
  if 2 ^ 57 < va + n ∧ va < 2 ^ 57 then .fault cNONCANON va
  else
  match xlatePieces s core as va k poisonOk (pageCuts va n) n with
  | .ok l =>
    if portRefused s as k l then .fault cACCESS va
    else if !poisonOk && poisoned s l then .fault cPOISON va
    else .ok l
  | f => f

/-- The locations of a translated access. -/
def locsOf (p : Places) : List Nat := match p with | .ok l => l.map (·.1) | .fault _ _ => []

end Sys2Proof.Machine
end

