-- ==== Sys2Proof/Machine/Fp.lean ====
section
/-! DEFINITION. Exact numbers and the rounding of bounds: binary16, bfloat16, binary32, binary64 (R80, R82, R89). -/
namespace Sys2Proof.Machine

/-- A binary format: exponent bits and fraction bits. -/
structure Fmt where
  eb : Nat
  fb : Nat
  deriving DecidableEq, Repr

def f16 : Fmt := ⟨5, 10⟩
def bf16 : Fmt := ⟨8, 7⟩
def f32 : Fmt := ⟨8, 23⟩
def f64 : Fmt := ⟨11, 52⟩
/-- The midpoint of an MRW: 8 exponent bits, 15 fraction bits (R98). -/
def f24 : Fmt := ⟨8, 15⟩

namespace Fmt
def bias (f : Fmt) : Int := (2 : Int) ^ (f.eb - 1) - 1
def infBits (f : Fmt) : Nat := (2 ^ f.eb - 1) * 2 ^ f.fb
def maxBits (f : Fmt) : Nat := f.infBits - 1
def signBit (f : Fmt) : Nat := 2 ^ (f.eb + f.fb)
/-- Exponent of the last place of a subnormal. -/
def umin (f : Fmt) : Int := 1 - f.bias - f.fb
/-- Bits of the whole number. -/
def width (f : Fmt) : Nat := 1 + f.eb + f.fb
end Fmt

/-- The exact number n / d · 2^e, d not 0. -/
structure Q where
  n : Int
  d : Nat
  e : Int
  deriving DecidableEq, Repr

/-- An exact number or an infinity. -/
inductive Ext where
  | ninf
  | fin (q : Q)
  | pinf
  deriving DecidableEq, Repr

/-- m · 2^k for a natural shift, or the floor of m / 2^k. -/
def shiftInt (m : Int) (k : Int) : Int := if 0 ≤ k then m * 2 ^ k.toNat else m / 2 ^ (-k).toNat
def shiftNat (m : Nat) (k : Int) : Nat := if 0 ≤ k then m * 2 ^ k.toNat else m / 2 ^ (-k).toNat

namespace Q
def ofInt (i : Int) : Q := ⟨i, 1, 0⟩
def zero : Q := ⟨0, 1, 0⟩
def pow2 (k : Int) : Q := ⟨1, 1, k⟩
def neg (x : Q) : Q := { x with n := -x.n }
def mul (x y : Q) : Q := ⟨x.n * y.n, x.d * y.d, x.e + y.e⟩
/-- The two numerators over one denominator and one exponent. -/
def align (x y : Q) : Int × Int × Nat × Int :=
  let e := min x.e y.e
  (x.n * y.d * 2 ^ (x.e - e).toNat, y.n * x.d * 2 ^ (y.e - e).toNat, x.d * y.d, e)
def add (x y : Q) : Q := let (a, b, d, e) := align x y; ⟨a + b, d, e⟩
def sub (x y : Q) : Q := add x y.neg
def half (x : Q) : Q := { x with e := x.e - 1 }
/-- x / y for y not 0. -/
def div (x y : Q) : Q := ⟨x.n * y.d * (if y.n < 0 then -1 else 1), x.d * y.n.natAbs, x.e - y.e⟩
def lt (x y : Q) : Bool := let (a, b, _, _) := align x y; decide (a < b)
def le (x y : Q) : Bool := !(lt y x)
def eq (x y : Q) : Bool := let (a, b, _, _) := align x y; decide (a = b)
def max (x y : Q) : Q := if lt x y then y else x
def min (x y : Q) : Q := if lt y x then y else x
def abs (x : Q) : Q := { x with n := x.n.natAbs }
def isZero (x : Q) : Bool := x.n == 0
/-- The integer part toward −∞ and whether it is exact. -/
def floor (x : Q) : Int := shiftInt x.n (if 0 ≤ x.e then x.e else 0) / (x.d * 2 ^ (-x.e).toNat : Nat)
def isInt (x : Q) : Bool := eq x (ofInt (floor x))
def ceil (x : Q) : Int := -(floor x.neg)
/-- The nearest integer, ties to even. -/
def nearest (x : Q) : Int :=
  let f := floor x
  let r := sub x (ofInt f)
  let h : Q := ⟨1, 1, -1⟩
  if lt r h then f else if lt h r then f + 1 else if f % 2 == 0 then f else f + 1
end Q

namespace Ext
def zero : Ext := .fin Q.zero
def lt : Ext → Ext → Bool
  | .ninf, .ninf => false
  | .ninf, _ => true
  | _, .ninf => false
  | .pinf, _ => false
  | .fin _, .pinf => true
  | .fin a, .fin b => a.lt b
def le (a b : Ext) : Bool := !(lt b a)
def eq (a b : Ext) : Bool := le a b && le b a
def max (a b : Ext) : Ext := if lt a b then b else a
def min (a b : Ext) : Ext := if lt b a then b else a
def neg : Ext → Ext
  | .ninf => .pinf
  | .pinf => .ninf
  | .fin q => .fin q.neg
/-- −1, 0 or 1. -/
def sgn : Ext → Int
  | .ninf => -1
  | .pinf => 1
  | .fin q => if q.n < 0 then -1 else if q.n = 0 then 0 else 1
/-- Sums of bounds of one side: an infinity absorbs. -/
def add : Ext → Ext → Ext
  | .fin a, .fin b => .fin (a.add b)
  | .fin _, y => y
  | x, _ => x
/-- Products of bounds: 0 times an infinity is 0, because no interval has ∞ as a member (R89). -/
def mul (a b : Ext) : Ext :=
  match a, b with
  | .fin x, .fin y => .fin (x.mul y)
  | _, _ =>
    let s := sgn a * sgn b
    if s = 0 then zero else if s < 0 then .ninf else .pinf
/-- Quotients of bounds, b not 0: a finite bound over an infinite one tends to 0 (R92). -/
def div (a b : Ext) : Ext :=
  match a, b with
  | .fin x, .fin y => .fin (x.div y)
  | .fin _, _ => zero
  | .ninf, .fin y => if y.n < 0 then .pinf else .ninf
  | .pinf, .fin y => if y.n < 0 then .ninf else .pinf
  | _, _ => zero
def isFin : Ext → Bool
  | .fin _ => true
  | _ => false
end Ext

/-- floor(log2 x) of a positive exact number n / d · 2^e. -/
def floorLog2 (n d : Nat) (e : Int) : Int :=
  let l : Int := (Nat.log2 n : Int) - Nat.log2 d
  let ge := if 0 ≤ l then decide (d * 2 ^ l.toNat ≤ n) else decide (d ≤ n * 2 ^ (-l).toNat)
  (if ge then l else l - 1) + e

/-- A positive real given by its binary exponent and the floors of its multiples by powers of 2; `exact k` says that
x · 2^k is an integer. -/
structure RVal where
  neg : Bool
  ex : Int
  fl : Int → Nat
  exact : Int → Bool
  isZero : Bool

/-- The real of an exact number. -/
def RVal.ofQ (q : Q) : RVal :=
  let n := q.n.natAbs
  { neg := decide (q.n < 0), ex := if n = 0 then 0 else floorLog2 n q.d q.e,
    fl := fun k => let s := q.e + k
                   if 0 ≤ s then n * 2 ^ s.toNat / q.d else n / (q.d * 2 ^ (-s).toNat),
    exact := fun k => let s := q.e + k
                      if 0 ≤ s then n * 2 ^ s.toNat % q.d == 0 else n % (q.d * 2 ^ (-s).toNat) == 0,
    isZero := q.n == 0 }

/-- A rounded bound: its bits without regard to the zero-sign rule, and what rounding did. -/
structure RB where
  bits : Nat
  zero : Bool
  ix : Bool
  ovf : Bool
  uf : Bool
  deriving DecidableEq, Repr

/-- How a magnitude is rounded. -/
inductive RMode where
  | down | up | near
  deriving DecidableEq, Repr

/-- The bits of a magnitude rounded toward 0, away from 0 or to nearest even. -/
def roundMag (f : Fmt) (x : RVal) (m : RMode) : RB :=
  if x.isZero then ⟨0, true, false, false, false⟩
  else if f.bias + 1 < x.ex then
    match m with
    | .down => ⟨f.maxBits, false, true, false, false⟩
    | _ => ⟨f.infBits, false, true, true, false⟩
  else
    let u := max (x.ex - f.fb) f.umin
    let q := x.fl (-u)
    let ex := x.exact (-u)
    let q2 := x.fl (-u + 1)
    let up := match m with
      | .down => false
      | .up => !ex
      | .near => q2 % 2 == 1 && (!(x.exact (-u + 1)) || q % 2 == 1)
    let q := if up then q + 1 else q
    let b := ((u - f.umin).toNat) * 2 ^ f.fb + q
    let sub := decide (x.ex < 1 - f.bias)
    if f.infBits ≤ b then
      match m with
      | .down => ⟨f.maxBits, false, true, false, false⟩
      | _ => ⟨f.infBits, false, true, true, false⟩
    else ⟨b, b == 0, !ex, false, sub && !ex⟩

/-- Rounds a real toward −∞ (rd), toward +∞ (ru) or to nearest even (rn) in a format; the sign stands in the bits. -/
def rdR (f : Fmt) (x : RVal) : RB :=
  if x.neg then let r := roundMag f x .up; { r with bits := r.bits + f.signBit } else roundMag f x .down
def ruR (f : Fmt) (x : RVal) : RB :=
  if x.neg then let r := roundMag f x .down; { r with bits := r.bits + f.signBit } else roundMag f x .up
def rnR (f : Fmt) (x : RVal) : RB :=
  let r := roundMag f x .near
  if x.neg then { r with bits := r.bits + f.signBit } else r

/-- The bits of an infinity. -/
def infRB (f : Fmt) (neg : Bool) : RB := ⟨f.infBits + (if neg then f.signBit else 0), false, false, false, false⟩

/-- Outward rounding of a bound. -/
def rdX (f : Fmt) : Ext → RB
  | .ninf => infRB f true
  | .pinf => infRB f false
  | .fin q => rdR f (RVal.ofQ q)
def ruX (f : Fmt) : Ext → RB
  | .ninf => infRB f true
  | .pinf => infRB f false
  | .fin q => ruR f (RVal.ofQ q)

/-- What the bits of one bound mean. -/
inductive FpClass where
  | nan (quiet : Bool) (payload : Nat)
  | val (x : Ext)
  deriving DecidableEq, Repr

/-- The payload of a NaN left-justified in the 51 payload bits of binary64, so that a change of width keeps its most
significant bits (R85). -/
def padPayload (f : Fmt) (p : Nat) : Nat := p * 2 ^ (52 - f.fb)
def cutPayload (f : Fmt) (p : Nat) : Nat := p / 2 ^ (52 - f.fb)

/-- Reads the bits of a bound. -/
def fpRead (f : Fmt) (b : Nat) : FpClass :=
  let b := b % 2 ^ f.width
  let neg := decide (f.signBit ≤ b)
  let m := b % f.signBit
  let ex := m / 2 ^ f.fb
  let fr := m % 2 ^ f.fb
  if ex = 2 ^ f.eb - 1 then
    if fr = 0 then .val (if neg then .ninf else .pinf)
    else .nan (decide (2 ^ (f.fb - 1) ≤ fr)) (padPayload f (fr % 2 ^ (f.fb - 1)))
  else
    let mag : Nat := if ex = 0 then fr else 2 ^ f.fb + fr
    let e : Int := (if ex = 0 then 1 else (ex : Int)) - f.bias - f.fb
    .val (.fin ⟨if neg then -(mag : Int) else mag, 1, e⟩)

/-- The exact value of bits that are no NaN, as F32 radii and sums use it. -/
def fpVal (f : Fmt) (b : Nat) : Ext :=
  match fpRead f b with
  | .val x => x
  | .nan _ _ => Ext.zero

/-- The largest finite number of a format. -/
def maxFinite (f : Fmt) : Q := match fpVal f f.maxBits with | .fin q => q | _ => Q.zero

/-- The next float above or below a finite float given by its bits (R47). -/
def nextUp (f : Fmt) (b : Nat) : Nat :=
  if b % f.signBit = 0 then 1
  else if b < f.signBit then b + 1
  else if b = f.signBit + 1 then 0 else b - 1
def nextDown (f : Fmt) (b : Nat) : Nat :=
  if b % f.signBit = 0 then f.signBit + 1
  else if b < f.signBit then b - 1 else b + 1

/-- Integer square root: Newton's iteration from above. -/
def isqrtLoop : Nat → Nat → Nat → Nat
  | 0, _, x => x
  | k + 1, n, x => let y := (x + n / x) / 2; if y < x then isqrtLoop k n y else x
def isqrt (n : Nat) : Nat := if n = 0 then 0 else isqrtLoop (Nat.log2 n + 4) n (2 ^ (Nat.log2 n / 2 + 1))

/-- The square root of a positive exact number with d = 1. -/
def RVal.sqrt (q : Q) : RVal :=
  let n := q.n.natAbs
  -- floor of q · 2^(2k)
  let sc := fun k : Int => let s := q.e + 2 * k
                           if 0 ≤ s then n * 2 ^ s.toNat / q.d else n / (q.d * 2 ^ (-s).toNat)
  let scx := fun k : Int => let s := q.e + 2 * k
                            if 0 ≤ s then n * 2 ^ s.toNat % q.d == 0 else n % (q.d * 2 ^ (-s).toNat) == 0
  { neg := false, ex := if n = 0 then 0 else (floorLog2 n q.d q.e) / 2,
    fl := fun k => isqrt (sc k),
    exact := fun k => let r := isqrt (sc k); scx k && r * r == sc k,
    isZero := q.n == 0 }

/-- The reciprocal square root of a positive exact number. -/
def RVal.rsqrt (q : Q) : RVal := RVal.sqrt ((Q.ofInt 1).div q)

end Sys2Proof.Machine
end

