-- ==== Sys2Proof/Machine/Elementary.lean ====
section
/-! DEFINITION. The elementary functions at one exact point, as reals whose floors are found by fixed-point enclosures
of growing precision (R90, R91). Every bound returned is the outward rounding of the exact value: the enclosure is
refined until its two ends have the same floor (log 15). -/
namespace Sys2Proof.Machine

/-- An enclosure of a positive real times 2^p, for each precision p. -/
abbrev Encl := Nat → Int × Int

/-- The floor of x · 2^k from enclosures at growing precision. -/
def zivFloor (f : Encl) (k : Int) : Nat → Nat → Nat
  | 0, g => let p := (max k 0).toNat + g
            (shiftInt (f p).1 (k - p)).toNat
  | fuel + 1, g =>
    let p := (max k 0).toNat + g
    let (lo, hi) := f p
    let a := shiftInt lo (k - p)
    let b := shiftInt hi (k - p)
    if a = b then a.toNat else zivFloor f k fuel (2 * g)

/-- floor(log2 x) from enclosures at growing precision. -/
def zivLog2 (f : Encl) : Nat → Nat → Int
  | 0, p => (Nat.log2 (f p).1.toNat : Int) - p
  | fuel + 1, p =>
    let (lo, hi) := f p
    if 0 < lo && Nat.log2 lo.toNat == Nat.log2 hi.toNat then (Nat.log2 lo.toNat : Int) - p else zivLog2 f fuel (2 * p)

/-- The real of an enclosure; it is never a dyadic number. -/
def RVal.ofEncl (neg : Bool) (f : Encl) : RVal :=
  { neg := neg, ex := zivLog2 f 9 64, fl := fun k => zivFloor f k 9 32, exact := fun _ => false, isZero := false }

/-- A real above 0 and below every float of every format. -/
def RVal.tiny (neg : Bool) : RVal :=
  { neg := neg, ex := -5000, fl := fun _ => 0, exact := fun _ => false, isZero := false }
/-- A real above every finite float. -/
def RVal.huge (neg : Bool) : RVal :=
  { neg := neg, ex := 5000, fl := fun _ => 0, exact := fun _ => false, isZero := false }
/-- A real below 1 and above every float below 1. -/
def RVal.belowOne (neg : Bool) : RVal :=
  { neg := neg, ex := -1, fl := fun k => (shiftNat 1 k) - (if 0 ≤ k then 1 else 0), exact := fun _ => false,
    isZero := false }

/-- floor(q · 2^w). -/
def fix (q : Q) (w : Nat) : Int :=
  let s := q.e + w
  if 0 ≤ s then q.n * 2 ^ s.toNat / (q.d : Int) else q.n / ((q.d * 2 ^ (-s).toNat : Nat) : Int)

/-- Σ r^i / i!, fixed point of w bits, from the term of index i. -/
def expLoop (r : Int) (w : Nat) : Nat → Int → Int → Int → Int
  | 0, _, _, acc => acc
  | k + 1, t, i, acc => if t = 0 ∨ t = -1 then acc else
      let t' := t * r / (2 ^ w * i : Int)
      expLoop r w k t' (i + 1) (acc + t')

/-- exp of a fixed-point number below 1 in magnitude. -/
def expFix (r : Int) (w : Nat) : Int := expLoop r w (w + 8) (2 ^ w) 1 (2 ^ w)

/-- 2 · Σ z^(2i+1) / (2i+1), fixed point. -/
def atanhLoop (z2 : Int) (w : Nat) : Nat → Int → Int → Int → Int
  | 0, _, _, acc => acc
  | k + 1, t, i, acc => if t = 0 ∨ t = -1 then acc else
      let t' := t * z2 / (2 ^ w : Int)
      atanhLoop z2 w k t' (i + 2) (acc + t' / (i + 2))
def atanh2 (z : Int) (w : Nat) : Int := 2 * atanhLoop (z * z / 2 ^ w) w (w + 8) z 1 z

/-- ln 2 = 2 atanh(1/3), fixed point. -/
def ln2Fix (w : Nat) : Int := atanh2 ((2 ^ w : Int) / 3) w

/-- Σ (−1)^i t^(2i+1) / (2i+1) for t = 1/m. -/
def atanInvLoop (m2 : Int) : Nat → Int → Int → Int → Int
  | 0, _, _, acc => acc
  | k + 1, t, i, acc => if t = 0 ∨ t = -1 then acc else
      let t' := -t / m2
      atanInvLoop m2 k t' (i + 2) (acc + t' / (i + 2))
def atanInv (m : Int) (w : Nat) : Int := let t := (2 ^ w : Int) / m; atanInvLoop (m * m) (w + 8) t 1 t
/-- π, by Machin's formula, fixed point. -/
def piFix (w : Nat) : Int := 4 * (4 * atanInv 5 w - atanInv 239 w)

/-- The error, in units of the working precision, that every enclosure allows. -/
def slack : Int := 2 ^ 40

/-- The enclosure at p bits of a fixed-point number y of w bits. -/
def enclose (y : Int) (w p : Nat) : Int × Int :=
  let s : Int := (p : Int) - w
  (shiftInt (y - slack) s, shiftInt (y + slack) s + 1)

/-- exp(q · ln 2^a): exp for a = 0, exp2 for a = 1; |q| is at most 2^12. -/
def exp2Encl (base2 : Bool) (q : Q) : Encl := fun p =>
  let kEst : Int := if base2 then q.floor else (fix q 20 * 1512775 / 2 ^ 40)
  let w := p + 96 + (max kEst 0).toNat
  let l2 := ln2Fix w
  let r : Int := if base2 then (fix (q.sub (Q.ofInt kEst)) w) * l2 / 2 ^ w else fix q w - kEst * l2
  let y := expFix r w
  let s := kEst + (p : Int) - w
  (shiftInt (y - slack) s, shiftInt (y + slack) s + 1)

/-- ln of a positive exact number, signed enclosure. -/
def lnFix (q : Q) (w : Nat) : Int :=
  let k0 := floorLog2 q.n.natAbs q.d q.e
  let m0 : Q := { q with e := q.e - k0 }
  let big := Q.lt ⟨3, 1, -1⟩ m0
  let k := if big then k0 + 1 else k0
  let m : Q := if big then m0.half else m0
  let one := Q.ofInt 1
  let z := fix ((m.sub one).div (m.add one)) w
  k * ln2Fix w + atanh2 z w
def lnEncl (q : Q) : Encl := fun p =>
  let w := p + 96
  let y := lnFix q w
  enclose (if y < 0 then -y else y) w p
def log2Encl (q : Q) : Encl := fun p =>
  let w := p + 96
  let y := lnFix q w * 2 ^ w / ln2Fix w
  enclose (if y < 0 then -y else y) w p

/-- Σ alternating terms of sin or cos, fixed point. -/
def trigLoop (r2 : Int) (w : Nat) : Nat → Int → Int → Int → Int
  | 0, _, _, acc => acc
  | k + 1, t, i, acc => if t = 0 ∨ t = -1 then acc else
      let t' := -(t * r2 / (2 ^ w : Int)) / (i * (i + 1))
      trigLoop r2 w k t' (i + 2) (acc + t')
def sinFix (r : Int) (w : Nat) : Int := trigLoop (r * r / 2 ^ w) w (w + 8) r 2 r
def cosFix (r : Int) (w : Nat) : Int := trigLoop (r * r / 2 ^ w) w (w + 8) (2 ^ w) 1 (2 ^ w)

/-- The quadrant floor(2x / π) of a positive exact number: refined until the enclosure of 2x / π has one floor. -/
def quadLoop (q : Q) : Nat → Nat → Int
  | 0, w => 2 * fix q w / piFix w
  | fuel + 1, w =>
    let x := fix q w
    let pi := piFix w
    let a := 2 * x / (pi + slack)
    let b := 2 * (x + 1) / (pi - slack)
    if a = b then a else quadLoop q fuel (2 * w)
def quadrant (q : Q) : Int := quadLoop q 6 (64 + (max (floorLog2 q.n.natAbs q.d q.e) 0).toNat + 64)

/-- |sin| or |cos| of a positive exact number x in quadrant j: sin of the rest of x for even shift, cos for odd. -/
def trigEncl (x : Q) (j : Int) (useCos : Bool) : Encl := fun p =>
  let lg := (max (floorLog2 x.n.natAbs x.d x.e) 0).toNat
  let w := p + 96 + lg
  let r := fix x w - j * piFix w / 2
  let y := if useCos then cosFix r w else sinFix r w
  -- the error of j · π / 2 is below 2^(lg + 8) units; lg bits more are kept than are asked for
  let s : Int := (p : Int) - w
  let sl : Int := slack * 2 ^ lg
  (shiftInt (y - sl) s, shiftInt (y + sl) s + 1)

/-- sin of an exact number. -/
def sinR (x : Q) : RVal :=
  if x.n = 0 then RVal.ofQ Q.zero
  else
    let a := x.abs
    let j := quadrant a
    let neg := decide (2 ≤ j % 4) != decide (x.n < 0)
    RVal.ofEncl neg (trigEncl a j (j % 2 == 1))
/-- cos of an exact number. -/
def cosR (x : Q) : RVal :=
  if x.n = 0 then RVal.ofQ (Q.ofInt 1)
  else
    let a := x.abs
    let j := quadrant a
    RVal.ofEncl (j % 4 == 1 || j % 4 == 2) (trigEncl a j (j % 2 == 0))

/-- exp and exp2 of an exact number. -/
def expR (x : Q) : RVal :=
  if x.n = 0 then RVal.ofQ (Q.ofInt 1)
  else if Q.lt (Q.ofInt 2000) x then RVal.huge false
  else if Q.lt x (Q.ofInt (-2000)) then RVal.tiny false
  else RVal.ofEncl false (exp2Encl false x)
def exp2R (x : Q) : RVal :=
  if Q.lt (Q.ofInt 2000) x then RVal.huge false
  else if Q.lt x (Q.ofInt (-2000)) then RVal.tiny false
  else if x.isInt then RVal.ofQ (Q.pow2 x.floor)
  else RVal.ofEncl false (exp2Encl true x)

/-- ln and log2 of a positive exact number. -/
def lnR (x : Q) : RVal :=
  if x.eq (Q.ofInt 1) then RVal.ofQ Q.zero else RVal.ofEncl (x.lt (Q.ofInt 1)) (lnEncl x)
def log2R (x : Q) : RVal :=
  let k := floorLog2 x.n.natAbs x.d x.e
  if x.eq (Q.pow2 k) then RVal.ofQ (Q.ofInt k) else RVal.ofEncl (x.lt (Q.ofInt 1)) (log2Encl x)

/-- tanh of an exact number: (1 − y) / (1 + y) with y = exp(−2|x|). -/
def tanhEncl (x : Q) : Encl := fun p =>
  let w := p + 96
  let y2 := (exp2Encl false { x.neg with e := x.e + 1 } w).1
  enclose ((2 ^ w - y2) * 2 ^ w / (2 ^ w + y2)) w p
def tanhR (x : Q) : RVal :=
  let neg := decide (x.n < 0)
  if x.n = 0 then RVal.ofQ Q.zero
  else if Q.lt (Q.ofInt 64) x.abs then RVal.belowOne neg
  else RVal.ofEncl neg (tanhEncl x.abs)

end Sys2Proof.Machine
end

