-- ==== Sys2Proof/Machine/Interval.lean ====
section
/-! DEFINITION. Intervals: the check of R87, the writing of results, arithmetic, comparisons, conversions and the
midpoint-radius word (R80 to R100, R229 to R240). -/
namespace Sys2Proof.Machine

/-- The flags of fl: IV, DZ, OF, UF, IX at bits 0 to 4 (R72). -/
abbrev Flags := BitVec 5
def fIV : Flags := 1
def fDZ : Flags := 2
def fOF : Flags := 4
def fUF : Flags := 8
def fIX : Flags := 16
def flagIf (b : Bool) (f : Flags) : Flags := if b then f else 0

/-- An interval operand after the check of R87. The payload of a NaI is left-justified (R85). -/
inductive IV where
  | nai (p : Nat)
  | empty
  | iv (lo hi : Ext)
  deriving DecidableEq, Repr

/-- The bits of an interval result, lo and hi, with the flags its forming raised. -/
structure IvRes where
  lo : Nat
  hi : Nat
  fl : Flags
  deriving DecidableEq, Repr

/-- The check of R87 on the two halves of a pair in a format. -/
def readIv (f : Fmt) (lo hi : Nat) : IV × Flags :=
  match fpRead f lo, fpRead f hi with
  | .nan ql pl, .nan qh ph => if ql && qh && pl == ph then (.nai pl, 0) else (.nai pl, fIV)
  | .nan _ pl, .val _ => (.nai pl, fIV)
  | .val _, .nan _ ph => (.nai ph, fIV)
  | .val .pinf, .val .ninf => (.empty, 0)
  | .val l, .val h =>
    if Ext.lt h l || l == .pinf || h == .ninf then (.nai 0, fIV) else (.iv l h, 0)

/-- The flags of one rounded bound. -/
def RB.flags (r : RB) : Flags := flagIf r.ix fIX ||| flagIf r.ovf fOF ||| flagIf r.uf fUF

/-- A pair of rounded bounds under the zero-sign rule of R86. -/
def packRB (f : Fmt) (lo hi : RB) (extra : Flags := 0) : IvRes :=
  { lo := if lo.bits % f.signBit = 0 then f.signBit else lo.bits,
    hi := if hi.bits % f.signBit = 0 then 0 else hi.bits,
    fl := lo.flags ||| hi.flags ||| extra }

/-- The NaI of a payload (R84, R87). -/
def naiBits (f : Fmt) (p : Nat) : Nat := f.infBits + 2 ^ (f.fb - 1) + cutPayload f p
def naiRes (f : Fmt) (p : Nat) (fl : Flags := 0) : IvRes := ⟨naiBits f p, naiBits f p, fl⟩
def emptyRes (f : Fmt) (fl : Flags := 0) : IvRes := ⟨f.infBits, f.infBits + f.signBit, fl⟩

/-- Writes an interval whose bounds are exact: outward rounding and zero signs (R86, R89). -/
def writeIv (f : Fmt) (x : IV) (fl : Flags := 0) : IvRes :=
  match x with
  | .nai p => naiRes f p fl
  | .empty => emptyRes f fl
  | .iv l h => packRB f (rdX f l) (ruX f h) fl

/-- The entire interval and a point. -/
def IV.entire : IV := .iv .ninf .pinf
def IV.point (q : Q) : IV := .iv (.fin q) (.fin q)

/-- NaI propagation over a list of operands in the order of R88, then the operation. -/
def firstNai : List IV → Option Nat
  | [] => none
  | .nai p :: _ => some p
  | _ :: r => firstNai r
def anyEmpty (l : List IV) : Bool := l.any fun x => x == .empty

/-- Sum, difference and product of non-empty intervals (R89). -/
def ivAdd : IV → IV → IV
  | .iv a b, .iv c d => .iv (a.add c) (b.add d)
  | _, _ => .empty
def ivNeg : IV → IV
  | .iv a b => .iv b.neg a.neg
  | x => x
def ivMul : IV → IV → IV
  | .iv a b, .iv c d =>
    let w := a.mul c; let x := a.mul d; let y := b.mul c; let z := b.mul d
    .iv (Ext.min (Ext.min w x) (Ext.min y z)) (Ext.max (Ext.max w x) (Ext.max y z))
  | _, _ => .empty

/-- The two pieces of a quotient and whether DZ is raised (R92). -/
def ivDiv2 (a b : IV) : IV × IV × Bool :=
  match a, b with
  | .iv al ah, .iv bl bh =>
    let zb := decide (bl.sgn ≤ 0) && decide (0 ≤ bh.sgn)
    if !zb then
      let w := al.div bl; let x := al.div bh; let y := ah.div bl; let z := ah.div bh
      (.iv (Ext.min (Ext.min w x) (Ext.min y z)) (Ext.max (Ext.max w x) (Ext.max y z)), .empty, false)
    else if bl.sgn = 0 && bh.sgn = 0 then (.empty, .empty, false)
    else if al.sgn = 0 && ah.sgn = 0 then (IV.point Q.zero, .empty, true)
    else if bl.sgn = 0 then
      -- divisors are positive
      if 0 < al.sgn then (.iv (al.div bh) .pinf, .empty, true)
      else if ah.sgn < 0 then (.iv .ninf (ah.div bh), .empty, true)
      else if al.sgn = 0 then (.iv Ext.zero .pinf, .empty, true)
      else if ah.sgn = 0 then (.iv .ninf Ext.zero, .empty, true)
      else (IV.entire, .empty, true)
    else if bh.sgn = 0 then
      -- divisors are negative
      if 0 < al.sgn then (.iv .ninf (al.div bl), .empty, true)
      else if ah.sgn < 0 then (.iv (ah.div bl) .pinf, .empty, true)
      else if al.sgn = 0 then (.iv .ninf Ext.zero, .empty, true)
      else if ah.sgn = 0 then (.iv Ext.zero .pinf, .empty, true)
      else (IV.entire, .empty, true)
    else
      if 0 < al.sgn then (.iv .ninf (al.div bl), .iv (al.div bh) .pinf, true)
      else if ah.sgn < 0 then (.iv .ninf (ah.div bh), .iv (ah.div bl) .pinf, true)
      else (IV.entire, .empty, true)
  | _, _ => (.empty, .empty, false)
/-- The hull of the pieces. -/
def ivHull : IV → IV → IV
  | .iv a b, .iv c d => .iv (Ext.min a c) (Ext.max b d)
  | .empty, y => y
  | x, _ => x
def ivMeet : IV → IV → IV
  | .iv a b, .iv c d =>
    let l := Ext.max a c; let h := Ext.min b d
    if Ext.lt h l then .empty else .iv l h
  | _, _ => .empty
def ivMin : IV → IV → IV
  | .iv a b, .iv c d => .iv (Ext.min a c) (Ext.min b d)
  | _, _ => .empty
def ivMax : IV → IV → IV
  | .iv a b, .iv c d => .iv (Ext.max a c) (Ext.max b d)
  | _, _ => .empty

/-- A two-source operation: NaI in operand order, then the operation; `h` says an empty operand is not absorbing. -/
def arith2 (f : Fmt) (op : IV → IV → IV) (hull : Bool) (a b : IV) : IvRes :=
  match firstNai [a, b] with
  | some p => naiRes f p
  | none => if !hull && anyEmpty [a, b] then emptyRes f else writeIv f (op a b)

def fAdd (f : Fmt) (a b : IV) : IvRes := arith2 f ivAdd false a b
def fSub (f : Fmt) (a b : IV) : IvRes := arith2 f (fun x y => ivAdd x (ivNeg y)) false a b
def fMul (f : Fmt) (a b : IV) : IvRes := arith2 f ivMul false a b
def fMin (f : Fmt) (a b : IV) : IvRes := arith2 f ivMin false a b
def fMax (f : Fmt) (a b : IV) : IvRes := arith2 f ivMax false a b
def fHull (f : Fmt) (a b : IV) : IvRes := arith2 f ivHull true a b
def fMeet (f : Fmt) (a b : IV) : IvRes := arith2 f ivMeet false a b
/-- a·b + d over the exact set, rounded once; payload order addend, a, b (R88, R230). -/
def fFma (f : Fmt) (d a b : IV) : IvRes :=
  match firstNai [d, a, b] with
  | some p => naiRes f p
  | none => if anyEmpty [d, a, b] then emptyRes f else writeIv f (ivAdd (ivMul a b) d)
def fDiv (f : Fmt) (a b : IV) : IvRes :=
  match firstNai [a, b] with
  | some p => naiRes f p
  | none =>
    if anyEmpty [a, b] then emptyRes f
    else let (x, y, dz) := ivDiv2 a b; writeIv f (ivHull x y) (flagIf dz fDZ)
def fDiv2 (f : Fmt) (a b : IV) : IvRes × IvRes :=
  match firstNai [a, b] with
  | some p => (naiRes f p, naiRes f p)
  | none =>
    if anyEmpty [a, b] then (emptyRes f, emptyRes f)
    else let (x, y, dz) := ivDiv2 a b; (writeIv f x (flagIf dz fDZ), writeIv f y)

/-- A one-source operation. -/
def arith1 (f : Fmt) (op : Ext → Ext → IvRes) (a : IV) : IvRes :=
  match a with
  | .nai p => naiRes f p
  | .empty => emptyRes f
  | .iv l h => op l h

def fNeg (f : Fmt) (a : IV) : IvRes := arith1 f (fun l h => writeIv f (.iv h.neg l.neg)) a
def fAbs (f : Fmt) (a : IV) : IvRes := arith1 f (fun l h =>
  writeIv f (if 0 ≤ l.sgn then .iv l h else if h.sgn ≤ 0 then .iv h.neg l.neg else .iv Ext.zero (Ext.max l.neg h))) a
def fSqr (f : Fmt) (a : IV) : IvRes := arith1 f (fun l h =>
  let l2 := l.mul l; let h2 := h.mul h
  writeIv f (.iv (if 0 ≤ l.sgn then l2 else if h.sgn ≤ 0 then h2 else Ext.zero) (Ext.max l2 h2))) a
def fRcp (f : Fmt) (a : IV) : IvRes := fDiv f (IV.point (Q.ofInt 1)) a

/-- The bound of a real, or of an exact extended number. -/
def rdE (f : Fmt) (g : Q → RVal) (atN atP : Ext) : Ext → RB
  | .ninf => rdX f atN
  | .pinf => rdX f atP
  | .fin q => rdR f (g q)
def ruE (f : Fmt) (g : Q → RVal) (atN atP : Ext) : Ext → RB
  | .ninf => ruX f atN
  | .pinf => ruX f atP
  | .fin q => ruR f (g q)

def extOne : Ext := .fin (Q.ofInt 1)
def extMinusOne : Ext := .fin (Q.ofInt (-1))

/-- Increasing functions with given values at the infinities. -/
def fMono (f : Fmt) (g : Q → RVal) (atN atP : Ext) (a : IV) : IvRes :=
  arith1 f (fun l h => packRB f (rdE f g atN atP l) (ruE f g atN atP h)) a
def fExp (f : Fmt) (a : IV) : IvRes := fMono f expR Ext.zero .pinf a
def fExp2 (f : Fmt) (a : IV) : IvRes := fMono f exp2R Ext.zero .pinf a
def fTanh (f : Fmt) (a : IV) : IvRes := fMono f tanhR extMinusOne extOne a

def fSqrt (f : Fmt) (a : IV) : IvRes := arith1 f (fun l h =>
  if h.sgn < 0 then emptyRes f
  else let l := Ext.max l Ext.zero
       packRB f (rdE f RVal.sqrt .ninf .pinf l) (ruE f RVal.sqrt .ninf .pinf h)) a
/-- log and log2: the pole at 0 gives −∞ with DZ (R91, R93). -/
def fLogOf (f : Fmt) (g : Q → RVal) (a : IV) : IvRes := arith1 f (fun l h =>
  if h.sgn ≤ 0 then emptyRes f
  else if l.sgn ≤ 0 then packRB f (rdX f .ninf) (ruE f g .ninf .pinf h) fDZ
  else packRB f (rdE f g .ninf .pinf l) (ruE f g .ninf .pinf h)) a
def fLog (f : Fmt) (a : IV) : IvRes := fLogOf f lnR a
def fLog2 (f : Fmt) (a : IV) : IvRes := fLogOf f log2R a
def fRsq (f : Fmt) (a : IV) : IvRes := arith1 f (fun l h =>
  if h.sgn ≤ 0 then emptyRes f
  else if l.sgn ≤ 0 then packRB f (rdE f RVal.rsqrt Ext.zero Ext.zero h) (ruX f .pinf) fDZ
  else packRB f (rdE f RVal.rsqrt Ext.zero Ext.zero h) (ruE f RVal.rsqrt Ext.zero Ext.zero l)) a

/-- Floats in numeric order. -/
def fpKey (f : Fmt) (b : Nat) : Int := if b < f.signBit then b else -((b - f.signBit : Nat) : Int)
/-- The lesser and the greater of two rounded bounds; of equal ones the exact one. -/
def rbMin (f : Fmt) (a b : RB) : RB :=
  if fpKey f a.bits < fpKey f b.bits then a else if fpKey f b.bits < fpKey f a.bits then b else if a.ix then b else a
def rbMax (f : Fmt) (a b : RB) : RB :=
  if fpKey f b.bits < fpKey f a.bits then a else if fpKey f a.bits < fpKey f b.bits then b else if a.ix then b else a

/-- 2x / π of an exact number, rounded down, and rounded up minus 1. -/
def quadOf (q : Q) : Int × Int :=
  if q.n = 0 then (0, -1)
  else if 0 < q.n then let j := quadrant q; (j, j)
  else let j := quadrant q.abs; (-j - 1, -j - 1)
/-- Some integer c with c ≡ m mod 4 lies in (a, b]. -/
def hitsQuad (a b m : Int) : Bool := decide (a < b - (b - m) % 4)
/-- sin and cos of an interval: the extreme is taken where the interval holds its place (R90, R91). -/
def fTrig (f : Fmt) (g : Q → RVal) (top bot : Int) (a : IV) : IvRes := arith1 f (fun l h =>
  match l, h with
  | .fin x, .fin y =>
    let ja := (quadOf x).2
    let jb := (quadOf y).1
    let lo := if hitsQuad ja jb bot then rdX f extMinusOne else rbMin f (rdR f (g x)) (rdR f (g y))
    let hi := if hitsQuad ja jb top then ruX f extOne else rbMax f (ruR f (g x)) (ruR f (g y))
    packRB f lo hi
  | _, _ => packRB f (rdX f extMinusOne) (ruX f extOne)) a
def fSin (f : Fmt) (a : IV) : IvRes := fTrig f sinR 1 3 a
def fCos (f : Fmt) (a : IV) : IvRes := fTrig f cosR 0 2 a

/-- A number written as a point; an infinity fills both halves (R233). -/
def pointRes (f : Fmt) (x : Ext) (fl : Flags := 0) : IvRes :=
  match x with
  | .ninf => ⟨f.infBits + f.signBit, f.infBits + f.signBit, fl⟩
  | .pinf => ⟨f.infBits, f.infBits, fl⟩
  | .fin q => let r := rnR f (RVal.ofQ q)
              if r.bits % f.signBit = 0 then ⟨f.signBit, 0, fl⟩ else ⟨r.bits, r.bits, fl⟩
/-- The exact value of rounded bits. -/
def rbVal (f : Fmt) (r : RB) : Ext := fpVal f r.bits
/-- FMID of a non-empty interval: the value, and the flags of its rounding (R93, R233). -/
def midOf (f : Fmt) (l h : Ext) : Q × Flags :=
  match l, h with
  | .ninf, .pinf => (Q.zero, 0)
  | .ninf, _ => ((maxFinite f).neg, 0)
  | _, .pinf => (maxFinite f, 0)
  | .fin a, .fin b =>
    let r := rnR f (RVal.ofQ (a.add b).half)
    (match rbVal f r with | .fin q => q | _ => maxFinite f, r.flags)
  | _, _ => (Q.zero, 0)
def fLo (f : Fmt) : IV → IvRes
  | .nai p => naiRes f p
  | .empty => pointRes f .pinf
  | .iv l _ => pointRes f l
def fHi (f : Fmt) : IV → IvRes
  | .nai p => naiRes f p
  | .empty => pointRes f .ninf
  | .iv _ h => pointRes f h
def fMid (f : Fmt) : IV → IvRes
  | .nai p => naiRes f p
  | .empty => naiRes f 0 fIV
  | .iv l h => let (m, fl) := midOf f l h; pointRes f (.fin m) fl
/-- A width or radius rounded up: OF and IX where a finite value becomes +∞ or changes. -/
def upPoint (f : Fmt) (q : Q) : IvRes :=
  let r := ruR f (RVal.ofQ q)
  pointRes f (rbVal f r) r.flags
def fRad (f : Fmt) : IV → IvRes
  | .nai p => naiRes f p
  | .empty => naiRes f 0 fIV
  | .iv l h =>
    match l, h with
    | .fin a, .fin b => let m := (midOf f l h).1; upPoint f (Q.max (m.sub a) (b.sub m))
    | _, _ => pointRes f .pinf
def fWid (f : Fmt) : IV → IvRes
  | .nai p => naiRes f p
  | .empty => naiRes f 0 fIV
  | .iv l h =>
    match l, h with
    | .fin a, .fin b => upPoint f (b.sub a)
    | _, _ => pointRes f .pinf
/-- FMAKE: the check on the new pair (R234). -/
def fMake (f : Fmt) (lo hi : Nat) : IvRes := let (x, fl) := readIv f lo hi; writeIv f x fl

/-- The split point of a non-empty interval, when it splits (R47). -/
def splitPoint (f : Fmt) (l h : Ext) : Option Ext :=
  let m : Ext := match l, h with
    | .fin a, .fin b =>
      let m := rnR f (RVal.ofQ (a.add b).half)
      let lb := (rdX f l).bits
      let hb := (ruX f h).bits
      let m1 := if Ext.le (fpVal f m.bits) l then nextUp f lb else m.bits
      let m2 := if Ext.le h (fpVal f m1) then nextDown f hb else m1
      fpVal f m2
    | .ninf, .pinf => Ext.zero
    | .ninf, .fin b => if 0 < b.n then Ext.zero else
        .fin (Q.max { b with e := b.e + 1 } (maxFinite f).neg)
    | .fin a, .pinf => if a.n < 0 then Ext.zero else .fin (Q.min { a with e := a.e + 1 } (maxFinite f))
    | _, _ => l
  if Ext.lt l m && Ext.lt m h then some m else none
/-- FBIS (R235). -/
def fBis (f : Fmt) : IV → IvRes × IvRes
  | .nai p => (naiRes f p, naiRes f p)
  | .empty => (emptyRes f, emptyRes f)
  | .iv l h =>
    match splitPoint f l h with
    | some m => (writeIv f (.iv l m), writeIv f (.iv m h))
    | none => (writeIv f (.iv l h), emptyRes f)

/-- The relations of an interval compare (R94). -/
inductive FRel where
  | lt | le | gt | ge | eq | ne | sub | inn | dis
  deriving DecidableEq, Repr
def triOf (t f : Bool) : Tri := if t then .t else if f then .f else .u
def triBool (b : Bool) : Tri := if b then .t else .f
def fRel (r : FRel) (a b : IV) : Tri :=
  match a, b with
  | .nai _, _ => .u
  | _, .nai _ => .u
  | .empty, _ => .f
  | _, .empty => .f
  | .iv al ah, .iv bl bh =>
    let apart := Ext.lt ah bl || Ext.lt bh al
    let same := Ext.eq al ah && Ext.eq bl bh && Ext.eq al bl
    match r with
    | .lt => triOf (Ext.lt ah bl) (Ext.le bh al)
    | .le => triOf (Ext.le ah bl) (Ext.lt bh al)
    | .gt => triOf (Ext.lt bh al) (Ext.le ah bl)
    | .ge => triOf (Ext.le bh al) (Ext.lt ah bl)
    | .eq => triOf same apart
    | .ne => triOf apart same
    | .sub => triBool (Ext.le bl al && Ext.le ah bh)
    | .inn => triBool ((Ext.lt bl al || bl == .ninf) && (Ext.lt ah bh || bh == .pinf))
    | .dis => triBool apart

/-- Kleene's logic (R95). -/
def tAnd : Tri → Tri → Tri
  | .f, _ => .f
  | _, .f => .f
  | .t, .t => .t
  | _, _ => .u
def tOr : Tri → Tri → Tri
  | .t, _ => .t
  | _, .t => .t
  | .f, .f => .f
  | _, _ => .u
def tNot : Tri → Tri
  | .t => .f
  | .f => .t
  | .u => .u
def tXor : Tri → Tri → Tri
  | .u, _ => .u
  | _, .u => .u
  | a, b => if a = b then .f else .t

/-- FCLASS of raw bits (R237). -/
def fClass (f : Fmt) (lo hi : Nat) : Nat :=
  let (x, fl) := readIv f lo hi
  let bit := fun (b : Bool) (k : Nat) => if b then 2 ^ k else 0
  let sub := fun (b : Nat) => let m := b % f.signBit; decide (m ≠ 0) && decide (m < 2 ^ f.fb)
  match x with
  | .nai _ => bit true 0 + bit (fl == fIV) 10
  | .empty => 2
  | .iv l h =>
    bit (l == .ninf && h == .pinf) 2 + bit (Ext.eq l h) 3 + bit (decide (l.sgn ≤ 0) && decide (0 ≤ h.sgn)) 4 +
    bit (decide (l.sgn < 0) && decide (0 < h.sgn)) 5 + bit (l == .ninf) 6 + bit (h == .pinf) 7 +
    bit (decide (0 < l.sgn)) 8 + bit (decide (h.sgn < 0)) 9 + bit (sub lo) 11 + bit (sub hi) 12

/-- The integer types of R96: width and signedness of a TYPE code (R239). -/
def itypeW (t : Nat) : Nat := 2 ^ (t % 4 + 3)
def itypeSigned (t : Nat) : Bool := decide (t < 4)
def itypeMin (t : Nat) : Int := if itypeSigned t then -(2 ^ (itypeW t - 1) : Int) else 0
def itypeMax (t : Nat) : Int := if itypeSigned t then 2 ^ (itypeW t - 1) - 1 else 2 ^ itypeW t - 1
/-- cvti of R96: sel 0 LO, 1 HI, 2 MID. -/
def cvti (x : IV) (sel t : Nat) : Int × Flags :=
  let lo := itypeMin t
  let hi := itypeMax t
  let fin := fun (n : Int) (exact : Bool) =>
    if n < lo then (lo, fIV) else if hi < n then (hi, fIV) else (n, flagIf (!exact) fIX)
  match x with
  | .nai _ => (lo, fIV)
  | .empty => (lo, fIV)
  | .iv l h =>
    match sel with
    | 0 => match l with | .fin q => fin q.floor q.isInt | _ => (lo, fIV)
    | 1 => match h with | .fin q => fin q.ceil q.isInt | _ => (hi, fIV)
    | _ =>
      match l, h with
      | .fin a, .fin b => let m := (a.add b).half; fin m.nearest m.isInt
      | .ninf, .pinf => (0, fIV)
      | .ninf, _ => (lo, fIV)
      | _, _ => (hi, fIV)
/-- The register bits of an integer result of a type: 8- and 16-bit results are extended to 32 bits (R96). -/
def itypeBits (t : Nat) (n : Int) : Word :=
  if itypeW t = 64 then BitVec.ofInt 64 n else (BitVec.ofInt 32 n).zeroExtend 64
/-- The integer a CVFI source holds (R240). -/
def itypeRead (t : Nat) (v : Word) : Int :=
  let w := itypeW t
  let u := v.toNat % 2 ^ w
  if itypeSigned t && decide (2 ^ (w - 1) ≤ u) then (u : Int) - 2 ^ w else u
/-- An integer as an interval (R97). -/
def cvfi (f : Fmt) (n : Int) : IvRes := writeIv f (IV.point (Q.ofInt n))

/-- The midpoint of an MRW as an exact number, and its ulp (R98). -/
def mrwMid (w : Nat) : Q :=
  let ms : Nat := w / 2 ^ 31 % 2
  let me : Nat := w / 2 ^ 23 % 256
  let mf : Nat := w / 2 ^ 8 % 2 ^ 15
  let mag : Int := ((if me = 0 then mf else 2 ^ 15 + mf : Nat) : Int)
  let e : Int := (if me = 0 then 1 else (me : Int)) - 127 - 15
  ⟨if ms = 1 then -mag else mag, 1, e⟩
def mrwUlp (me : Nat) : Q := Q.pow2 ((if me = 0 then 1 else (me : Int)) - 127 - 15)
/-- The radius of a code in ulps (R98). -/
def mrwRad (rho : Nat) (ulp : Q) : Q :=
  if rho < 128 then (Q.ofInt rho).mul ulp else (Q.pow2 ((rho : Int) - 128 + 7)).mul ulp
/-- load_mrw of R99; where an F64 bound of a large radius needs more than 53 bits, the rounding of its pseudocode stands,
though its last sentence calls F64 loads exact (DESIGN CHOICE, log 74). -/
def loadMrw (f : Fmt) (w : Nat) : IvRes :=
  let ms : Nat := w / 2 ^ 31 % 2
  let me : Nat := w / 2 ^ 23 % 256
  let mf : Nat := w / 2 ^ 8 % 2 ^ 15
  let rho : Nat := w % 256
  if me = 255 then
    if mf = 0x7FFF && ms = 0 && rho = 0 then emptyRes f
    else if mf ≠ 0 then naiRes f 0
    else naiRes f 0 fIV
  else if rho = 255 then writeIv f IV.entire
  else
    let mid := mrwMid w
    let rad := mrwRad rho (mrwUlp me)
    writeIv f (.iv (.fin (mid.sub rad)) (.fin (mid.add rad)))
/-- The smallest radius code from k on that reaches a need, else 255. -/
def rhoLoop (need ulp : Q) : Nat → Nat → Nat
  | 0, _ => 255
  | fuel + 1, k => if 254 < k then 255 else if Q.le need (mrwRad k ulp) then k else rhoLoop need ulp fuel (k + 1)
/-- store_mrw of R100: the word and its flags. -/
def storeMrw (x : IV) : Nat × Flags :=
  match x with
  | .nai _ => (0x7FC00000, 0)
  | .empty => (0x7FFFFF00, 0)
  | .iv l h =>
    match l, h with
    | .fin a, .fin b =>
      let c := (a.add b).half
      let r := rnR f24 (RVal.ofQ c)
      let bits := if f24.infBits ≤ r.bits % f24.signBit then r.bits - 1 else r.bits
      let bits := if bits % f24.signBit = 0 then 0 else bits
      let w0 := bits * 256
      let mid := mrwMid w0
      let ulp := mrwUlp (w0 / 2 ^ 23 % 256)
      let need := Q.max (mid.sub a) (b.sub mid)
      let rho := rhoLoop need ulp 255 0
      let rad := mrwRad rho ulp
      let wider := rho = 255 || Q.lt (mid.sub rad) a || Q.lt b (mid.add rad)
      (w0 + rho, flagIf wider fIX)
    | _, _ => (0xFF, flagIf (!(l == .ninf && h == .pinf)) fIX)

/-- A bound pair of format g read and written in format f: widening is exact, narrowing rounds outward (R83). -/
def cvtPair (g f : Fmt) (lo hi : Nat) : IvRes := let (x, fl) := readIv g lo hi; let r := writeIv f x; { r with fl := r.fl ||| fl }

end Sys2Proof.Machine
end

