-- ==== Sys2Proof/Machine/Narrow.lean ====
section
/-! DEFINITION. Narrow elements, block scales, codebooks, bit planes, block quantisation, and the alignment and
enclosure of matrix operands (R101 to R114). -/
namespace Sys2Proof.Machine

/-- A float element kind: bits, exponent bits, fraction bits, bias, largest finite code (R101). -/
structure Kind where
  b : Nat
  eb : Nat
  mb : Nat
  bias : Int
  maxCode : Nat
  inf : Bool
  deriving DecidableEq, Repr
def kindOf (k : Nat) : Kind :=
  match k with
  | 0 => ⟨8, 4, 3, 7, 0x7F, false⟩
  | 1 => ⟨8, 5, 2, 15, 0x7B, true⟩
  | 2 => ⟨6, 3, 2, 3, 0x1F, false⟩
  | 3 => ⟨6, 2, 3, 1, 0x1F, false⟩
  | 4 => ⟨4, 2, 1, 1, 0x7, false⟩
  | _ => ⟨4, 0, 0, 0, 0, false⟩
/-- KIND 5 is CB4 (R115, R255). -/
def isCB4 (k : Nat) : Bool := k == 5
/-- Bytes of a block of 32 (R102). -/
def blockBytes (k : Nat) : Nat := (kindOf k).b * 4
/-- Bits [b·i + b − 1 : b·i] of a little-endian byte string (R102). -/
def elemBits (bytes : List Byte) (b i : Nat) : Nat :=
  let lo := b * i
  let byte := fun n => ((bytes.drop n).headD 0).toNat
  let two := byte (lo / 8) + 256 * byte (lo / 8 + 1)
  two / 2 ^ (lo % 8) % 2 ^ b

/-- What an element is before its scale. -/
inductive Elem where
  | fin (q : Q) (isMax : Bool)
  | inf (neg : Bool)
  | nan (payload : Nat)
  deriving DecidableEq, Repr
/-- Decoding of a float element (R101). -/
def decodeElem (k : Kind) (c : Nat) : Elem :=
  let neg := decide (2 ^ (k.b - 1) ≤ c)
  let m := c % 2 ^ (k.b - 1)
  let ex := m / 2 ^ k.mb
  let fr := m % 2 ^ k.mb
  if k.inf && ex == 2 ^ k.eb - 1 then (if fr = 0 then .inf neg else .nan 0)
  else
    let mag : Nat := if ex = 0 then fr else 2 ^ k.mb + fr
    let e : Int := (if ex = 0 then 1 else (ex : Int)) - k.bias - k.mb
    .fin ⟨if neg then -(mag : Int) else mag, 1, e⟩ (m == k.maxCode)
/-- A codebook entry (R106). -/
def decodeCb (cbt : List (BitVec 16)) (c : Nat) : Elem :=
  match fpRead bf16 (((cbt.drop c).headD 0).toNat) with
  | .nan _ p => .nan p
  | .val (.fin q) => .fin q false
  | .val .ninf => .inf true
  | .val .pinf => .inf false
/-- An element of a block kind, CB4 included. -/
def blockElem (k : Nat) (cbt : List (BitVec 16)) (c : Nat) : Elem :=
  if isCB4 k then decodeCb cbt c else decodeElem (kindOf k) c
/-- The exponent of a scale byte (R103). -/
def scaleExp (s : Nat) : Int := (s % 128 : Nat) - 63
def qScale (q : Q) (e : Int) : Q := { q with e := q.e + e }
/-- The load of R104 and R106. -/
def loadElem (f : Fmt) (k : Nat) (cbt : List (BitVec 16)) (scale c : Nat) : IvRes :=
  if scale = 0x7F then writeIv f (IV.point Q.zero)
  else if scale = 0xFF then naiRes f 0
  else
    let e := scaleExp scale
    let sat := decide (128 ≤ scale) && !isCB4 k
    let mx := (match decodeElem (kindOf k) (kindOf k).maxCode with | .fin q _ => q | _ => Q.zero)
    let mxs := qScale mx e
    match blockElem k cbt c with
    | .nan p => if isCB4 k then naiRes f p else naiRes f 0
    | .inf neg =>
      if isCB4 k then naiRes f 0 fIV
      else if neg then writeIv f (.iv .ninf (.fin mxs.neg)) else writeIv f (.iv (.fin mxs) .pinf)
    | .fin q isMax =>
      let x := qScale q e
      if sat && isMax then (if q.n < 0 then writeIv f (.iv .ninf (.fin x)) else writeIv f (.iv (.fin x) .pinf))
      else writeIv f (IV.point x)
/-- CBX (R106, R241). -/
def cbExpand (f : Fmt) (cbt : List (BitVec 16)) (c : Nat) : IvRes :=
  match decodeCb cbt c with
  | .nan p => naiRes f p
  | .inf _ => naiRes f 0 fIV
  | .fin q _ => writeIv f (IV.point q)

/-- The finite entries of a codebook with their indices. -/
def cbFinite (cbt : List (BitVec 16)) : List (Nat × Q) :=
  (List.range 16).filterMap fun i => match decodeCb cbt i with | .fin q _ => some (i, q) | _ => none
/-- The index of the finite entry nearest a value, a tie to the lower index (R107); of an infinity, from which every entry is
equally far, the largest or smallest entry (DESIGN CHOICE, log 93). -/
def cbNearest (cbt : List (BitVec 16)) (v : Ext) : Option (Nat × Q) :=
  (cbFinite cbt).foldl (fun best c =>
    match best with
    | none => some c
    | some b =>
      let closer := match v with
        | .fin x => Q.lt (x.sub c.2).abs (x.sub b.2).abs
        | .pinf => Q.lt b.2 c.2
        | .ninf => Q.lt c.2 b.2
      if closer then some c else some b) none
/-- The midpoint of a bounded or half-unbounded interval (R107). -/
def cbMid (l h : Ext) : Ext :=
  match l, h with
  | .fin a, .fin b => .fin (a.add b).half
  | .ninf, _ => .ninf
  | _, _ => .pinf
/-- CBQ (R107). -/
def cbQuant (cbt : List (BitVec 16)) (x : IV) : Nat × Flags :=
  match x with
  | .iv l h =>
    if l == .ninf && h == .pinf then (0, fIV)
    else
      match cbNearest cbt (cbMid l h) with
      | none => (0, fIV)
      | some (c, q) => (c, flagIf (!(Ext.eq l (.fin q) && Ext.eq h (.fin q))) fIX)
  | _ => (0, fIV)

/-- rn_kind: the nearest code of a float kind, ties to even fraction, saturated; the +0 code for a zero. A value above the
largest counts as saturated only where it does not round to the largest (R105 does not say: DESIGN CHOICE, log 92). -/
def quantElem (k : Kind) (q : Q) : Nat × Bool :=
  let n := q.n.natAbs
  if n = 0 then (0, false)
  else
    let ex := floorLog2 n q.d q.e
    let u := max ex (1 - k.bias) - k.mb
    let m := (qScale q.abs (-u)).nearest.toNat
    let code := (u - (1 - k.bias - k.mb)).toNat * 2 ^ k.mb + m
    let (code, s) := if k.maxCode < code then (k.maxCode, true) else (code, false)
    (if code = 0 then 0 else if q.n < 0 then code + 2 ^ (k.b - 1) else code, s)
/-- The least e with M ≤ max · 2^e. -/
def ceilLog2Div (m mx : Q) : Int :=
  let r := m.div mx
  let k := floorLog2 r.n.natAbs r.d r.e
  if r.eq (Q.pow2 k) then k else k + 1

/-- The result of quantising a block: scale byte, one code a position, flags. -/
structure QBlock where
  scale : Nat
  codes : List Nat
  fl : Flags
  deriving DecidableEq, Repr
/-- R105 on the checked sources of one block; `fv` is the free value that stands for the scale of a CB4 block over a
codebook without a nonzero finite entry, which R105 does not state (log 16). -/
def quantBlock (k : Nat) (cbt : List (BitVec 16)) (fv : Nat) (xs : List IV) : QBlock :=
  let zeros := xs.map fun _ => 0
  let bad := xs.any fun x => match x with
    | .iv l h => l == .ninf && h == .pinf
    | _ => true
  let notPoint := xs.any fun x => match x with | .iv l h => !Ext.eq l h | _ => false
  if bad then ⟨0xFF, zeros, fIV⟩
  else
    let mids := xs.map fun x => match x with | .iv (.fin a) (.fin b) => some (a.add b).half | _ => none
    let m := mids.foldl (fun m x => match x with | some q => Q.max m q.abs | none => m) Q.zero
    let sat := mids.any fun x => x == none
    let kd := kindOf k
    let mx : Q := if isCB4 k then (cbFinite cbt).foldl (fun m c => Q.max m c.2.abs) Q.zero
      else match decodeElem kd kd.maxCode with | .fin q _ => q | _ => Q.zero
    if m.isZero && !sat then ⟨0x7F, zeros, flagIf notPoint fIX⟩
    else
      let e := if m.isZero then 0 else if mx.isZero then (fv % 127 : Nat) - (63 : Int) else ceilLog2Div m mx
      if e < -63 then ⟨0x7F, zeros, fUF ||| fIX⟩
      else
        let tooBig := decide (63 < e)
        let e := if tooBig then 63 else e
        let sat := sat || tooBig
        -- code, IX, UF and saturation of each position
        let one := fun (x : IV) =>
          match x with
          | .iv l h =>
            if isCB4 k then
              let v := match cbMid l h with | .fin q => Ext.fin (qScale q (-e)) | y => y
              match cbNearest cbt v with
              | none => (0, fIV, false)
              | some (c, q) =>
                let back := Ext.fin (qScale q e)
                (c, flagIf (!(Ext.eq l back && Ext.eq h back)) fIX |||
                  flagIf (q.isZero && (match cbMid l h with | .fin y => !y.isZero | _ => false)) fUF, false)
            else
              match l, h with
              | .fin a, .fin b =>
                let mid := (a.add b).half
                let (c, s) := quantElem kd (qScale mid (-e))
                let back := match decodeElem kd c with | .fin q _ => Ext.fin (qScale q e) | _ => Ext.zero
                (c, flagIf (!(Ext.eq l back && Ext.eq h back)) fIX ||| flagIf (c == 0 && !mid.isZero) fUF, s)
              | _, .pinf => (if kd.inf then 0x7C else kd.maxCode, fIX, false)
              | _, _ => (if kd.inf then 0xFC else kd.maxCode + 2 ^ (kd.b - 1), fIX, false)
          | _ => (0, 0, false)
        let rs := xs.map one
        let anySat := rs.any fun r => r.2.2
        let satBit := (sat && !kd.inf) || anySat
        let fl := rs.foldl (fun f r => f ||| r.2.1) 0
        ⟨(if satBit then 128 else 0) + (e + 63).toNat, rs.map fun r => r.1, fl ||| flagIf (tooBig || satBit) fOF⟩

/-- The packed bytes of a list of codes of b bits (R102). -/
def packCodes (b : Nat) (codes : List Nat) : List Byte :=
  let n := (codes.zipIdx).foldl (fun acc c => acc + (c.1 % 2 ^ b) * 2 ^ (b * c.2)) 0
  (List.range (codes.length * b / 8)).map fun i => BitVec.ofNat 8 (n / 2 ^ (8 * i))

/-! Matrix operands. Kinds of R115: 0 to 5 block kinds, 6 NP, 7 I8, 8 N8. -/

/-- The aligned width (R109). -/
def alignedWidth (kind planes : Nat) : Nat :=
  match kind with
  | 0 => 8 | 1 => 8 | 2 => 6 | 3 => 6 | 4 => 5 | 5 => 8 | 6 => planes | _ => 8

/-- A matrix element: a value, a NaI input, or a saturated input (R110, R113). -/
inductive MElem where
  | val (q : Q)
  | nai
  | sat
  deriving DecidableEq, Repr
/-- The matrix reading of a block element; a scaled CB4 value is exact, also outside the range of F32 (R110; DESIGN CHOICE,
log 75). -/
def matElem (k : Nat) (cb : List (BitVec 16)) (scale c : Nat) : MElem :=
  if scale = 0x7F then .val Q.zero
  else if scale = 0xFF then .nai
  else
    match blockElem k cb c with
    | .nan _ => .nai
    | .inf _ => if isCB4 k then .nai else .sat
    | .fin q isMax => if decide (128 ≤ scale) && isMax && !isCB4 k then .sat else .val (qScale q (scaleExp scale))
/-- The finite value of an element. An infinite or saturating one enters the alignment of its block as 0: it is in no bound,
no exponent and no integer of the block, takes no outlier slot and is not clamped (R110 and R112 do not say: DESIGN CHOICE,
log 94). -/
def MElem.q : MElem → Q
  | .val q => q
  | _ => Q.zero
/-- trunc of an exact number. -/
def Q.trunc (x : Q) : Int := if x.n < 0 then -(x.neg.floor) else x.floor

/-- Directed rounding in F32 (R113). -/
def up32 (x : Ext) : Ext := rbVal f32 (ruX f32 x)
def dn32 (x : Ext) : Ext := rbVal f32 (rdX f32 x)
/-- Exact sum of a list. -/
def qsum (l : List Q) : Q := l.foldl Q.add Q.zero

/-- One aligned K block of a column of B (R110): the aligned integers, the grid step, E_B, D_j, 2^X_B, and the sums. -/
structure BBlk where
  beta : List Int
  u : Q
  eB : Q
  dj : Q
  xpow : Q
  sB : Ext
  pB : Ext
  nB : Ext
  deriving DecidableEq, Repr
/-- The sums that follow from β, u and D (R110). -/
def bSums (beta : List Int) (u dj : Q) : Ext × Ext × Ext :=
  let vals := beta.map fun b => (Q.ofInt b).mul u
  (up32 (.fin (qsum (vals.map fun v => Q.max v.abs (v.add dj).abs))),
   up32 (.fin (qsum (vals.map fun v => Q.max v Q.zero))),
   dn32 (.fin (qsum (vals.map fun v => Q.min v Q.zero))))
/-- The smallest X with every number of a list below 2^X in magnitude, none when all are 0. -/
def topExp (l : List Q) : Option Int :=
  let m := l.foldl (fun m q => Q.max m q.abs) Q.zero
  if m.isZero then none else some (floorLog2 m.n.natAbs m.d m.e + 1)
/-- Builds a block from β, u, E and D; a zero block adds nothing (R110). `xb` is X_B where it is kept. -/
def mkBBlk (beta : List Int) (u eB dj : Q) (xb : Option Int) : BBlk :=
  let zero := beta.all (· == 0) && dj.isZero
  let (s, p, n) := bSums beta u dj
  { beta := beta, u := u, eB := eB, dj := dj,
    xpow := if zero then Q.zero else match xb with | some x => Q.pow2 x | none => Q.zero,
    sB := s, pB := p, nB := n }
/-- A block of a floating or CB4 column. -/
def alignB (w : Nat) (vals : List Q) : List Int × Option Int × Bool :=
  match topExp vals with
  | none => (vals.map fun _ => 0, none, false)
  | some x =>
    let u := Q.pow2 (x - (w - 1 : Nat))
    let beta := vals.map fun b => Q.trunc (b.div u)
    (beta, some x, (vals.zip beta).any fun p => !(p.1.eq ((Q.ofInt p.2).mul u)))
/-- X_B of an NP, I8 or N8 block (R110). -/
def intXB (beta : List Int) (u dj : Q) : Option Int :=
  topExp (beta.flatMap fun b => let v := (Q.ofInt b).mul u; [v, v.add dj])

/-- One aligned K block of a row of A (R111, R112): aligned integers with clamped outliers in place, slotted outliers
by position, the exact clamp error sum, and the sums. -/
structure ABlk where
  alpha : List Int
  u : Q
  eA : Q
  dA : Q
  slotted : List (Nat × Q)
  clamp : Q
  nclamp : Nat
  sA : Ext
  pA : Ext
  nA : Ext
  deriving DecidableEq, Repr
/-- The sums over every element (R111). -/
def aSums (lohi : List (Q × Q)) : Ext × Ext × Ext :=
  (up32 (.fin (qsum (lohi.map fun p => Q.max p.1.abs p.2.abs))),
   up32 (.fin (qsum (lohi.map fun p => Q.max p.2 Q.zero))),
   dn32 (.fin (qsum (lohi.map fun p => Q.min p.1 Q.zero))))
/-- A floating or CB4 block: `e` is e_blk, `left` the outlier slots left in the row (R111, R112). -/
def alignA (a : Nat) (atop : Nat) (e : Int) (left : Nat) (vals : List Q) : ABlk :=
  let u := Q.pow2 (e + atop - (a - 1 : Nat))
  let lim := Q.pow2 (e + atop)
  let top : Int := 2 ^ (a - 1) - 1
  let step := fun (acc : List Int × List (Nat × Q) × Q × Nat × Bool) (x : Q × Nat) =>
    let (al, sl, c, n, ix) := acc
    let v := x.1
    if Q.le lim v.abs then
      if sl.length < left then (al ++ [0], sl ++ [(x.2, v)], c, n, ix)
      else (al ++ [if v.n < 0 then -top else top], sl, c.add (v.abs.sub ((Q.ofInt top).mul u)), n + 1, ix)
    else
      let t := Q.trunc (v.div u)
      (al ++ [t], sl, c, n, ix || !(v.eq ((Q.ofInt t).mul u)))
  let (al, sl, c, n, ix) := vals.zipIdx.foldl step ([], [], Q.zero, 0, false)
  let (s, p, ng) := aSums (vals.map fun v => (v, v))
  { alpha := al, u := u, eA := if ix then u else Q.zero, dA := Q.zero, slotted := sl, clamp := c, nclamp := n,
    sA := s, pA := p, nA := ng }
/-- An I8, N8 or NPk block. -/
def intABlk (alpha : List Int) (u dA : Q) : ABlk :=
  let (s, p, n) := aSums (alpha.map fun t => let v := (Q.ofInt t).mul u; (v, v.add dA))
  { alpha := alpha, u := u, eA := Q.zero, dA := dA, slotted := [], clamp := Q.zero, nclamp := 0,
    sA := s, pA := p, nA := n }

/-- The running sums of one output (R113). -/
structure MAcc where
  t : Q
  rs : Ext
  l : Ext
  h : Ext
  deriving DecidableEq, Repr
/-- Products and sums of Rs, L and H, each rounded outward (R113). -/
def addUp (x y : Ext) : Ext := up32 (x.add y)
def addDn (x y : Ext) : Ext := dn32 (x.add y)
def mulUp (x y : Ext) : Ext := up32 (x.mul y)
def mulDn (x y : Ext) : Ext := dn32 (x.mul y)
/-- The exact part of a block. -/
def blkT (a : ABlk) (b : BBlk) : Q :=
  let dot := (a.alpha.zip b.beta).foldl (fun s p => s + p.1 * p.2) 0
  let base := ((Q.ofInt dot).mul a.u).mul b.u
  a.slotted.foldl (fun t o => t.add ((o.2.mul (Q.ofInt ((b.beta.drop o.1).headD 0))).mul b.u)) base
/-- One K block of an output, in the order of R113. -/
def accBlk (rho : Option Ext) (m : MAcc) (p : ABlk × BBlk) : MAcc :=
  let (a, b) := p
  let eA := Ext.fin a.eA
  let eB := Ext.fin b.eB
  let rs := addUp (addUp (addUp m.rs (mulUp a.sA eB)) (mulUp b.sB eA)) (mulUp (mulUp (.fin (Q.ofInt 64)) eA) eB)
  let rs := addUp rs (mulUp (up32 (.fin a.clamp)) (.fin b.xpow))
  let rs := match rho with | some r => addUp rs (mulUp r b.sB) | none => rs
  let dj := Ext.fin b.dj
  let dA := Ext.fin a.dA
  { t := m.t.add (blkT a b), rs := rs,
    l := addDn (addDn m.l (mulDn a.nA dj)) (mulDn dA b.nB),
    h := addUp (addUp m.h (mulUp a.pA dj)) (mulUp dA b.pB) }
/-- One output of a float accumulation: the new entry bits (R113). An infinite accumulator bound stays infinite. -/
def floatOut (lo hi : Nat) (m : MAcc) : Nat × Nat :=
  let cl := fpVal f32 lo
  let ch := fpVal f32 hi
  let s (c : Ext) (x : Ext) : Ext := if c.isFin then (c.add (.fin m.t)).add x else c
  let nl := if cl.isFin then rdX f32 ((s cl m.rs.neg).add m.l) else rdX f32 cl
  let nh := if ch.isFin then ruX f32 ((s ch m.rs).add m.h) else ruX f32 ch
  let r := packRB f32 nl nh
  (r.lo, r.hi)
/-- The exact one-sided parts of an integer block (R114). -/
def intLH (a : ABlk) (b : BBlk) : Q × Q :=
  let av := a.alpha.map fun t => (Q.ofInt t).mul a.u
  let bv := b.beta.map fun t => (Q.ofInt t).mul b.u
  let neg := fun (l : List Q) => qsum (l.map fun v => Q.min v Q.zero)
  let pos := fun (l : List Q) => qsum (l.map fun v => Q.max v Q.zero)
  (((neg av).mul b.dj).add (a.dA.mul (neg bv)),
   ((pos (av.map fun v => v.add a.dA)).mul b.dj).add (a.dA.mul (pos bv)))
/-- Clamping to I32: the value and whether it was clamped. -/
def clampI32 (x : Int) : Int × Bool :=
  if x < -(2 ^ 31) then (-(2 ^ 31), true) else if 2 ^ 31 - 1 < x then (2 ^ 31 - 1, true) else (x, false)

end Sys2Proof.Machine
end

