-- ==== Sys2Proof/Machine/Operands.lean ====
section
/-! DEFINITION. Operand forms: register names through the window, lanes and masks, predicates, interval operands, and
what a read sees of results still in flight (R62 to R71, R176, R177, R182, R183). -/
namespace Sys2Proof.Machine

/-- Lanes of a mask in ascending order. -/
def lanesOf (w : Nat) (m : Mask) : List Nat := (List.range w).filter fun l => m.getLsbD l
/-- The active lanes of a team, helpers included (R17). -/
def activeLanes (t : Team) : List Nat := lanesOf t.width t.mask
/-- The active lanes that are not helpers. -/
def liveActive (t : Team) : List Nat := (activeLanes t).filter fun l => t.live.getLsbD l
/-- Vacant lanes hold neither a live lane nor a helper (R15). -/
def occupied (t : Team) : Mask := t.live ||| t.helper
/-- Mask word j (R19). -/
def maskWord (m : Mask) (j : Nat) : BitVec 32 := (m >>> (32 * j)).setWidth 32
/-- Mask words whose summary bit is 1, ascending (R19, R20). -/
def activeWords (t : Team) : List Nat := (List.range 32).filter fun j => maskWord t.mask j != 0
/-- The summary (R19). -/
def summary (t : Team) : BitVec 32 := BitVec.ofNat 32 ((activeWords t).foldl (fun a j => a + 2 ^ j) 0)
/-- The mask of lanes below a width. -/
def widthMask (w : Nat) : Mask := BitVec.ofNat 1024 (2 ^ w - 1)

/-- The number of a register within its class. -/
def regNum (r : Reg) : Nat := if isV r then r.toNat else if isS r then r.toNat - 96 else r.toNat - 112
/-- The architectural number of vn under a window base of wb · 32 (R63). -/
def aReg (t : Team) (r : Reg) : Nat := 32 * t.wb + r.toNat
/-- Key of a vector register in a lane; scalar registers are keyed by number. -/
def vKey (areg lane : Nat) : Nat := areg * 1024 + lane

/-- What a pass at a cycle sees of a register: in a metered context, the result of a core-local engine of an earlier
run that is due (R183). -/
def seenInflight (t : Team) (scalar : Bool) (key c : Nat) : Option Word :=
  if !t.metered then none
  else
    (t.inflight.filterMap fun f =>
      if f.exact && f.run != t.run then
        ((if scalar then f.sw else f.vw).find? fun w => w.key == key && decide (w.due ≤ c)).map (·.val)
      else none).getLast?
/-- A register of a lane as a pass at cycle c reads it (R62, R70). -/
def readReg (t : Team) (c lane : Nat) (r : Reg) : Word :=
  if isV r then let k := vKey (aReg t r) lane; (seenInflight t false k c).getD (tget 0 t.v k)
  else if isS r then let k := regNum r; (seenInflight t true k c).getD (tget 0 t.s k)
  else tget 0 t.t (vKey (regNum r) lane)
/-- The odd register of a pair (R70). -/
def nextReg (r : Reg) : Reg := r + 1
/-- Both registers of an F64 operand. -/
def pairRegs (w : Bool) (r : Reg) : List Reg := if w then [r, nextReg r] else [r]
/-- A register value at width w (R197). -/
def readW (t : Team) (c lane : Nat) (w : Bool) (r : Reg) : Nat :=
  let v := (readReg t c lane r).toNat; if w then v else v % 2 ^ 32
/-- The bits of an interval operand: one register for F32, a pair for F64 (R70). -/
def readPairBits (t : Team) (c lane : Nat) (w : Bool) (r : Reg) : Nat × Nat :=
  let x := (readReg t c lane r).toNat
  if w then (x, (readReg t c lane (nextReg r)).toNat) else (x % 2 ^ 32, x / 2 ^ 32)
/-- The format of a precision bit. -/
def fmtOf (w : Bool) : Fmt := if w then f64 else f32
/-- An interval operand through R87. -/
def readIvReg (t : Team) (c lane : Nat) (w : Bool) (r : Reg) : IV × Flags :=
  let (lo, hi) := readPairBits t c lane w r; readIv (fmtOf w) lo hi
/-- A predicate field of a lane, fl bits included (R72, R176). -/
def readPred (t : Team) (lane : Nat) (r : Reg) : Tri :=
  if r < 32 then tget .f t.p (r.toNat * 1024 + lane)
  else triBool ((tget 0 t.fl lane).getLsbD (r.toNat - 32))

/-- Every register operand is an s register (R176). -/
def allScalar (rs : List Reg) : Bool := rs.all isS

/-- Registers written by one word: key and value, scalar and vector and temporary apart. -/
structure RegW where
  v : List (Nat × Word) := []
  s : List (Nat × Word) := []
  t : List (Nat × Word) := []
  deriving DecidableEq, Repr
def RegW.append (a b : RegW) : RegW := ⟨a.v ++ b.v, a.s ++ b.s, a.t ++ b.t⟩
/-- One write of a register in a lane. -/
def regW (t : Team) (lane : Nat) (r : Reg) (x : Word) : RegW :=
  if isV r then { v := [(vKey (aReg t r) lane, x)] }
  else if isS r then { s := [(regNum r, x)] }
  else { t := [(vKey (regNum r) lane, x)] }
/-- The register bits of an interval result (R70). -/
def ivW (t : Team) (lane : Nat) (w : Bool) (r : Reg) (x : IvRes) : RegW :=
  if w then (regW t lane r (BitVec.ofNat 64 x.lo)).append (regW t lane (nextReg r) (BitVec.ofNat 64 x.hi))
  else regW t lane r (BitVec.ofNat 64 (x.lo + x.hi * 2 ^ 32))
/-- A result of width w clears the upper half at .32 (R197). -/
def wRes (w : Bool) (x : Nat) : Word := BitVec.ofNat 64 (if w then x else x % 2 ^ 32)

/-- A later write of the same register prevails over a result in flight (R64). -/
def cancelInflight (t : Team) (vk sk : List Nat) : Team :=
  if t.inflight.isEmpty then t
  else { t with inflight := t.inflight.map fun f =>
    { f with vw := f.vw.filter (fun w => !vk.contains w.key), sw := f.sw.filter (fun w => !sk.contains w.key) } }
/-- The physical register a write allocates: a new version where a waymark names the present one; the whole word is in
the physical file again (R65, R66, R67). -/
def allocKey (names : List Nat) (m : Tab PhysReg) (k stamp ver : Nat) : Tab PhysReg :=
  match tget? m k with
  | some p => if names.contains p.ver then tput m k ⟨ver, stamp, false⟩ else tput m k { p with stamp := stamp, spilled := false }
  | none => tput m k ⟨ver, stamp, false⟩
/-- Versions that a waymark of an uncommitted region names. -/
def namedVers (t : Team) : List Nat :=
  t.regions.flatMap fun r => (r.wm.alloc.map fun x => x.2.ver) ++ (r.wm.salloc.map fun x => x.2.ver)
/-- Notes the physical registers of written registers, one for each mask word of a vector register (R65). -/
def noteAlloc (t : Team) (w : RegW) : Team :=
  let names := namedVers t
  let words := distinct (w.v.map fun x => x.1 / 1024 * 32 + x.1 % 1024 / 32)
  let ss := distinct (w.s.map (·.1))
  { t with alloc := words.zipIdx.foldl (fun m k => allocKey names m k.1 t.clk (t.nextVer + k.2)) t.alloc,
           salloc := ss.zipIdx.foldl (fun m k => allocKey names m k.1 t.clk (t.nextVer + words.length + k.2)) t.salloc,
           nextVer := t.nextVer + words.length + ss.length }
/-- Writes registers (R64, R65). -/
def writeRegs (t : Team) (w : RegW) : Team :=
  let t := noteAlloc (cancelInflight t (w.v.map (·.1)) (w.s.map (·.1))) w
  { t with v := tsetAll 0 t.v w.v, s := tsetAll 0 t.s w.s, t := tsetAll 0 t.t w.t }
/-- Writes a predicate in lanes. -/
def writePreds (t : Team) (ws : List (Nat × Nat × Tri)) : Team :=
  { t with p := tsetAll .f t.p (ws.map fun x => (x.1 * 1024 + x.2.1, x.2.2)) }
/-- Raises flags in lanes; flags are sticky (R72). -/
def raiseFlags (t : Team) (ws : List (Nat × Flags)) : Team :=
  { t with fl := ws.foldl (fun m x => tset 0 m x.1 (tget 0 m x.1 ||| x.2)) t.fl }

/-- What one lane of a word does. -/
structure LaneRes where
  w : RegW := {}
  p : List (Nat × Tri) := []
  fl : Flags := 0
  deriving DecidableEq, Repr
/-- Applies the results of the lanes of a word; every lane has read its sources before (R225). -/
def applyLanes (t : Team) (rs : List (Nat × LaneRes)) : Team :=
  let w := rs.foldl (fun a r => a.append r.2.w) ({} : RegW)
  let t := writeRegs t w
  let t := writePreds t (rs.flatMap fun r => r.2.p.map fun x => (x.1, r.1, x.2))
  raiseFlags t ((rs.filter fun r => r.2.fl != 0).map fun r => (r.1, r.2.fl))

/-- Passes of a word: mask word and first cycle of each, the last pass's cycle, and the cycle after the last ends. -/
structure Passes where
  at_ : List (Nat × Nat)
  last : Nat
  fin : Nat
  deriving DecidableEq, Repr
def passLoop (ivl : Nat → Nat → Nat) : List Nat → Nat → Nat → List (Nat × Nat) → Passes
  | [], c, last, acc => ⟨acc, last, c⟩
  | j :: r, c, _, acc => passLoop ivl r (c + ivl j c) c (acc ++ [(j, c)])
/-- One pass for each summary bit from a cycle; an empty summary takes one cycle (R20, R346). -/
def passesOf (t : Team) (c : Nat) (ivl : Nat → Nat → Nat) : Passes :=
  match activeWords t with
  | [] => ⟨[], c, c + 1⟩
  | ws => passLoop ivl ws c c []
/-- The ready figure of a swept word: an empty summary takes one cycle alone (R20, R346). -/
def Passes.ready (p : Passes) (rdy : Nat) : Nat := if p.at_.isEmpty then 1 else rdy
/-- The cycle at which a lane's pass issues. -/
def passCycle (p : Passes) (lane : Nat) : Nat := ((p.at_.find? fun x => x.1 == lane / 32).map (·.2)).getD p.last

/-- The register operands of a word that has a scalar class (R176); none for any other word. -/
def classRegs : Instr → Option (List Reg)
  | .iadd f | .isub f | .imul f | .imulhI f | .imulhN f | .imad f | .idivI f | .idivN f | .iremI f | .iremN f
  | .iminI f | .iminN f | .imaxI f | .imaxN f | .iaddsI f | .iaddsN f | .isubsI f | .isubsN f | .andR f | .orR f
  | .xorR f | .andn f | .shl f | .shr f | .sar f | .rol f | .ror f | .fadd f | .fsub f | .fmul f | .fdiv f | .fdiv2 f
  | .ffma f | .fmin f | .fmax f | .fhull f | .fmeet f | .fmake f | .lea f | .sel f => some [f.d, f.a, f.b]
  | .ineg f | .iabs f | .notR f | .popc f | .clz f | .ctz f | .brev f | .mov f | .bfx f | .bfi f | .fneg f | .fabs f
  | .fsqr f | .fsqrt f | .frcp f | .frsq f | .fexp f | .fexp2 f | .flog f | .flog2 f | .fsin f | .fcos f | .ftanh f
  | .flo f | .fhi f | .fmid f | .frad f | .fwid f | .fbis f | .fclass f | .cvtf f | .cvti f | .cvfi f | .cbx f | .cbq f
  | .iaddImm f | .isubImm f | .imulImm f | .andImm f | .orImm f | .xorImm f | .shlImm f | .shrImm f | .sarImm f
  | .ld f | .ldOffset f | .st f | .stOffset f | .ldv f | .ldvOffset f | .stv f | .stvOffset f | .ldnOffset f
  | .lds f | .ldsOffset f | .sts f | .stsOffset f | .ldl f | .stl f | .ldg f | .stg f
  | .aadd f | .amin f | .amax f | .aand f | .aor f | .axor f | .axchg f | .acas f | .ainc f | .adec f | .afadd f
  | .afmin f | .afmax f => some [f.d, f.a]
  | .icmpEq f | .icmpNe f | .icmpLtI f | .icmpLeI f | .icmpGtI f | .icmpGeI f | .icmpLtN f | .icmpLeN f | .icmpGtN f
  | .icmpGeN f | .fcmpLt f | .fcmpLe f | .fcmpGt f | .fcmpGe f | .fcmpEq f | .fcmpNe f | .fcmpSub f | .fcmpIn f
  | .fcmpDis f => some [f.a, f.b]
  | .movi f | .movl f | .movKill f | .rdsr f | .wrsr f => some [f.d]
  | _ => none
/-- The register operands of a word, for the order of use of physical registers (R67). -/
def usedRegs (i : Instr) : List Reg :=
  match classRegs i, i with
  | some l, _ => l
  | none, .cbld f | none, .redi f | none, .redf f | none, .scan f | none, .qxch f | none, .qbc f | none, .ncvt f | none, .ldn f | none, .ldnOffset f | none, .stn f
  | none, .stnOffset f => [f.d, f.a]
  | none, .shfl f => [f.d, f.a, f.b]
  | none, .itop f => [f.a]
  | none, .ptoi f => [f.d]
  | none, _ => []
/-- The second registers of the pairs that a word reads (R70, R177). -/
def pairedRegs : Instr → List Reg
  | .fadd f | .fsub f | .fmin f | .fmax f | .fhull f | .fmeet f | .fdiv f | .fmul f | .fdiv2 f | .fmake f
  | .fcmpLt f | .fcmpLe f | .fcmpGt f | .fcmpGe f | .fcmpEq f | .fcmpNe f | .fcmpSub f | .fcmpIn f | .fcmpDis f =>
    if f.w then [nextReg f.a, nextReg f.b] else []
  | .ffma f => if f.w then [nextReg f.d, nextReg f.a, nextReg f.b] else []
  | .fbis f | .fneg f | .fabs f | .fsqr f | .fsqrt f | .frcp f | .frsq f | .fexp f | .fexp2 f | .flog f | .flog2 f
  | .fsin f | .fcos f | .ftanh f | .flo f | .fhi f | .fmid f | .frad f | .fwid f | .fclass f | .cvti f | .cbq f =>
    if f.w then [nextReg f.a] else []
  | .cvtf f => if f.b == 1 || (f.w && 16 ≤ f.b.toNat) then [nextReg f.a] else []
  | .itop f => if f.b == 2 then [nextReg f.a] else []
  | .redf f | .ncvt f => if f.b.getLsbD 3 then [nextReg f.a] else []
  | .scan f => if f.b.toNat / 8 % 4 == 3 then [nextReg f.a] else []
  | .stv f => if f.sz.getLsbD 3 then [nextReg f.d] else []
  | .stvOffset f => if f.sz.getLsbD 3 then [nextReg f.d] else []
  | .stg f => if f.x.getLsbD 13 && f.sz.getLsbD 3 then [nextReg f.d] else []
  | .ldn f => [nextReg f.a]
  | .ldnOffset f => [nextReg f.a]
  | .stn f => if f.sz.getLsbD 3 then [nextReg f.a, nextReg f.d] else [nextReg f.a]
  | .stnOffset f => if f.sz.getLsbD 3 then [nextReg f.a, nextReg f.d] else [nextReg f.a]
  | .acas f => [nextReg f.d]
  | .afadd f | .afmin f | .afmax f => if f.sz.getLsbD 2 then [nextReg f.d] else []
  | _ => []
/-- Mask words of the lanes that a word reads registers of: those of its active lanes, and for SHFL those of its source
lanes (R67, R247). -/
def readWords (t : Team) (i : Instr) : List Nat :=
  match i with
  | .shfl f => distinct (activeWords t ++ (activeLanes t).filterMap fun l =>
      let src := (readReg t t.clk l f.b).toNat % 2 ^ 32
      if src < t.width then some (src / 32) else none)
  | _ => activeWords t
/-- A word of the scalar class, which the cores' scalar pipe takes (R21, R176). -/
def isScalarWord (i : Instr) : Bool := match classRegs i with | some l => allScalar l | none => false
/-- A word that the SFU takes (R228, R229). -/
def isSfuWord : Instr → Bool
  | .frcp _ | .frsq _ | .fexp _ | .fexp2 _ | .flog _ | .flog2 _ | .fsin _ | .fcos _ | .ftanh _ => true
  | _ => false
/-- A word that the hamper unit takes (R45). -/
def isHamperWord : Instr → Bool
  | .split _ | .fork _ | .take _ => true
  | _ => false
/-- A word's operands have been used in some mask words at the team's cycle (R67). -/
def touchRegs (t : Team) (ws : List Nat) (rs : List Reg) : Team :=
  let at_ := fun (m : Tab PhysReg) k => match tget? m k with | some p => tput m k { p with stamp := t.clk } | none => m
  rs.foldl (fun t r =>
    if isV r then { t with alloc := ws.foldl (fun m j => at_ m (aReg t r * 32 + j)) t.alloc }
    else if isS r then { t with salloc := at_ t.salloc (regNum r) } else t) t

end Sys2Proof.Machine
end

