-- ==== Sys2Proof/Machine/Flags.lean ====
section
/-! DEFINITION. Condition codes of the scalar class and the conditions of BRC (R73, R198, R200 to R204, R211, R226). -/
namespace Sys2Proof.Machine

/-- Bits of a width. -/
def wbits (w : Bool) : Nat := if w then 64 else 32
/-- The signed reading of a value of width w. -/
def sgn (w : Bool) (x : Nat) : Int := sextN (wbits w) x
/-- A result and the condition codes C and V it gives. -/
structure IRes where
  val : Nat
  c : Bool
  v : Bool
  deriving DecidableEq, Repr
/-- Truncates a result to the width. -/
def iRes (w : Bool) (x : Int) (c v : Bool) : IRes := ⟨(x % (2 ^ wbits w : Int)).toNat, c, v⟩
/-- A signed number outside the width's range. -/
def sOut (w : Bool) (x : Int) : Bool := decide (x < -(2 ^ (wbits w - 1) : Int)) || decide (2 ^ (wbits w - 1) - 1 < x)
/-- CC after a scalar-class integer instruction: Z and N of the result, U unchanged (R198). -/
def ccOf (w : Bool) (old : CC) (r : IRes) : CC :=
  { z := r.val % 2 ^ wbits w == 0, n := decide (2 ^ (wbits w - 1) ≤ r.val % 2 ^ wbits w), c := r.c, v := r.v, u := old.u }
/-- CC after a scalar interval compare (R226). -/
def ccOfTri (x : Tri) : CC := ⟨x == .t, false, false, false, x == .u⟩
/-- The conditions of BRC (R211). -/
def condHolds (cc : CC) (code : Nat) : Bool :=
  match code with
  | 0 => cc.z
  | 1 => !cc.z
  | 2 => cc.n != cc.v
  | 3 => cc.n == cc.v
  | 4 => cc.z || cc.n != cc.v
  | 5 => !cc.z && cc.n == cc.v
  | 6 => cc.c
  | 7 => !cc.c
  | 8 => cc.c || cc.z
  | 9 => !cc.c && !cc.z
  | 10 => cc.n
  | 11 => !cc.n
  | 12 => cc.v
  | 13 => !cc.v
  | 14 => cc.u
  | _ => !cc.u
/-- CC as the 32-bit register of R73, and back. -/
def ccBits (cc : CC) : Nat := cc.z.toNat + 2 * cc.n.toNat + 4 * cc.c.toNat + 8 * cc.v.toNat + 16 * cc.u.toNat
def ccFrom (x : Nat) : CC :=
  ⟨bits x 0 1 == 1, bits x 1 1 == 1, bits x 2 1 == 1, bits x 3 1 == 1, bits x 4 1 == 1⟩

/-- Results of the integer instructions with their C and V (R200 to R203). -/
def iAdd (w : Bool) (a b : Nat) : IRes :=
  let n := 2 ^ wbits w; iRes w ((a + b : Nat) : Int) (decide (n ≤ a + b)) (sOut w (sgn w a + sgn w b))
def iSub (w : Bool) (a b : Nat) : IRes := iRes w ((a : Int) - b) (decide (a < b)) (sOut w (sgn w a - sgn w b))
def iMul (w : Bool) (a b : Nat) : IRes :=
  iRes w ((a * b : Nat) : Int) (decide (2 ^ wbits w ≤ a * b)) (sOut w (sgn w a * sgn w b))
def iMulhI (w : Bool) (a b : Nat) : IRes := iRes w (sgn w a * sgn w b / (2 ^ wbits w : Int)) false false
def iMulhN (w : Bool) (a b : Nat) : IRes := iRes w ((a * b / 2 ^ wbits w : Nat) : Int) false false
def iMad (w : Bool) (d a b : Nat) : IRes := iRes w ((a * b + d : Nat) : Int) false false
def iMinI (w : Bool) (a b : Nat) : IRes := iRes w (if sgn w a ≤ sgn w b then a else b : Nat) false false
def iMaxI (w : Bool) (a b : Nat) : IRes := iRes w (if sgn w a ≤ sgn w b then b else a : Nat) false false
def iMinN (w : Bool) (a b : Nat) : IRes := iRes w (if a ≤ b then a else b : Nat) false false
def iMaxN (w : Bool) (a b : Nat) : IRes := iRes w (if a ≤ b then b else a : Nat) false false
/-- Saturation to the signed or unsigned range (R200). -/
def satI (w : Bool) (x : Int) : IRes :=
  let lo : Int := -(2 ^ (wbits w - 1) : Int)
  let hi : Int := 2 ^ (wbits w - 1) - 1
  if x < lo then iRes w lo false true else if hi < x then iRes w hi false true else iRes w x false false
def satN (w : Bool) (x : Int) : IRes :=
  let hi : Int := 2 ^ wbits w - 1
  if x < 0 then iRes w 0 false true else if hi < x then iRes w hi false true else iRes w x false false
def iAddsI (w : Bool) (a b : Nat) : IRes := satI w (sgn w a + sgn w b)
def iAddsN (w : Bool) (a b : Nat) : IRes := satN w ((a : Int) + b)
def iSubsI (w : Bool) (a b : Nat) : IRes := satI w (sgn w a - sgn w b)
def iSubsN (w : Bool) (a b : Nat) : IRes := satN w ((a : Int) - b)
/-- Division toward zero with its two named corner cases (R201). -/
def iDivI (w : Bool) (a b : Nat) : IRes :=
  if b = 0 then iRes w (-1) true false
  else if sgn w a = -(2 ^ (wbits w - 1) : Int) ∧ sgn w b = -1 then iRes w (sgn w a) false true
  else iRes w ((sgn w a).tdiv (sgn w b)) false false
def iDivN (w : Bool) (a b : Nat) : IRes := if b = 0 then iRes w (-1) true false else iRes w ((a / b : Nat) : Int) false false
def iRemI (w : Bool) (a b : Nat) : IRes :=
  if b = 0 then iRes w a true false
  else if sgn w a = -(2 ^ (wbits w - 1) : Int) ∧ sgn w b = -1 then iRes w 0 false true
  else iRes w ((sgn w a).tmod (sgn w b)) false false
def iRemN (w : Bool) (a b : Nat) : IRes := if b = 0 then iRes w a true false else iRes w ((a % b : Nat) : Int) false false
def iAnd (w : Bool) (a b : Nat) : IRes := iRes w ((a &&& b : Nat) : Int) false false
def iOr (w : Bool) (a b : Nat) : IRes := iRes w ((a ||| b : Nat) : Int) false false
def iXor (w : Bool) (a b : Nat) : IRes := iRes w ((a ^^^ b : Nat) : Int) false false
def iNot (w : Bool) (a : Nat) : Nat := 2 ^ wbits w - 1 - a % 2 ^ wbits w
def iAndn (w : Bool) (a b : Nat) : IRes := iRes w ((a &&& iNot w b : Nat) : Int) false false
/-- Shifts by an amount of 0 to 255, with the last bit shifted out (R202). -/
def iShl (w : Bool) (a s : Nat) : IRes :=
  let n := wbits w
  iRes w (if n ≤ s then 0 else a * 2 ^ s : Nat) (decide (1 ≤ s) && decide (s ≤ n) && a.testBit (n - s)) false
def iShr (w : Bool) (a s : Nat) : IRes :=
  let n := wbits w
  iRes w (if n ≤ s then 0 else a / 2 ^ s : Nat) (decide (1 ≤ s) && decide (s ≤ n) && a.testBit (s - 1)) false
def iSar (w : Bool) (a s : Nat) : IRes :=
  let n := wbits w
  let neg := a.testBit (n - 1)
  iRes w (if n ≤ s then (if neg then -1 else 0) else sgn w a / (2 ^ s : Int))
    (if s = 0 then false else if s ≤ n then a.testBit (s - 1) else neg) false
def iRol (w : Bool) (a s : Nat) : IRes :=
  let n := wbits w; let k := s % n
  iRes w ((a * 2 ^ k % 2 ^ n + a / 2 ^ (n - k) : Nat) : Int) false false
def iRor (w : Bool) (a s : Nat) : IRes := let n := wbits w; iRol w a (n - s % n)
def iNeg (w : Bool) (a : Nat) : IRes := iRes w (-(a : Int)) (a != 0) (a == 2 ^ (wbits w - 1))
def iAbs (w : Bool) (a : Nat) : IRes := iRes w (sgn w a).natAbs false (a == 2 ^ (wbits w - 1))
def popc : Nat → Nat → Nat
  | 0, _ => 0
  | k + 1, a => a % 2 + popc k (a / 2)
/-- Leading zeros of a value of n bits. -/
def clz (n a : Nat) : Nat := if a = 0 then n else n - 1 - Nat.log2 a
def ctz : Nat → Nat → Nat
  | 0, _ => 0
  | k + 1, a => if a % 2 = 1 then 0 else 1 + ctz k (a / 2)
def brev : Nat → Nat → Nat
  | 0, _ => 0
  | k + 1, a => a % 2 * 2 ^ k + brev k (a / 2)
def iPopc (w : Bool) (a : Nat) : IRes := iRes w (popc (wbits w) a) false false
def iClz (w : Bool) (a : Nat) : IRes := iRes w (clz (wbits w) a) false false
def iCtz (w : Bool) (a : Nat) : IRes := iRes w (ctz (wbits w) a) false false
def iBrev (w : Bool) (a : Nat) : IRes := iRes w (brev (wbits w) a) false false
/-- Bit fields (R204). -/
def iBfx (w sx : Bool) (a pos len : Nat) : IRes :=
  let f := a / 2 ^ pos % 2 ^ len; iRes w (if sx then sextN len f else f) false false
def iBfi (w : Bool) (d a pos len : Nat) : IRes :=
  iRes w ((d / 2 ^ (pos + len) * 2 ^ (pos + len) + a % 2 ^ len * 2 ^ pos + d % 2 ^ pos : Nat) : Int) false false

end Sys2Proof.Machine
end

