-- ==== Sys2Proof/Machine/Team.lean ====
section
/-! DEFINITION. Launch records, the start of a team, waymarks, region entries, parking, and rollback (R13 to R33, R76 to
R79, R148 to R157, R303). -/
namespace Sys2Proof.Machine

/-- Fields of a launch record (R303). -/
def lrDw (l : List Word) (i : Nat) : Nat := (nth 0 l i).toNat
def lrKind (l : List Word) : Nat := bits (lrDw l 1) 0 4
def lrTeamw (l : List Word) : Nat := bits (lrDw l 1) 8 3
def lrWidth (l : List Word) : Nat := 2 ^ (lrTeamw l + 3)
def lrNteam (l : List Word) : Nat := bits (lrDw l 1) 11 5
def lrCl2 (l : List Word) : Bool := bits (lrDw l 1) 16 1 == 1
def lrKsplit (l : List Word) : Bool := bits (lrDw l 1) 17 1 == 1
def lrKexact (l : List Word) : Bool := bits (lrDw l 1) 18 1 == 1
def lrCodeBase (l : List Word) : Nat := bits (lrDw l 2) 0 57
def lrMapBase (l : List Word) : Nat := bits (lrDw l 3) 0 57
def lrCodeSz (l : List Word) : Nat := bits (lrDw l 4) 0 32
def lrEntry (l : List Word) : Nat := bits (lrDw l 4) 32 32
def lrGdimx (l : List Word) : Nat := bits (lrDw l 5) 0 32
def lrGdimy (l : List Word) : Nat := bits (lrDw l 5) 32 32
def lrGdimz (l : List Word) : Nat := bits (lrDw l 6) 0 32
def lrLanes (l : List Word) : Nat := bits (lrDw l 6) 32 13
def lrStash (l : List Word) : Nat := bits (lrDw l 7) 0 32
def lrHlog (l : List Word) : Nat := bits (lrDw l 7) 32 4
def lrNframe (l : List Word) : Nat := bits (lrDw l 8) 0 3
def lrFrame (l : List Word) : List Nat := (List.range (lrNframe l)).map fun i => bits (lrDw l 8) (3 + 7 * i) 7
def lrPbase (l : List Word) : Nat := bits (lrDw l 9) 0 57
def lrPmax (l : List Word) : Nat := bits (lrDw l 10) 0 21
def lrPlim0 (l : List Word) : Nat := bits (lrDw l 10) 32 21
def lrCounter (l : List Word) : Nat := bits (lrDw l 11) 0 57
def lrPcounter (l : List Word) : Nat := bits (lrDw l 12) 0 57
def lrCistern (l : List Word) : Nat := let b := bits (lrDw l 13) 0 32; if b = 0 then 0x1000000 else b
def lrPrio (l : List Word) : Nat := bits (lrDw l 13) 32 2
/-- Bytes of one team's private segment (R138). -/
def lrSeg (l : List Word) : Nat := ceilDiv (lrWidth l * lrPmax l * 4) 128 * 128

/-- A controller's thread (R191). -/
def ctlKey (c : Nat) : Nat := 2 ^ 60 + c
def isCtl (tk : Nat) : Bool := decide (2 ^ 60 ≤ tk)
/-- The group, grid, context and core of a team. -/
def teamGroup (s : State) (tk : Nat) : Option Group := if isCtl tk then none else s.group? (s.team tk).gid
def teamCtx (s : State) (tk : Nat) : Nat := ((teamGroup s tk).map (·.ctx)).getD 0
/-- A doubleword of the descriptor that applies to a group, and its address space. -/
def Group.descDw (g : Group) (i : Nat) : Nat := (nth 0 g.desc i).toNat
def Group.as (g : Group) : Nat := asOf g.ctx (g.descDw 1)
def teamAs (s : State) (tk : Nat) : Nat := ((teamGroup s tk).map (·.as)).getD 0
def teamCore (s : State) (tk : Nat) : Nat := ((teamGroup s tk).map (·.core)).getD 0
def teamGrid (s : State) (tk : Nat) : Option Grid := (teamGroup s tk).bind fun g => s.grid? g.seq
/-- The pair's cycle a team runs on; a controller counts its own clock (R313). -/
def teamCyc (s : State) (tk : Nat) : Nat :=
  if isCtl tk then (s.ctl (tk - 2 ^ 60)).cyc else (s.pair (pairOfCore (teamCore s tk))).cyc
def setCyc (s : State) (tk c : Nat) : State :=
  if isCtl tk then let x := s.ctl (tk - 2 ^ 60); s.setCtl (tk - 2 ^ 60) { x with cyc := max x.cyc c }
  else let q := pairOfCore (teamCore s tk); let p := s.pair q; s.setPair q { p with cyc := max p.cyc c }

/-- Live and helper lanes of a team at launch (R16). -/
def launchLive (w ti l : Nat) : Mask := (List.range w).foldl (fun m i => if ti * w + i < l then m ||| (1 <<< i) else m) 0
def launchHelper (w ti l : Nat) : Mask :=
  (List.range w).foldl (fun m i => if l ≤ ti * w + i ∧ (ti * w + i) / 4 * 4 < l then m ||| (1 <<< i) else m) 0

/-- The waymark of a team at an address (R79). -/
def snapWaymark (t : Team) (pc : Word) : Waymark :=
  { pc := pc, live := t.live, helper := t.helper, mask := t.mask, stack := t.stack, v := t.v, s := t.s, p := t.p,
    fl := t.fl, cc := t.cc, lvl := t.lvl, wb := t.wb, careful := t.careful, regcnt := t.regcnt,
    metered := t.metered, ordered := t.ordered, pev := t.pev, excl := t.excl, prio := t.prio, tswRes := t.tswRes, alloc := t.alloc,
    salloc := t.salloc, inflight := t.inflight }
/-- A team stands at a run start that has yet to be checked (R179). -/
def atStart (t : Team) : Bool := !t.inRun && !t.susp && !t.waymarked
/-- A region entry at an address, the kernel's entry point or another (R148, R184). -/
def enterRegion (t : Team) (pc : Word) (u : Bool := false) (start : Bool := false) : Team :=
  let t := { t with regcnt := t.regcnt + 1 }
  { t with nextRid := t.nextRid + 1,
           regions := t.regions ++ [{ rid := t.nextRid, wm := { snapWaymark t pc with start := start }, closed := false, uacc := u, reads := [],
                                      stores := [], evts := [], spages := [], sstores := [], mapped := [] }] }
/-- The pending event and the exclusive token stand in the team and in every waymark it may return to: a rollback takes
neither back (R32, R157). -/
def setPev (t : Team) (b : Bool) : Team :=
  { t with pev := b, regions := t.regions.map fun r => { r with wm := { r.wm with pev := b } } }
def setExcl (t : Team) (b : Bool) : Team :=
  { t with excl := b, regions := t.regions.map fun r => { r with wm := { r.wm with excl := b } } }
/-- TSW (R77). -/
def tswBits (t : Team) : Word :=
  BitVec.ofNat 64 (t.stack.length % 128 + 2 ^ 7 * t.lvl.toNat + 2 ^ 8 * (t.wb % 16) + 2 ^ 12 * (t.regions.length % 8) +
    2 ^ 15 * t.careful.toNat + 2 ^ 16 * t.regcnt.toNat + 2 ^ 32 * t.metered.toNat + 2 ^ 33 * t.ordered.toNat +
    2 ^ 34 * t.pev.toNat + 2 ^ 35 * t.excl.toNat + 2 ^ 36 * (t.prio % 4) + 2 ^ 38 * t.tswRes.toNat)

/-- A team as its group's admission starts it, the arguments in allocated registers (R65, R78); `old` supplies place and context fields. -/
def startTeam (old : Team) (l : List Word) : Team :=
  let w := lrWidth l
  let live := launchLive w old.teami (lrLanes l)
  let hlp := launchHelper w old.teami (lrLanes l)
  let args := (List.range 8).map fun i => (i, nth 0 l (16 + i))
  let t : Team := { Team.none with
    gid := old.gid, teami := old.teami, width := w, st := .ready, pc := BitVec.ofNat 64 (lrCodeBase l + lrEntry l),
    live := live, helper := hlp, mask := live ||| hlp, s := tsetAll 0 [] args, metered := old.metered,
    ordered := old.ordered, prio := old.prio, hvec := old.hvec, plim := BitVec.ofNat 32 (lrPlim0 l), slot := old.slot,
    pos := old.pos, spillLane := old.spillLane, readyAt := old.readyAt, clk := old.clk,
    nextId := old.nextId, run := old.run + 1, nextRid := old.nextRid }
  enterRegion (noteAlloc t ⟨[], args, []⟩) t.pc false true

/-- A U store of a team is being performed at another E9: the team issues nothing until its region has committed, so that
no trap of its own can take it back (R152, DESIGN CHOICE, log 85). -/
def uBusy (t : Team) : Bool := t.regions.any (·.begun)
/-- Keys of the teams whose record is listed and satisfies a condition. -/
def teamsWhere (s : State) (f : Nat → Team → Bool) : List Nat := (s.teams.filter fun x => f x.1 x.2).map (·.1)
/-- A team stands in a slot of a core. -/
def Team.resident (t : Team) : Bool := t.st == .ready || t.st == .issuing || t.st == .parked

/-- Frees the pipe a team runs on from a cycle on (R22). -/
def releasePipeAt (s : State) (tk at_ : Nat) : State :=
  let t := s.team tk
  let s := match t.pipe with
    | none => s
    | some p =>
      let c := teamCore s tk
      let others := teamsWhere s fun k u => k != tk && u.pipe == some p && teamCore s k == c
      let x := s.core c
      if others.isEmpty then s.setCore c { x with pipes := tset 0 (tset 0 x.pipes p 0) (2 + p) (max (tget 0 x.pipes (2 + p)) at_) }
      else s.setCore c { x with pipes := tset 0 x.pipes p (others.headD 0 + 1) }
  s.modTeam tk fun t => { t with pipe := none }
/-- At the end of its run. -/
def releasePipe (s : State) (tk : Nat) : State := releasePipeAt s tk (s.team tk).clk
/-- At a rollback, a trap or a fault: in the cycle after (R22). -/
def dropPipe (s : State) (tk : Nat) : State := releasePipeAt s tk (teamCyc s tk + 1)
/-- Parks a team with one cause (R30); a park in mid-run suspends the run (R184). -/
def parkTeam (s : State) (tk : Nat) (c : Park) (w : ParkWait) (susp : Bool) : State :=
  let s := releasePipe s tk
  let s := s.modTeam tk fun t => { t with st := .parked, park := c, wait := w, susp := susp, parkSeq := s.nextPark, parkedAt := max t.clk (teamCyc s tk) }
  { s with nextPark := s.nextPark + 1 }
/-- A save of a team, alone or with its whole group (16), has been decided and not yet made (R31). -/
def saveDecided (s : State) (tk : Nat) : Bool :=
  let t := s.team tk
  s.saveBusy.any fun x => x.1 == t.gid && (x.2 == 16 || x.2 == t.teami)
/-- A parked team's cause is satisfied at a cycle; a swap that was decided wins (R30, R32, R391). -/
def makeReadyAt (s : State) (tk c : Nat) : State :=
  let t := s.team tk
  if t.st == .swapped then s.setTeam tk { t with satisfied := true }
  else if t.st != .parked then s
  else if saveDecided s tk then s.setTeam tk (setPev t true)
  else s.setTeam tk { t with st := .ready, park := .none, readyAt := c, age := 0, wait := ⟨0, 0⟩ }
def makeReady (s : State) (tk : Nat) : State := makeReadyAt s tk (max (teamCyc s tk) (s.team tk).clk + 1)
def makeReadyAll (s : State) (tks : List Nat) : State := tks.foldl makeReady s

/-- Keys under which replies wait: U lines that an agent reads, and writes. -/
def uReadKey (who line : Nat) : Nat := (who * 2 ^ 64 + line) * 4
def uWrittenKey (who line : Nat) : Nat := (who * 2 ^ 64 + line) * 4 + 1
/-- Agents that are no team: one of the host or of a peer, a command queue, the array of a core, and the engine of a chain. -/
def noTeam : Nat := 2 ^ 62
def queueKey (q : Nat) : Nat := 2 ^ 61 + q
def arrayAgent (core : Nat) : Nat := 2 ^ 62 + 1 + core
def chainAgent (cid : Nat) : Nat := 2 ^ 63 + cid
/-- An agent gives up the reads that it has asked other E9s for: replies that it has not used are dropped, and those still
to come are of no use (R151, log 38). -/
def dropAsks (s : State) (who : Nat) : State :=
  let mine := fun (k : Nat) => k / 4 / 2 ^ 64 == who && k % 4 == 0
  { s with remoteIn := s.remoteIn.filter fun x => !mine x.1,
           remoteOut := s.remoteOut.map fun x => if x.2.what == 1 && mine x.2.key then (x.1, { x.2 with what := 9 }) else x }
/-- Accumulator entries of a core; keys from accSplit name the other core of the pair. -/
def accSplit : Nat := 2 ^ 17
def accWrite (s : State) (c : Nat) (ws : List (Nat × Word)) : State :=
  let a := s.core c
  let mine := ws.filter fun x => x.1 < accSplit
  let other := (ws.filter fun x => accSplit ≤ x.1).map fun x => (x.1 - accSplit, x.2)
  let s := s.setCore c { a with arr := { a.arr with acc := tsetAll 0 a.arr.acc mine } }
  if other.isEmpty then s
  else let b := s.core (c ^^^ 1); s.setCore (c ^^^ 1) { b with arr := { b.arr with acc := tsetAll 0 b.arr.acc other } }
/-- Discards uncommitted matrix operations and MDEP bindings of a team's regions from rid on, restoring shadows newest
first; a binding whose decrement has been made stays, for the MDEP that is executed again (R291, R298, log 67). -/
def undoMatrix (s : State) (c tk rid : Nat) : State :=
  let a := s.core c
  let hit := fun (o : MOp) => o.tk == tk && decide (rid ≤ o.rid) && !o.committed
  let loose := fun (m : MBind) => m.tk == tk && decide (rid ≤ m.rid) && !m.committed
  let gone := a.arr.ops.filter hit
  let free := (a.arr.mdeps.filter loose).map (·.mid)
  if gone.isEmpty && free.isEmpty then s
  else
    let mids := gone.map (·.mid)
    let s := s.setCore c { a with arr := { a.arr with
      ops := a.arr.ops.filter fun o => !hit o,
      issued := (a.arr.issued.filter fun i => !mids.contains i.mid).map fun i => if free.contains i.mid then { i with bound := false } else i,
      mdeps := a.arr.mdeps.filter fun m => !(loose m && !m.sent && (!m.made || mids.contains m.mid)) } }
    gone.reverse.foldl (fun s o => match o.shadow with | some sh => accWrite s c sh | none => s) s
/-- Every operation and binding of a group leaves an array, shadows restored newest first, and its teams hold it no more. -/
def dropArray (s : State) (gid c : Nat) : State :=
  let a := s.core c
  let s := if a.arr.ops.any (fun o => o.gid == gid) then dropAsks s (arrayAgent c) else s
  let gone := a.arr.ops.filter fun o => o.gid == gid
  let mine := (a.arr.holder.map (· / 16)) == some gid
  let arr := { a.arr with ops := a.arr.ops.filter fun o => o.gid != gid, mdeps := a.arr.mdeps.filter fun m => m.gid != gid }
  let s := s.setCore c { a with arr :=
    if mine then { arr with holder := none, paired := false, follower := false, issued := [] } else arr }
  gone.reverse.foldl (fun s o => match o.shadow with | some sh => accWrite s c sh | none => s) s
/-- Hamper effects of a team's regions from rid on are taken back (R55). -/
def undoHamper (g : Group) (tk rid : Nat) : Group :=
  { g with hamper := (g.hamper.filter fun e => !(e.spec && e.pusher == tk && decide (rid ≤ e.pushRid))).map fun e =>
      if e.taken && e.drawer == tk && decide (rid ≤ e.drawRid) then { e with taken := false } else e }
/-- Wakes the teams that wait for a buffer handle, and for a scratch line; one that an ERROR makes ready keeps that (R30,
R270). -/
def wakeBuf (s : State) (gid h : Nat) : State :=
  match s.group? gid with
  | none => s
  | some g =>
    let st := (tget Handle.reset g.handles h).st
    let ks := teamsWhere s fun _ t => t.gid == gid && t.park == .buffer && (t.st == .parked || t.st == .swapped) && t.wait.val == h &&
      (st == .error || (t.wait.toks == 0 && st == .free) || (t.wait.toks == 1 && st == .full))
    let s := if st == .error then ks.foldl (fun s k => s.modTeam k fun t => { t with bufErr := some h }) s else s
    makeReadyAll s ks
def wakePresence (s : State) (gid : Nat) : State :=
  match s.group? gid with
  | none => s
  | some g => makeReadyAll s (teamsWhere s fun _ t => t.gid == gid && t.park == .presence && (t.st == .parked || t.st == .swapped) &&
      !g.absent.contains t.wait.val)
/-- A byte as the order gives it to a group: a staged store of its own stands before memory (R161, R168). -/
def readStaged (s : State) (gid : Option Nat) (l : Nat) : Byte :=
  match (gid.bind s.group?).bind fun g => tget? g.staged l with
  | some b => b
  | none => readMem s l
/-- A transfer record as an engine of a context reads it: its doublewords, or why it cannot (R272). -/
inductive RecRead where
  | ok (l : List Nat)
  | fault (cause va : Nat)
  deriving DecidableEq, Repr
def readRecord (s : State) (gid : Option Nat) (core ctx va : Nat) : RecRead :=
  match xlateN s core ctx va 64 .read true with
  | .ok l => let b := l.map fun x => readStaged s gid x.1; .ok ((List.range 8).map fun i => leVal ((b.drop (8 * i)).take 8))
  | .fault c a => .fault c a
/-- The records of a chain from one on that the device owns. -/
def chainRecords (s : State) (gid : Option Nat) (core ctx : Nat) : Nat → Nat → List (List Nat)
  | 0, _ => []
  | n + 1, va =>
    match readRecord s gid core ctx va with
    | .ok l =>
      if nth 0 l 0 % 2 = 0 then []
      else l :: (let nx := bits (nth 0 l 0) 6 51 * 64; if nx = 0 then [] else chainRecords s gid core ctx n nx)
    | .fault _ _ => []
def recordFuel : Nat := 4096
/-- A record in flight names a handle of the group (R269). -/
def handleBusy (s : State) (gid h : Nat) : Bool :=
  s.chains.any fun x => x.2.gid == some gid && !x.2.ended &&
    (chainRecords s x.2.gid x.2.core x.2.ctx recordFuel x.2.cur).any fun l => bits (nth 0 l 1) 12 1 == 1 && bits (nth 0 l 1) 6 6 == h
/-- DRAINING handles that no record in flight names become FREE (R269). -/
def settleHandles (s : State) (gid : Nat) : State :=
  match s.group? gid with
  | none => s
  | some g =>
    let hs := (g.handles.filter fun x => x.2.st == .draining && !handleBusy s gid x.1).map (·.1)
    let s := s.setGroup { g with handles := hs.foldl (fun m h => tdel m h) g.handles }
    hs.foldl (fun s h => wakeBuf s gid h) s
/-- Takes some chains out of their channels. -/
def dropChains (s : State) (gid : Nat) (hit : Chain → Bool) : State :=
  let gone := (s.chains.filter fun x => hit x.2).map (·.1)
  if gone.isEmpty then s
  else settleHandles { s with
    chains := s.chains.filter fun x => !gone.contains x.1,
    cores := s.cores.map fun x => (x.1, { x.2 with chans := x.2.chans.map fun y =>
      (y.1, { y.2 with heads := y.2.heads.filter fun h => !gone.contains h }) }) } gid
/-- Uncommitted chains of a team's regions from rid on are cancelled (R271). -/
def undoChains (s : State) (tk rid : Nat) : State :=
  dropChains s (s.team tk).gid fun c => c.tk == some tk && decide (rid ≤ c.rid) && !c.committed
/-- Tokens of the words still in flight. -/
def tokBits (l : List Inflight) : BitVec 8 :=
  l.foldl (fun m f => match f.tok with | some k => if f.arrived then m else m ||| (1 <<< k) | none => m) 0
/-- The results of one long-latency word reach the registers; those of older words for the same registers are
discarded (R64, R182). In ordered mode the word is remembered until a run end awaits its token (R183). -/
def applyInflight (t : Team) (f : Inflight) : Team :=
  let vk := f.vw.map (·.key)
  let sk := f.sw.map (·.key)
  let w : RegW := ⟨f.vw.map fun x => (x.key, x.val), f.sw.map fun x => (x.key, x.val), []⟩
  let t := noteAlloc t w
  let fl := t.inflight.filterMap fun g =>
    if g.id == f.id then (if t.ordered then some { g with arrived := true, applied := true } else none)
    else if g.id < f.id && !g.applied then
      some { g with vw := g.vw.filter (fun x => !vk.contains x.key), sw := g.sw.filter (fun x => !sk.contains x.key) }
    else some g
  { t with v := tsetAll 0 t.v w.v, s := tsetAll 0 t.s w.s, cbt := f.cbt.getD t.cbt, inflight := fl,
           fl := f.flw.foldl (fun m x => tset 0 m x.1 (tget 0 m x.1 ||| x.2)) t.fl }
/-- The codebook table of a team with every load of it that has arrived: no rollback changes it (R74, R79, R242). -/
def cbtNow (t : Team) : List (BitVec 16) := (t.inflight.filter fun f => f.arrived && !f.applied).foldl (fun c f => f.cbt.getD c) t.cbt
/-- A team at a waymark: that region stands open and empty, the younger ones are gone; older words in flight stay, and
the results of those that have arrived since then stand (R76, R79, R151). -/
def atWaymark (t : Team) (idx : Nat) : Team :=
  match (t.regions.drop idx) with
  | [] => t
  | r :: _ =>
    let out := (t.inflight.filter fun f => !f.arrived).map (·.id)
    let fl := r.wm.inflight.map fun (f : Inflight) => if out.contains f.id then f else { f with arrived := true, cbt := none }
    let t := { t with
      cbt := cbtNow t, pc := r.wm.pc, live := r.wm.live, helper := r.wm.helper, mask := r.wm.mask, stack := r.wm.stack, v := r.wm.v,
      s := r.wm.s, p := r.wm.p, fl := r.wm.fl, cc := r.wm.cc, lvl := r.wm.lvl, wb := r.wm.wb,
      careful := r.wm.careful, regcnt := r.wm.regcnt, metered := r.wm.metered, ordered := r.wm.ordered, pev := r.wm.pev,
      excl := r.wm.excl, prio := r.wm.prio, tswRes := r.wm.tswRes, nextRid := r.rid + 1, alloc := r.wm.alloc, salloc := r.wm.salloc,
      regions := t.regions.take idx ++ [{ r with closed := false, reads := [], stores := [], evts := [], spages := [], sstores := [], mapped := [], begun := false }],
      inflight := fl, tok := tokBits fl, t := [], run := t.run + 1, runWords := 0, susp := false, inRun := false,
      pend := none, irrev := false, refill := none, waymarked := !r.wm.start, st := .ready, park := .none, wait := ⟨0, 0⟩,
      bufErr := none, wantLines := [], placed := none, lanesDone := [] }
    (fl.filter fun f => f.arrived && !f.applied).foldl applyInflight t
/-- Rollback of a team to the waymark of one of its regions (R151). -/
def rollbackTo (s : State) (tk idx : Nat) : State :=
  let t := s.team tk
  match (t.regions.drop idx) with
  | [] => s
  | r :: _ =>
    let s := dropAsks (dropPipe s tk) tk
    let s := undoChains s tk r.rid
    let s := if (s.core (teamCore s tk)).arr.ops.any (fun o => o.tk == tk) then dropAsks s (arrayAgent (teamCore s tk)) else s
    let s := undoMatrix s (teamCore s tk) tk r.rid
    let s := s.modGroup t.gid fun g => undoHamper g tk r.rid
    s.modTeam tk fun t => { atWaymark t idx with readyAt := t.clk + 1, age := 0 }

/-- Requests the die's exclusive token (R157). -/
def exclRequest (s : State) (tk : Nat) : State :=
  let d := dieOfCore (teamCore s tk)
  let x := s.die d
  if x.exclHolder == none then (s.setDie d { x with exclHolder := some tk }).modTeam tk fun t => setExcl t true
  else parkTeam (s.setDie d { x with exclWait := x.exclWait ++ [tk] }) tk .excl ⟨0, 0⟩ (s.team tk).inRun
/-- One more consecutive rollback or retry of a region (R156, R157). -/
def escalate (s : State) (tk rid : Nat) : State :=
  let t := s.team tk
  let n := if t.escalRid = rid then t.escal + 1 else 1
  let careful := t.careful || decide (4 ≤ n)
  let mark := fun (r : Region) => if r.rid = rid then { r with wm := { r.wm with careful := careful } } else r
  let s := s.setTeam tk { t with escal := n, escalRid := rid, careful := careful, regions := t.regions.map mark }
  if 16 ≤ n ∧ !t.excl ∧ !((s.die (dieOfCore (teamCore s tk))).exclWait.contains tk) then exclRequest s tk else s
/-- A group takes its ticket while stores of its own to other E9s are still being performed there (R168, R410). -/
def Group.releasing (g : Group) : Bool := g.ticket && !g.stagedU.isEmpty
/-- Whether a group's effects are still staged (R168). -/
def unticketed (s : State) (gid : Nat) : Bool :=
  match s.group? gid with
  | some g => (match s.grid? g.seq with | some q => q.det && (!g.ticket || g.releasing) | none => false)
  | none => false
/-- Whether a conflict that hits a group executes it again from its start (R169). -/
def restartable (s : State) (gid : Nat) : Bool :=
  match s.group? gid with
  | some g => (match s.grid? g.seq with | some q => q.det && !g.ticket | none => false)
  | none => false
/-- The agent that releases what a group has staged. -/
def ticketAgent (gid : Nat) : Nat := 2 ^ 61 + 64 + gid
def groupReleasing (s : State) (gid : Nat) : Bool := ((s.group? gid).map Group.releasing).getD false
/-- Removes a team from the waiters of every die. -/
def dropTeam (ds : Tab Die) (tk : Nat) : Tab Die :=
  ds.map fun d => (d.1, { d.2 with exclWait := d.2.exclWait.filter (fun k => k != tk),
                                   watch := d.2.watch.filter (fun w => w.who != Waiter.team tk) })
/-- Releases the exclusive token and grants it to the next team in order (R157). -/
def releaseExcl (s : State) (tk : Nat) : State :=
  match s.dies.find? fun d => d.2.exclHolder == some tk with
  | none => s.modTeam tk fun t => setExcl t false
  | some (d, x) =>
    let s := s.modTeam tk fun t => setExcl t false
    match x.exclWait with
    | [] => s.setDie d { x with exclHolder := none, deferred := [] }
    | k :: r =>
      let s := s.setDie d { x with exclHolder := some k, exclWait := r, deferred := [] }
      makeReady (s.modTeam k fun t => setExcl t true) k
/-- An entry goes back on top of a hamper, in its own slot if that is free. -/
def putBack (l : List HEntry) (e : HEntry) : List HEntry :=
  let used := fun (i : Nat) => l.any fun (x : HEntry) => x.slot == i
  l ++ [{ e with slot := if used e.slot then ((List.range (l.length + 1)).find? fun i => !used i).getD 0 else e.slot }]
/-- The entries that other groups pushed, none of them taken. -/
def ofOthers (g : Group) (l : List HEntry) : List HEntry :=
  (l.filter fun e => e.group != g.idx % 2 ^ 32).map fun e => { e with taken := false, drawer := 0 }
/-- A group at its admission state: scratch, handles, slots, hamper, with the entries of other groups that it has drawn
back on top (R136, R269, R281, R56). -/
def freshGroup (g : Group) : Group :=
  { g with scratch := [], absent := [], present := [], maps := [], mapLines := [], handles := [], slots := [],
           spoison := [], hamper := (ofOthers g g.drawn).foldl putBack (ofOthers g g.hamper),
           drawn := [], pushno := 0, staged := [], stagedS := [], stagedE := [], stagedU := [], rmarks := [], restarts := g.restarts + 1 }
/-- A team back at its group's start, in careful mode or not; one that waits for the answer to a fault keeps waiting (R156,
R169, R389). -/
def againTeam (t : Team) (l : List Word) (careful : Bool) : Team :=
  let u := startTeam { t with readyAt := t.clk + 1 } l
  let u := { u with careful := careful, regions := u.regions.map fun r => { r with wm := { r.wm with careful := careful } } }
  if t.st == .parked && t.park == .fault then { u with
    st := .parked, park := .fault, wait := t.wait, parkSeq := t.parkSeq, parkedAt := t.parkedAt, tag := t.tag,
    faultAddr := t.faultAddr, faultCause := t.faultCause }
  else u
/-- Entries that a hamper has no slot for go on top of their cistern bins, the oldest first, as a spill's do (R51, R56,
DESIGN CHOICE, log 88). -/
def overHamper (s : State) (gid : Nat) : State :=
  match s.group? gid with
  | none => s
  | some g =>
    let n := g.hamper.length - g.hamperN
    if n = 0 then s
    else
      let die := dieOfCore g.core
      let s := s.setGroup { g with hamper := g.hamper.drop n }
      s.modGrid g.seq fun q => { q with cistern := (g.hamper.take n).foldl (fun m e =>
        tset [] m (die * 8 + e.bin) (tget [] m (die * 8 + e.bin) ++ [{ e with slot := 0 }])) q.cistern }
/-- Re-execution of a group that does not hold its ticket, from its start, which counts as a rollback of its teams (R156):
its staged events, copies and matrix work are discarded, spilled pushes of its own go, and entries of others that it spilled stay (R169, R56). A saved team stands at
the start already (log 68). -/
def restartGroup (s : State) (gid : Nat) : State :=
  match s.group? gid with
  | none => s
  | some g =>
    match s.grid? g.seq with
    | none => s
    | some q =>
      let s := dropChains s gid fun c => c.gid == some gid
      let s := dropArray (dropArray s gid g.core) gid (g.core ^^^ 1)
      let s := g.teamKeys.foldl (fun s tk =>
        if (s.team tk).st == .free || (s.team tk).st == .swapped then s
        else
          let s := releaseExcl (dropAsks (dropPipe s tk) tk) tk
          let s : State := { s with dies := dropTeam s.dies tk }
          s.modTeam tk fun t => againTeam t q.lrec (decide (4 ≤ g.restarts + 1))) s
      let s := overHamper (s.modGroup gid freshGroup) gid
      let s := if g.restarts + 1 < 16 then s else g.teamKeys.foldl (fun s tk =>
        if (s.team tk).st == .ready then exclRequest s tk else s) s
      let mine := fun (e : HEntry) => e.drawer == gid + 1
      let keep := fun (l : List HEntry) => (l.filter fun e => !(mine e && e.group == g.idx % 2 ^ 32)).map fun e =>
        if mine e then { e with drawer := 0 } else e
      s.modGrid g.seq fun q =>
        { q with cistern := (q.cistern.map fun x => (x.1, keep x.2)).filter fun x => !x.2.isEmpty }
/-- A conflict hits an uncommitted region; one that runs careful counts the retry, but not by an expired deferral (R150,
R151, R156, R157, R169). -/
def conflictHit (s : State) (tk idx : Nat) : State :=
  let t := s.team tk
  if restartable s t.gid then restartGroup s t.gid
  else
    match t.regions.drop idx with
    | [] => s
    | r :: _ =>
      if t.careful && idx + 1 == t.regions.length then (if t.excl then s else escalate s tk r.rid)
      else escalate ((rollbackTo s tk idx).modTeam tk fun u => { u with readyAt := max u.readyAt (teamCyc s tk + 1) }) tk r.rid

end Sys2Proof.Machine
end

