-- ==== Sys2Proof/Machine/Events.lean ====
section
/-! DEFINITION. Memory events: what a write event does to readers, watchers and pages, what a region's commit does,
what a team's own read sees, and when a line can be reached at all (R121 to R129, R143 to R157, R276, R376, R403,
R410, R411). -/
namespace Sys2Proof.Machine

/-- Lists values at keys, later ones prevailing. -/
def tputAll {α : Type} (m : Tab α) (cs : List (Nat × α)) : Tab α := cs.foldl (fun m c => tput m c.1 c.2) m

/-- Writes bytes of memory by location; host lines are cached under CXL.cache where the variant has it (R4, R125). -/
def memPut (s : State) (cells : List (Nat × Byte)) : State :=
  let near := cells.filter fun c => !isRemote c.1
  let far := cells.filter fun c => isRemote c.1
  let host := distinct ((near.filter fun c => isHost c.1).map fun c => lineOf c.1)
  { s with mem := tsetAll Memory.unlisted s.mem near, proxy := tputAll s.proxy far,
           hostDirty := if s.variant = .noLink then s.hostDirty else host.foldl nins s.hostDirty,
           proxyDirty := (distinct (far.map fun c => lineOf c.1)).foldl nins s.proxyDirty }
/-- Poison of a line ends when one event writes all 128 of its bytes (R414). -/
def unpoison (s : State) (cells : List (Nat × Byte)) (lines : List Nat) : State :=
  if s.poison.isEmpty then s
  else { s with poison := s.poison.filter fun l => !(lines.contains l &&
    (List.range 128).all fun i => cells.any fun c => c.1 == l * 128 + i) }

/-- The first region of a team that read one of the lines. -/
def readRegion (t : Team) (hit : Nat → Bool) : Option Nat :=
  t.regions.findIdx? fun r => r.reads.any hit
/-- The access that a team in careful mode waits to perform: its line has been taken, so it is retried, which counts (R156). -/
def retryHit (s : State) (who : Option Nat) (hit : Nat → Bool) : State :=
  let tks := teamsWhere s fun k t => some k != who && t.st != .swapped && t.careful && !t.excl && t.wantLines.any hit
  tks.foldl (fun s k => match (s.team k).regions.getLast? with | some r => escalate s k r.rid | none => s) s
/-- Rolls back every other team whose uncommitted region read a hit line, and every unticketed group that did; accesses
of careful teams that wait for a hit line are retried (R150, R156, R169). -/
def hitReaders (s : State) (who : Option Nat) (hit : Nat → Bool) : State :=
  let gone := (s.groups.filter fun x => x.2.rmarks.any hit && (who.map fun k => (s.team k).gid != x.1).getD true).map (·.1)
  let s := gone.foldl restartGroup s
  let tks := teamsWhere s fun k t => some k != who && t.st != .swapped && (readRegion t hit).isSome
  let s := tks.foldl (fun s k => match readRegion (s.team k) hit with | some i => conflictHit s k i | none => s) s
  retryHit s who hit
/-- Lines are read at their homes under an attribute: where it is another than the last, every copy of the line is
recalled first (R124, log 70). -/
def touchLines (s : State) (who : Option Nat) (lines : List (Nat × Nat)) : State :=
  lines.foldl (fun s x =>
    let old := tget 0 s.attrs x.1
    if isRemote (x.1 * 128) || old == x.2 + 1 then s
    else
      let s := if old = 0 then s else hitReaders s who fun l => l == x.1
      { s with attrs := tput s.attrs x.1 (x.2 + 1) }) s
/-- The S pages that some lines lie in, as the package's accesses have named them (R122). -/
def sPagesOn (s : State) (lines : List Nat) : List (Nat × Nat) := s.sPages.filter fun p => lines.any (inPage p)

/-- Conditions of WAITC (R276). -/
def condMet (code : Nat) (m v : Word) : Bool :=
  match code with
  | 0 => m == v
  | 1 => m != v
  | 2 => decide (v.toNat ≤ m.toNat)
  | 3 => decide (m.toNat ≤ v.toNat)
  | 4 => decide (v.toInt ≤ m.toInt)
  | _ => decide (m.toInt ≤ v.toInt)
/-- Re-tests the entries of one watch table against the value an event leaves (R376). -/
def retest (s : State) (d : Nat) (locs : List Nat) : State :=
  let x := s.die d
  let hit := fun (w : Watch) => w.inTable && locs.any (fun l => decide (w.loc ≤ l) && decide (l < w.loc + 8)) &&
    condMet w.cond (BitVec.ofNat 64 (readMemN s w.loc 8)) w.val
  let met := x.watch.filter hit
  if met.isEmpty then s
  else
    let keep := (x.watch.filter fun w => !(hit w && match w.who with | .team _ => true | .queue _ _ => false)).map fun w =>
      if hit w then { w with met := true } else w
    let s := s.setDie d { x with watch := keep }
    met.foldl (fun s w => match w.who with
      | .team tk => makeReady s tk
      | .queue _ _ => s) s
def retestAll (s : State) (locs : List Nat) : State :=
  s.dies.foldl (fun s x => if x.2.watch.isEmpty then s else retest s x.1 locs) s

/-- Bytes change together, readers of the lines roll back, S pages drop in every L1, and waiters of counters are re-tested
(R121, R122, R143, R150, R376). -/
def landBytes (s : State) (who : Option Nat) (cells : List (Nat × Byte)) (spages : List (Nat × Nat)) : State :=
  if cells.isEmpty then s
  else
    let lines := distinct (cells.map fun c => lineOf c.1)
    let s := memPut s cells
    let s := { s with attrs := lines.foldl tdel s.attrs }
    let s := hitReaders s who fun l => lines.contains l
    let s := spages.foldl (fun s p => hitReaders s none (inPage p)) s
    retestAll s (cells.map (·.1))
/-- One write event: its bytes land, and poison ends in lines that it writes whole (R143, R414). -/
def writeEvent (s : State) (who : Option Nat) (cells : List (Nat × Byte)) (spages : List (Nat × Nat)) : State :=
  landBytes (unpoison s cells (distinct (cells.map fun c => lineOf c.1))) who cells spages

/-- Store events that enter the order together: watchers see each in turn, everyone else all of them; poison ends in a line
that one of them writes whole (R149, R376, R414). -/
def writeEvents (s : State) (who : Option Nat) (evts : List (List (Nat × Byte))) (cells : List (Nat × Byte))
    (spages : List (Nat × Nat)) : State :=
  let s := if s.dies.all fun d => d.2.watch.isEmpty then s
    else evts.foldl (fun s e => retestAll (memPut s e) (e.map (·.1))) s
  landBytes (evts.foldl (fun s e => unpoison s e (distinct (e.map fun c => lineOf c.1))) s) who cells spages

/-- The bytes that a write of a unit that is no team reaches, by device-physical address; a hole or a stack that is not
enabled takes nothing. -/
def physCells (s : State) (pa : Nat) (bytes : List Byte) : List (Nat × Byte) :=
  (List.range bytes.length).filterMap fun i =>
    match memLoc (pa + i) with
    | some l => if isDram l && !(s.stack (stackOf l)).dmen then none else some (l, nth 0 bytes i)
    | none => none
/-- A write event of such a unit. -/
def physEvent (s : State) (cells : List (Nat × Byte)) : State :=
  writeEvent s none cells (sPagesOn s (distinct (cells.map fun c => lineOf c.1)))

/-- A fresh tag of Swiust messages. -/
def freshTag (s : State) : Nat := ((List.range 4096).find? fun i => (tget? s.remoteOut i).isNone).getD 4096
/-- Queues a message for a device over the port of the page (R409). -/
def sendMsg (s : State) (op dev : Nat) (m : Msg) : State :=
  match routePort s dev (m.off / 4096) with
  | none => s
  | some p => let x := s.port p; s.setPort p { x with out := x.out ++ [⟨op, dev, m⟩] }
def remDev (l : Nat) : Nat := bits l 45 12
def remOff (l : Nat) : Nat := l % 2 ^ 45
/-- Sends a request about a remote location under a fresh tag. -/
def remoteAsk (s : State) (op l what : Nat) (flags : BitVec 32) (body : List Byte) (key : Nat := 0) : State :=
  let g := freshTag s
  if 4096 ≤ g then s
  else
    let s := { s with remoteOut := tput s.remoteOut g ⟨what, l, key⟩ }
    sendMsg s op (remDev l) ⟨ownDev s, g, flags, remOff l, body⟩
/-- A request for a line that is not already out. -/
def remoteAskOnce (s : State) (op l what : Nat) (body : List Byte) (key : Nat := 0) : State :=
  if s.remoteOut.any fun x => x.2 == ⟨what, l, key⟩ then s else remoteAsk s op l what 0 body key
/-- The key under which the result of an ATOM waits, by team and lane. -/
def atomKey (tk lane : Nat) : Nat := (tk * 1024 + lane) * 4 + 2

/-- Recall of a page from its borrowers; its TAG is a number of the home's own (R410, R411, DESIGN CHOICE, log 89). -/
def recallPage (s : State) (page dev : Nat) (toS : Bool) : State :=
  let e := s.pageEntry page
  if e.recalls.any fun x => x.1 == dev then s
  else
    let n := e.rno % 4095 + 1
    let s := s.setPageEntry page { e with recalls := e.recalls ++ [(dev, toS)], rno := n, rtags := tput e.rtags dev n }
    sendMsg s 0x08 dev ⟨ownDev s, n, if toS then 1 else 0, tget (page * 4096) e.offs dev, []⟩
/-- The back-invalidation of a line that a host cache holds against an access; none: nothing holds it (R403). -/
def hostGate (s : State) (line : Nat) (write : Bool) : Option State :=
  if s.hostLines.any fun h => h.line == line && (write || h.excl) then
    some { s with hostLines := s.hostLines.map fun h =>
      if h.line == line then { h with snoop := max h.snoop (if write then 2 else 1) } else h }
  else none
/-- The recall of a page from the peers that hold it against an access of anyone but `dev` (R411). -/
def pageGate (s : State) (page dev : Nat) (write : Bool) : Option State :=
  let e := s.pageEntry page
  match e.owner with
  | some d => if d = dev then none else some (recallPage s page d (!write))
  | none =>
    let l := e.sharers.filter fun d => d != dev
    if write && !l.isEmpty then some (l.foldl (fun s d => recallPage s page d false) s) else none
/-- No peer. -/
def noDev : Nat := 2 ^ 20
/-- What must happen before an agent of this E9 reaches a line of its own memory: a snoop of the host (R403) or a
recall from peers (R411). None: nothing. -/
def localGate (s : State) (line : Nat) (write : Bool) : Option State :=
  match hostGate s line write with
  | some s => some s
  | none => pageGate s (line / 32) noDev write
/-- Bytes that one line of another E9 is written with, as the body of WRL: the mask and the bytes (R409). -/
def wrlBody (cells : List (Nat × Byte)) (line : Nat) : List Byte :=
  let at_ := fun i => (cells.filter fun c => c.1 == line * 128 + i).getLast?.map (·.2)
  ((List.range 16).map fun k => BitVec.ofNat 8 (((List.range 8).map fun b => if (at_ (8 * k + b)).isSome then 2 ^ b else 0).sum)) ++
    (List.range 128).map fun i => (at_ i).getD 0
/-- The borrower lets a page go: its lines drop and regions that read them roll back (R412, R414). -/
def dropPage (s : State) (page : Nat) : State :=
  let here := fun l => l / 32 == page
  hitReaders { s with borrowed := tdel s.borrowed page, proxyLines := s.proxyLines.filter fun l => !here l,
                      proxyDirty := s.proxyDirty.filter fun l => !here l } none here
/-- Writes back the dirty lines of a borrowed page, as far as there are tags (R412). -/
def writeBackPage (s : State) (page : Nat) : State :=
  (s.proxyDirty.filter fun l => l / 32 == page).foldl (fun s l =>
    if 4096 ≤ freshTag s then s
    else
      let s := remoteAsk s 0x02 (l * 128) 6 0 (wrlBody ((List.range 128).map fun i => (l * 128 + i, readMem s (l * 128 + i))) l)
      { s with proxyDirty := s.proxyDirty.filter fun k => k != l }) s
/-- A borrowed page has dirty lines that have not been written back. -/
def pageDirty (s : State) (page : Nat) : Bool := s.proxyDirty.any fun l => l / 32 == page
/-- A borrowed page goes back to its home, once its dirty lines have all been sent; the RETN that answers a RECALL carries
its tag, one of the borrower's own accord 0 (R412, DESIGN CHOICE, log 89). -/
def returnPage (s : State) (page : Nat) (tag : Nat := 0) : State :=
  let s := writeBackPage s page
  if pageDirty s page then s
  else sendMsg (dropPage s page) 0x09 (remDev (page * 4096)) ⟨ownDev s, tag, 0, remOff (page * 4096), []⟩
/-- A page is borrowed here. -/
def pageGranted (s : State) (page : Nat) : Bool := (tget ⟨false, false, false⟩ s.borrowed page).granted
/-- Pages held here of lines that an access performs at their home go back first, so that the home serves the sender's own
committed bytes (R143, R166, R410, R412). -/
def sendBack (s : State) (lines : List Nat) : State :=
  (distinct (lines.map fun l => l / 32)).foldl (fun s p => if pageGranted s p then returnPage s p else s) s
/-- A page of one of the lines is still held here. -/
def stillHeld (s : State) (lines : List Nat) : Bool := lines.any fun l => pageGranted s (l / 32)
/-- Asks for a page; an upgrade that is out is not asked for again (R411). -/
def askPage (s : State) (page : Nat) (mod : Bool) : State :=
  let b := tget ⟨false, false, false⟩ s.borrowed page
  let s := remoteAskOnce s (if mod then 0x06 else 0x05) (page * 4096) 4 []
  if !(s.remoteOut.any fun x => x.2 == ⟨4, page * 4096, 0⟩) then s
  else { s with borrowed := tput s.borrowed page (if b.granted then { b with upgrading := true } else { b with mod := mod }) }
/-- The same for a line of another E9: a D line needs its page borrowed and itself fetched; a U line is read at its
home, to which a page that is held here goes back first (R410, R411). -/
def remoteGate (s : State) (who line coh : Nat) (write : Bool) : Option State :=
  let l := line * 128
  let page := l / 4096
  let b := tget ⟨false, false, false⟩ s.borrowed page
  if coh = 2 then
    if write then none
    else if b.granted then some (returnPage { s with remoteIn := tdel s.remoteIn (uReadKey who line) } page)
    else if (tget? s.remoteIn (uReadKey who line)).isSome then none
    else some (remoteAskOnce s 0x01 l 1 [] (uReadKey who line))
  else if b.granted && (b.mod || !write) then
    if s.proxyLines.contains line then none else some (remoteAskOnce s 0x01 l 0 [])
  else if b.granted && b.upgrading && s.remoteOut.any (fun x => x.2 == ⟨4, page * 4096, 0⟩) then some s
  else some (askPage s page write)
/-- A team's uncommitted regions hold a line. -/
def holdsLine (t : Team) (line : Nat) : Bool :=
  t.regions.any fun r => r.reads.contains line || r.stores.any fun c => lineOf c.1 == line
/-- The die whose exclusive token a team holds. -/
def exclDie (s : State) (tk : Nat) : Option Nat := (s.dies.find? fun d => d.2.exclHolder == some tk).map (·.1)
/-- The gate of a line by the exclusive holder of another team: a line that it holds is deferred until its region commits
or the deferral expires, and a line that it waits for is served to it first, of two holders to that of the lower die
(R157). -/
def exclGate (s : State) (tk line : Nat) : Option State :=
  match s.dies.find? fun d => match d.2.exclHolder with
      | some h => h != tk && (holdsLine (s.team h) line || ((s.team h).wantLines.contains line &&
          (match exclDie s tk with | some e => decide (d.1 < e) | none => true)))
      | none => false with
  | none => none
  | some (d, x) =>
    if x.deferred.contains (2 * line + 1) then none
    else some (s.setDie d { x with deferred := nins x.deferred (2 * line) })
/-- The gate of one line for an agent. -/
def lineGate (s : State) (tk : Nat) (line coh : Nat) (write : Bool) : Option State :=
  match exclGate s tk line with
  | some s => some s
  | none =>
    if isRemote (line * 128) then remoteGate s tk line coh write
    else if isHost (line * 128) then none
    else localGate s line write
/-- The gate of several lines: the requests of all that wait, or none where every line can be reached. -/
def gates (s : State) (tk : Nat) (lines : List (Nat × Nat)) (write : Bool) : Option State :=
  lines.foldl (fun r l => match lineGate (r.getD s) tk l.1 l.2 write with | some s' => some s' | none => r) none

/-- Lines of some bytes as a unit that is no team reaches them. -/
def cellLines (cells : List (Nat × Byte)) : List (Nat × Nat) := (distinct (cells.map fun c => lineOf c.1)).map fun l => (l, 0)
/-- The writes of units that are no teams, in their order: one whose lines someone holds waits, and those after it, until
the lines have come back (R157, R403, R411). -/
def settlePhys : Nat → State → State
  | 0, s => s
  | n + 1, s =>
    match s.physOut with
    | [] => s
    | c :: r =>
      match gates s noTeam (cellLines c) true with
      | some s => s
      | none => settlePhys n (physEvent { s with physOut := r } c)
/-- A write of a unit that is no team: journal, rings, logs, descriptors. -/
def physWrite (s : State) (pa : Nat) (bytes : List Byte) : State :=
  let cells := physCells s pa bytes
  if cells.isEmpty then s else settlePhys (s.physOut.length + 1) { s with physOut := s.physOut ++ [cells] }

/-- The lines that an L1 holds for uncommitted regions, but for one that runs careful, and for groups without their ticket,
in the set of a line (R129, R156, R170). -/
def setMarks (s : State) (core line : Nat) : List Nat :=
  let here := fun (l : Nat) => l % Config.l1Sets == line % Config.l1Sets
  distinct (s.teams.flatMap fun x => if isCtl x.1 || !x.2.resident || teamCore s x.1 != core then []
    else (if x.2.careful then x.2.regions.dropLast else x.2.regions).flatMap fun r => (r.reads ++ r.stores.map fun c => lineOf c.1).filter here)
def setStaged (s : State) (core line : Nat) : List Nat :=
  distinct (s.groups.flatMap fun x => if x.2.core != core then [] else
    (x.2.staged.map fun c => lineOf c.1).filter fun l => l % Config.l1Sets == line % Config.l1Sets)
/-- What an access of a team meets in its L1 sets. -/
inductive SetRoom where
  /-- a way is free, or the line is there -/
  | room
  /-- every way holds a staged line (R170) -/
  | staged
  /-- every way is marked or staged: the team's youngest marked region is rolled back (R129) -/
  | hit (idx : Nat)
  /-- every way is marked or staged, by others: the access waits -/
  | wait
  deriving DecidableEq, Repr
/-- The index of a team's youngest region that marks lines. -/
def youngestMarked (t : Team) : Option Nat :=
  ((List.range t.regions.length).filter fun i => match (t.regions.drop i).head? with
    | some r => !r.reads.isEmpty || !r.stores.isEmpty
    | none => false).getLast?
/-- Whether the set of a line can take it beside the lines of its word that have found room: these are marked for the open
region (R129, R170). -/
def lineRoom (s : State) (tk : Nat) (own : List Nat) (line : Nat) : SetRoom :=
  let t := s.team tk
  let core := teamCore s tk
  let mine := if t.regions.isEmpty then [] else own.filter fun l => l % Config.l1Sets == line % Config.l1Sets
  let st := setStaged s core line
  let mk := mine ++ setMarks s core line
  if st.contains line || mk.contains line then .room
  else if Config.l1Ways ≤ st.length then .staged
  else if (distinct (st ++ mk)).length < Config.l1Ways then .room
  else if !mine.isEmpty then .hit (t.regions.length - 1)
  else match youngestMarked t with | some i => .hit i | none => .wait
/-- Whether the sets of some lines can take an access; a team in careful mode marks nothing and performs it (R129, R170;
the 128 sets are log 68). -/
def setRoom (s : State) (tk : Nat) (lines : List Nat) : SetRoom :=
  if isCtl tk || (s.team tk).careful then .room
  else (lines.foldl (fun (r : SetRoom × List Nat) line =>
    if r.1 != .room then r else (lineRoom s tk r.2 line, line :: r.2)) (.room, [])).1
/-- Sends the writes of lines that are performed at another E9; none: each is acknowledged (R410). -/
def wrlGate (s : State) (who : Nat) (cells : List (Nat × Byte)) : Option State :=
  let all := distinct (cells.map fun c => lineOf c.1)
  let s := sendBack s all
  let lines := all.filter fun l => (tget? s.remoteIn (uWrittenKey who l)).isNone
  if stillHeld s all then some s
  else if lines.isEmpty then none
  else some (lines.foldl (fun s l => remoteAskOnce s 0x02 (l * 128) 2 (wrlBody cells l) (uWrittenKey who l)) s)
/-- The acknowledgements are used up. -/
def wrlDone (s : State) (who : Nat) (cells : List (Nat × Byte)) : State :=
  { s with remoteIn := (distinct (cells.map fun c => lineOf c.1)).foldl (fun m l => tdel m (uWrittenKey who l)) s.remoteIn }

/-- A byte as the memory order gives it to an agent, with the bytes that a reply to it carried for a U line of another E9; a
page that is held here is read here. -/
def readNow (s : State) (who l : Nat) : Byte :=
  match tget? s.remoteIn (uReadKey who (lineOf l)) with
  | some b => if isRemote l && !pageGranted s (l / 4096) then nth 0 b (l % 128) else readMem s l
  | none => readMem s l
/-- A byte as an engine of a group reads it: no buffered store, but its group's staged ones (R161, R168). -/
def readEng (s : State) (who : Nat) (gid : Option Nat) (l : Nat) : Byte :=
  match (gid.bind s.group?).bind fun g => tget? g.staged l with
  | some b => b
  | none => readNow s who l
/-- A byte of a team's youngest region that buffers it. -/
def ownByte (rs : List Region) (l : Nat) : Option Byte := (rs.reverse.findSome? fun r => tget? r.stores l)
/-- A byte as a team sees it: its own buffered stores, its group's staged stores, then memory (R128, R168). -/
def readLoc (s : State) (tk l : Nat) : Byte :=
  match ownByte (s.team tk).regions l with
  | some b => b
  | none =>
    match teamGroup s tk with
    | some g => (tget? g.staged l).getD (readNow s tk l)
    | none => readNow s tk l
/-- Changes the open region of a team. -/
def modOpen (t : Team) (f : Region → Region) : Team :=
  match t.regions.reverse with
  | [] => t
  | r :: rest => { t with regions := (f r :: rest).reverse }
/-- Marks lines as read by the open region; in careful mode nothing is marked but for the exclusive holder (R129, R156,
R157). -/
def markReads (t : Team) (lines : List Nat) : Team := modOpen t fun r => { r with reads := lines.foldl nins r.reads }
/-- Buffers bytes of global memory in the open region (R128). -/
def bufferStores (t : Team) (evts : List (List (Nat × Byte))) (spages : List (Nat × Nat)) : Team :=
  modOpen t fun r => { r with stores := evts.foldl tputAll r.stores, evts := r.evts ++ evts,
                              spages := spages.foldl (fun l p => if l.contains p then l else l ++ [p]) r.spages }

/-- Wakes a team that waits for commits once few enough regions stand (R30, R148). -/
def wakeCommit (s : State) (tk : Nat) : State :=
  let t := s.team tk
  if t.st == .parked && t.park == .commit && decide (t.regions.length ≤ t.wait.val) then makeReady s tk else s
/-- Committed pushes stand as committed, and committed draws leave the hamper; those of a group without the ticket are
remembered, since its re-execution returns them (R55, R56, R169). -/
def commitHamper (g : Group) (tk rid : Nat) (hold : Bool) : Group :=
  let mine := fun (e : HEntry) => e.taken && e.drawer == tk && e.drawRid == rid
  { g with
    drawn := if hold then g.hamper.filter mine ++ g.drawn else g.drawn,
    hamper := (g.hamper.filter fun e => !mine e).map fun e => if e.spec && e.pusher == tk && e.pushRid == rid then { e with spec := false, rtag := 0 } else e }
/-- Wakes the teams that wait in TAKE on a bin that now holds a committed entry (R54). -/
def wakeTake (s : State) (gid : Nat) : State :=
  match s.group? gid with
  | none => s
  | some g => makeReadyAll s (teamsWhere s fun _ t => t.gid == gid && t.park == .take && (t.st == .parked || t.st == .swapped) &&
      g.hamper.any fun e => e.bin == t.wait.val && !e.spec && !e.taken)
/-- A signed 32-bit stride. -/
def stride (v lo : Nat) : Int := sextN 32 (bits v lo 32)
/-- The elements of a record in order: x, y, z (R273). -/
def recElems (l : List Nat) : List (Nat × Nat × Nat) :=
  let d := nth 0 l 4
  (List.range (bits d 32 16)).flatMap fun z => (List.range (bits d 16 16)).flatMap fun y => (List.range (bits d 0 16)).map fun x => (x, y, z)
/-- Element size, out-of-bounds test, source and destination of an element (R273). -/
def recEs (l : List Nat) : Nat := 2 ^ bits (nth 0 l 1) 3 3
def recSkip (l : List Nat) (e : Nat × Nat × Nat) : Bool :=
  let d := nth 0 l 7
  let out := fun (b i : Nat) => b != 0 && decide (b ≤ i)
  out (bits d 0 16) e.1 || out (bits d 16 16) e.2.1 || out (bits d 32 16) e.2.2
def recSrc (l : List Nat) (e : Nat × Nat × Nat) : Nat :=
  (((nth 0 l 2 + e.1 * recEs l : Nat) + e.2.1 * stride (nth 0 l 5) 0 + e.2.2 * stride (nth 0 l 5) 32) % 2 ^ 64).toNat
def recDst (l : List Nat) (e : Nat × Nat × Nat) : Nat :=
  (((nth 0 l 3 + e.1 * recEs l : Nat) + e.2.1 * stride (nth 0 l 6) 0 + e.2.2 * stride (nth 0 l 6) 32) % 2 ^ 64).toNat
/-- The scratch lines a record will write. -/
def recordLines (l : List Nat) : List Nat :=
  if bits (nth 0 l 0) 3 1 = 0 then []
  else distinct (((recElems l).filter fun e => !recSkip l e).flatMap fun e =>
    let t := recDst l e; [t / 128, (t + recEs l - 1) / 128])

/-- Lines that a group stored through a mapping hold the stored line; one under U, of which nothing is held or written back,
holds what memory had when the store was performed (R135 does not say: DESIGN CHOICE, log 95). -/
def noteMapped (s : State) (gid : Nat) (ls : List (Nat × Nat)) : State :=
  if ls.isEmpty then s
  else s.modGroup gid fun g => { g with
    mapLines := ls.foldl (fun l x => nins l x.1) g.mapLines,
    scratch := ls.foldl (fun m x => tsetAll 0 m ((List.range 128).map fun i =>
      (x.1 * 128 + i, (tget? g.staged (x.2 * 128 + i)).getD (readMem s (x.2 * 128 + i))))) g.scratch }
/-- A line of a group's scratch mirrors global memory: a mapping covers it (R135). -/
def mappedLine (g : Group) (l : Nat) : Bool := g.maps.any fun m => decide (m.off ≤ l * 128) && decide (l * 128 < m.off + m.len)
/-- Lines of a group become absent, but for mapped ones, which have no presence bit (R135, R136). -/
def makeAbsent (g : Group) (ls : List Nat) : Group :=
  { g with absent := (ls.filter fun l => !mappedLine g l).foldl nins g.absent }
/-- The presence bits of the lines a group's records will write go out when the records are released: at the commit of
their region, and in ordered mode at the ticket (R136, R154, R356). -/
def clearPresence (s : State) (c : Chain) : State :=
  match (if c.ended then none else c.gid) with
  | none => s.setChain c
  | some gid =>
    let ls := (chainRecords s c.gid c.core c.ctx recordFuel c.cur).flatMap recordLines
    let s := s.setChain { c with slines := ls.foldl nins c.slines }
    s.modGroup gid fun g => makeAbsent g ls
/-- What becomes of the matrix operations of a region that commits: shadows of retired ones drop, and stores to scratch
are released: their lines are absent (R291, R294). -/
def commitOps (s : State) (c tk rid : Nat) : State :=
  let a := s.core c
  let hit := fun (o : MOp) => o.tk == tk && o.rid == rid && !o.committed
  let ls := (a.arr.ops.filter hit).flatMap (·.slines)
  let s := s.setCore c { a with arr := { a.arr with
    ops := (a.arr.ops.map fun o => if hit o then { o with committed := true, release := teamCyc s tk } else o).filter fun o => !(o.committed && o.stage == .retired),
    issued := if a.arr.holder == some tk then
        let l := a.arr.issued.map fun i => if i.rid == rid then { i with committed := true } else i
        let last := l.foldl (fun m i => if i.committed then max m (i.mid + 1) else m) 0
        l.filter fun i => !i.committed || i.mid + 1 == last
      else a.arr.issued
    mdeps := (a.arr.mdeps.map fun m => if m.tk == tk && m.rid == rid then { m with committed := true } else m).filter
      fun m => !(m.made && m.committed && !m.sent) } }
  if ls.isEmpty then s else s.modGroup (s.team tk).gid fun g => makeAbsent g ls
/-- Committed stores enter the order, or are staged with the team's group until it holds the ticket (R149, R168). -/
def putStores (s : State) (tk : Nat) (evts : List (List (Nat × Byte))) (stores : Tab Byte) (spages : List (Nat × Nat)) : State :=
  let t := s.team tk
  if !isCtl tk && unticketed s t.gid then
    s.modGroup t.gid fun g => { g with
      staged := tputAll g.staged stores, stagedE := g.stagedE ++ evts,
      stagedS := spages.foldl (fun l p => if l.contains p then l else l ++ [p]) g.stagedS }
  else writeEvents s (some tk) evts stores spages
/-- Lines that a group without the ticket has read for good (R169). -/
def markGroup (s : State) (gid : Nat) (lines : List Nat) : State :=
  if restartable s gid then s.modGroup gid fun g => { g with rmarks := lines.foldl nins g.rmarks } else s
def groupReads (s : State) (tk : Nat) (lines : List Nat) : State := if isCtl tk then s else markGroup s (s.team tk).gid lines
/-- Staged stores of a team meet lines that another team of its group has read in an uncommitted region: a conflict that
hits the group (R150, R169). -/
def groupClash (s : State) (tk : Nat) (lines : List Nat) : Bool :=
  let t := s.team tk
  !isCtl tk && restartable s t.gid &&
  s.teams.any fun x => x.1 != tk && !isCtl x.1 && x.2.gid == t.gid && x.2.st != .swapped && (readRegion x.2 fun l => lines.contains l).isSome
/-- The oldest region of a team commits: its events enter the order together (R149). -/
def commitOldest (s : State) (tk : Nat) : State :=
  let t := s.team tk
  match t.regions with
  | [] => s
  | r :: rest =>
    let careful := t.careful && rest.isEmpty
    let s := s.setTeam tk { t with regions := rest, escal := if t.escalRid = r.rid then 0 else t.escal,
                                   careful := if careful then false else t.careful,
                                   clk := if r.begun then max t.clk (teamCyc s tk) else t.clk }
    let s := s.modGroup t.gid fun g => commitHamper { g with scratch := tsetAll 0 g.scratch r.sstores } tk r.rid (unticketed s t.gid)
    let mine := (s.chains.filter fun x => x.2.tk == some tk && x.2.rid == r.rid).map (·.2)
    let held := unticketed s t.gid
    let s := mine.foldl (fun s x => if held then s.setChain { x with committed := true } else clearPresence s { x with committed := true }) s
    let c := teamCore s tk
    let s := if isCtl tk then s else commitOps s c tk r.rid
    let s := putStores (groupReads s tk r.reads) tk r.evts r.stores r.spages
    let s := if held && r.uacc then s.modGroup t.gid fun g => { g with
      stagedU := (distinct ((r.stores.filter fun c => isRemote c.1).map fun c => lineOf c.1)).foldl nins g.stagedU } else s
    let s := noteMapped s t.gid r.mapped
    let s := if t.excl && rest.isEmpty then releaseExcl s tk else s
    wakeTake (wakeCommit s tk) t.gid
/-- Uncommitted matrix operations of a region. -/
def regionOps (s : State) (tk rid : Nat) : List MOp :=
  (s.core (teamCore s tk)).arr.ops.filter fun o => o.tk == tk && o.rid == rid && !o.committed
/-- Every access of a region has been performed: its loads have arrived and its matrix operations have read (R149, R291). -/
def accessesDone (s : State) (tk rid : Nat) : Bool :=
  !((s.team tk).inflight.any fun f => f.rid == rid && f.wait == .arrival && !f.arrived) &&
  (regionOps s tk rid).all fun o => !o.mem || o.stage == .latency || o.stage == .retired
/-- Closes the open region (R149); one that runs careful and has performed its accesses commits (R156). -/
def closeOpen (s : State) (tk : Nat) : State :=
  let t := s.team tk
  if t.careful && t.regions.length == 1 && (t.regions.all fun r => accessesDone s tk r.rid) then commitOldest s tk
  else s.setTeam tk { modOpen t (fun r => { r with closed := true }) with careful := false }

end Sys2Proof.Machine
end

