-- ==== Sys2Proof/Machine/Ops.lean ====
section
/-! DEFINITION. The named operations of the machine beside memory: the journal, the RAS ring and the fault ring; exits,
barriers and tickets; the end of grids; taking a trap or a fault, its routes, and halting a context (R33 to R37, R168,
R268, R307 to R310, R383, R387 to R391, R435). -/
namespace Sys2Proof.Machine

/-- The 32 bytes of four doublewords. -/
def dwBytes (l : List Nat) : List Byte := l.flatMap (leBytes 8)
/-- A journal record's bytes (R383). -/
def jrecBytes (r : JRec) : List Byte :=
  dwBytes [r.seq, r.queue % 64 + 2 ^ 6 * r.dev.toNat + 2 ^ 7 * r.noq.toNat + 2 ^ 8 * (r.kind % 16) + 2 ^ 12 * (r.st % 4) +
    2 ^ 16 * (r.status % 256) + 2 ^ 24 * (r.cause % 256) + 2 ^ 32 * (r.info % 2 ^ 32), r.recAddr % 2 ^ 57, r.addr.toNat]
/-- Writes a journal record; each write is one event (R383). -/
def journalPut (s : State) (r : JRec) : State :=
  let s := { s with journal := (s.journal.filter fun x => x.seq != r.seq) ++ (if r.st < 2 then [r] else []) }
  physWrite s (s.sched.jbase.toNat + 32 * (r.seq % Config.journalSlots)) (jrecBytes r)
/-- A record under the next sequence number. -/
def journalNew (s : State) (r : JRec) : State :=
  journalPut { s with sched := { s.sched with jseq := s.sched.jseq + 1 } } { r with seq := s.sched.jseq }
def journalStep (s : State) (seq : Nat) (f : JRec → JRec) : State :=
  match s.journal.find? fun x => x.seq == seq with
  | some r => journalPut s (f r)
  | none => s
/-- A device event that is no command (R383). -/
def journalEvent (s : State) (grid : Option Grid) (failed : Bool) (cause info recAddr status : Nat) (addr : Word) : State :=
  journalNew s { seq := 0, queue := (grid.map (·.queue)).getD 0, dev := (grid.map (·.dev)).getD false,
                 noq := grid.isNone, kind := 0, st := if failed then 3 else 2, status := status, cause := cause,
                 info := info, recAddr := recAddr, addr := addr }

/-- A RAS record's bytes (R435). -/
def rasBytes (s : State) (r : RasRec) : List Byte :=
  dwBytes [r.site % 256 + 2 ^ 8 * (r.sev % 4) + 2 ^ 10 * (r.die % 8) + 2 ^ 13 * (r.unit % 128) +
    2 ^ 20 * ((r.ctx.getD 0) % 64) + 2 ^ 26 * r.ctx.isSome.toNat, r.addr, r.count % 2 ^ 32, s.sched.jseq]
def rasFull (s : State) : Bool := decide (s.sched.rassize / 32 ≤ s.sched.rasprod - s.sched.rascons)
def rasAt (s : State) (n : Nat) : Nat := s.sched.rasbase + 32 * (n % max 1 (s.sched.rassize / 32))
/-- Two records are of one site (DESIGN CHOICE, log 10). -/
def sameSite (a b : RasRec) : Bool := a.site == b.site && a.die == b.die && a.unit == b.unit
def rasAppend (s : State) (r : RasRec) : State :=
  let s := physWrite s (rasAt s s.sched.rasprod) (rasBytes s r)
  { s with sched := { s.sched with rasprod := s.sched.rasprod + 1 },
           rasOpen := if r.sev = 0 then (s.sched.rasprod, r) :: s.rasOpen.filter fun x => !sameSite x.2 r else s.rasOpen }
/-- Held records enter the ring as space frees. -/
def rasFlush : Nat → State → State
  | 0, s => s
  | n + 1, s =>
    match s.rasHeld with
    | [] => s
    | r :: rest => if rasFull s then s else rasFlush n (rasAppend { s with rasHeld := rest } r)
/-- A reportable event: corrected errors of one site may fold into its last record, as the time between them says
(log 10); a full ring drops corrected records and holds the others (R435). -/
def rasEvent (s : State) (r : RasRec) : State :=
  if r.sev = 0 then
    match s.rasOpen.find? fun x => sameSite x.2 r && decide (s.sched.rascons ≤ x.1) with
    | some (n, q) =>
      if (s.freeVal).getLsbD 0 then
        let q := { q with count := q.count + r.count }
        physWrite { s.drawFree with rasOpen := (n, q) :: s.rasOpen.filter fun x => x.1 != n } (rasAt s n) (rasBytes s q)
      else if rasFull s then
        { s.drawFree with sched := { s.sched with raslost := min (s.sched.raslost + 1) (2 ^ 32 - 1) } }
      else rasAppend s.drawFree r
    | none =>
      if rasFull s then { s with sched := { s.sched with raslost := min (s.sched.raslost + 1) (2 ^ 32 - 1) } }
      else rasAppend s r
  else if rasFull s || !s.rasHeld.isEmpty then
    if s.rasHeld.length < Config.rasHeldMax then { s with rasHeld := s.rasHeld ++ [r] } else s
  else rasAppend s r
def rasMake (site sev die unit : Nat) (ctx : Option Nat) (addr : Nat) : RasRec :=
  { site := site, sev := sev, die := die, unit := unit, ctx := ctx, addr := addr, count := 1 }

/-- First cause of a grid's failure (R383). -/
def failGrid (s : State) (seq cause info : Nat) (addr : Word) : State :=
  s.modGrid seq fun g => if g.cause = 0 then { g with cause := cause, info := info, addr := addr } else g
/-- Live groups of a grid, and its groups. -/
def gridGroups (s : State) (seq : Nat) : List Group := (s.groups.filter fun x => x.2.seq == seq).map (·.2)
/-- Groups of a grid in all, with its chosen split (R380). -/
def gridTotal (q : Grid) : Nat := lrGdimx q.lrec * lrGdimy q.lrec * q.gdimz

/-- What becomes of a decrement: made or not needed, faulted with a cause, asked of another E9 under a key, or not yet made:
someone holds the line, or no tag is free. -/
inductive Decr where
  | made (s : State)
  | fault (cause : Nat)
  | asked (s : State)
  | wait (s : State)
/-- A counter is decremented by one atomic event in a context (R37, R298); at another E9 by a message whose reply comes
under a key. -/
def decCounter (s : State) (ctx va what key : Nat) : Decr :=
  if va = 0 then .made s
  else match xlateN s 0 ctx va 8 .write with
    | .fault c _ => .fault c
    | .ok l =>
      let locs := l.map (·.1)
      match locs with
      | [] => .made s
      | a :: _ =>
        if isRemote a then
          let s := sendBack s [lineOf a]
          if stillHeld s [lineOf a] || decide (4096 ≤ freshTag s) then .wait s
          else .asked (remoteAsk s 0x0A a what (BitVec.ofNat 32 (0x200 + 0x400 * 5))
            (leBytes 8 (2 ^ 64 - 1) ++ List.replicate 24 0) key)
        else match gates s noTeam [(lineOf a, 0)] true with
        | some s => .wait s
        | none =>
          let v := leVal (locs.map (readMem s))
          let sp := (l.filterMap fun x => if x.2.coh = 1 then some (x.2.base, x.2.size) else none).take 1
          .made (writeEvent s none (locs.zip (leBytes 8 ((v + (2 ^ 64 - 1)) % 2 ^ 64))) sp)
/-- Records the end of a host command in its queue (R371, R373). -/
def retireCommand (s : State) (q seq status : Nat) (failed : Bool) : State :=
  let x := s.queue q
  s.setQueue q { x with running := x.running.filter fun a => a.seq != seq, lastst := if failed then status else x.lastst }
/-- Entries of a grid's cisterns, those in transit among them, which stay counted at their donor (R58). -/
def cisternLeft (q : Grid) : Nat :=
  (q.cistern.map fun x => x.2.length).sum + (q.forage.map fun x => x.2.moving.length).sum
/-- A grid's record retires (R37). -/
def retireGrid (s : State) (seq : Nat) : State :=
  match s.grid? seq with
  | none => s
  | some q =>
    let failed := q.cause != 0 || q.status != 0
    let s := journalStep s seq fun r =>
      { r with st := if failed then 3 else 2, status := q.status, cause := q.cause, info := q.info,
               addr := if q.cause = 0 then r.addr else q.addr }
    let s := { s with grids := tdel s.grids seq, handed := s.handed.filter fun x => x != seq }
    if q.dev then s else retireCommand s q.queue seq q.status failed
/-- The first counter of a completing grid has been dealt with. -/
def popCounter (s : State) (seq : Nat) : State := s.modGrid seq fun q => { q with counters := q.counters.drop 1, asked := false }
/-- A completing grid decrements its counters, each after the one before it has been decremented or refused; its record
retires after the last (R37). -/
def counterStep : Nat → State → Nat → State
  | 0, s, _ => s
  | n + 1, s, seq =>
    match s.grid? seq with
    | none => s
    | some q =>
      match q.counters with
      | [] => retireGrid s seq
      | (i, va) :: _ =>
        if q.asked then s
        else match decCounter s (ctxAs s q.ctx) va.toNat 5 (2 * seq + i) with
        | .made s => counterStep n (popCounter s seq) seq
        | .fault c => counterStep n (popCounter (failGrid s seq c 0 va) seq) seq
        | .asked s => s.modGrid seq fun q => { q with asked := true }
        | .wait s => s
/-- A grid completes: its cisterns are discarded, and its counters decremented (R37). -/
def finishGrid (s : State) (seq : Nat) : State :=
  match s.grid? seq with
  | none => s
  | some q =>
    if q.ending then s
    else
      let rest := cisternLeft q
      let s := if rest = 0 then s else failGrid s seq 0xF0 rest 0
      counterStep 3 (s.modGrid seq fun q => { q with
        ending := true, counters := [(0, BitVec.ofNat 64 (lrCounter q.lrec)), (1, BitVec.ofNat 64 (lrPcounter q.lrec))] }) seq
/-- Grids that complete try their counters again (R37). -/
def settleGrids (s : State) : State := (s.grids.filter fun x => x.2.ending).foldl (fun s x => counterStep 3 s x.1) s
/-- A counter of a grid at another E9 has answered: decremented, or refused with a cause (R37). -/
def gridCounterReply (s : State) (key : Nat) (cause : Option Nat) : State :=
  match s.grid? (key / 2) with
  | none => s
  | some q =>
    match q.counters with
    | (i, va) :: _ =>
      if !q.asked || i != key % 2 then s
      else
        let s := match cause with | some c => failGrid s q.seq c 0 va | none => s
        counterStep 3 (popCounter s q.seq) q.seq
    | [] => s

/-- Barrier n of a group, or of a cluster, releases when every team that has not exited has arrived (R268). -/
def barTeams (s : State) (g : Group) (cluster : Bool) : List Nat :=
  let gs := g :: (if cluster then (g.mate.bind s.group?).toList else [])
  gs.flatMap fun g => g.teamKeys.filter fun k => (s.team k).st != .free && (s.team k).st != .exited
def barRelease (s : State) (gid n : Nat) (cluster : Bool) : State :=
  match s.group? gid with
  | none => s
  | some g =>
    let ks := barTeams s g cluster
    let has := fun k => let t := s.team k; (if cluster then t.arrC else t.arrG).getLsbD n
    if ks.isEmpty || !ks.all has then s
    else ks.foldl (fun s k =>
      let s := s.modTeam k fun t =>
        if cluster then { t with arrC := t.arrC &&& ~~~((1 : BitVec 16) <<< n), irrev := true }
        else { t with arrG := t.arrG &&& ~~~((1 : BitVec 16) <<< n), irrev := true }
      if (s.team k).st == .parked && (s.team k).park != .barrier then s else makeReady s k) s
def barReleaseAll (s : State) (gid : Nat) : State :=
  (List.range 16).foldl (fun s n => barRelease (barRelease s gid n false) gid n true) s

/-- A group has its ticket and nothing staged: what waited for it goes on (R168). -/
def ticketDone (s : State) (g : Group) : State :=
  let s := (s.chains.filter fun x => x.2.gid == some g.gid && x.2.committed && !x.2.ended).foldl (fun s x => clearPresence s x.2) s
  let s := g.teamKeys.foldl (fun s k => s.modTeam k fun t => { t with oiCount := 0 }) s
  makeReadyAll s (g.teamKeys.filter fun k => (s.team k).park == .ticket)
/-- A group receives the ticket: its staged events enter the order as one block, but for those that are performed at other
E9s under U, which are sent then (R168, R410), and its spills go on top of their cistern bins, in ticket order (R56). -/
def giveTicket (s : State) (g : Group) : State :=
  let far := fun (c : Nat × Byte) => g.stagedU.contains (lineOf c.1)
  let s := s.setGroup { g with
    ticket := true, staged := g.staged.filter far, stagedS := [], stagedE := [], rmarks := [], drawn := [], restarts := 0 }
  let mine := fun (e : HEntry) => e.drawer == g.gid + 1
  let s := s.modGrid g.seq fun q => { q with cistern := q.cistern.map fun x =>
    (x.1, (x.2.filter fun e => !mine e) ++ (x.2.filter mine).map fun e => { e with drawer := 0 }) }
  let s := writeEvents s none (g.stagedE.filter fun e => !e.any far) (g.staged.filter fun c => !far c) g.stagedS
  if g.stagedU.isEmpty then ticketDone s g else s
/-- A group takes its ticket as far as the lines of its staged stores can be reached (R157, R168, R403, R411). One that its
home E9 refuses is dropped, and the grid fails (log 85). -/
def takeTicket (s : State) (g : Group) : State :=
  let who := ticketAgent g.gid
  let far := fun (c : Nat × Byte) => g.stagedU.contains (lineOf c.1)
  match g.staged.findSome? fun c => (tget? s.nacks (lineOf c.1)).map fun ca => (c.1, ca) with
  | some (l, ca) =>
    let s := failGrid s g.seq ca (g.idx % 2 ^ 32) (BitVec.ofNat 64 (remOff l))
    let keep := fun (c : Nat × Byte) => lineOf c.1 != lineOf l
    let h := { g with staged := g.staged.filter keep, stagedE := g.stagedE.map (·.filter keep), stagedU := g.stagedU.filter fun k => k != lineOf l }
    let s := ({ s with nacks := tdel s.nacks (lineOf l) }).setGroup h
    if g.releasing && h.stagedU.isEmpty then ticketDone s h else s
  | none =>
  if !g.ticket then
    match gates s who (cellLines (g.staged.filter fun c => !far c)) true with
    | some s => s
    | none => giveTicket s g
  else if g.stagedU.isEmpty then s
  else match wrlGate s who (g.staged.filter far) with
    | some s => s
    | none =>
      let s := wrlDone s who (g.staged.filter far)
      ticketDone (s.setGroup { g with staged := [], stagedU := [] }) g
/-- The group at the ticket's index, if it is resident or swapped. -/
def ticketGroup (s : State) (q : Grid) : Option Group :=
  (gridGroups s q.seq).find? fun g => g.idx == q.tick && (g.st == .resident || g.st == .swapped)
/-- The group at the ticket's index of an ordered grid receives it (R168). -/
def ticketTo (s : State) (seq : Nat) : State :=
  match (s.grid? seq).bind fun q => if q.det then ticketGroup s q else none with
  | some g => takeTicket s g
  | none => s
/-- Groups whose ticket has come try again to take it (R168). -/
def settleTickets (s : State) : State := (s.grids.filter fun x => x.2.det).foldl (fun s x => ticketTo s x.1) s
def passTicket (s : State) (g : Group) : State :=
  match s.grid? g.seq with
  | none => s
  | some q =>
    if q.det && g.ticket then ticketTo (s.setGrid { q with tick := g.idx + 1 }) g.seq else s

/-- A team exits: its slot and registers are returned; the last one leaves the group draining, which may release the
barriers of the cluster (R29, R33, R34, R268). -/
def exitTeam (s : State) (tk : Nat) : State :=
  let t := s.team tk
  let s := releaseExcl (releasePipe s tk) tk
  let s := { s with teams := tdel s.teams tk, dies := dropTeam s.dies tk }
  match s.group? t.gid with
  | none => s
  | some g =>
    if g.teamKeys.all fun k => (s.team k).st == .free then
      let s := passTicket (s.setGroup { g with st := .draining }) { g with st := .draining }
      match g.mate with | some m => barReleaseAll s m | none => s
    else barReleaseAll s t.gid
/-- Stops a group: its uncommitted work is taken back and it drains (R388, R390). -/
def stopGroup (s : State) (gid : Nat) : State :=
  match s.group? gid with
  | none => s
  | some g =>
    if g.st == .draining then s
    else
      let s := g.teamKeys.foldl (fun s k =>
        let t := s.team k
        let s := if t.st == .swapped then s else if t.regions.isEmpty then dropAsks (dropPipe s k) k else rollbackTo s k 0
        let s := releaseExcl s k
        let s : State := { s with teams := tdel s.teams k }
        { s with faultWait := s.faultWait.filter (fun f => f.tk != k || f.tag.isSome),
                 dies := dropTeam s.dies k }) s
      let s := { s with saveBusy := s.saveBusy.filter fun x => x.1 != gid }
      s.modGroup gid fun g => { g with st := .draining, staged := [], stagedS := [], stagedE := [], stagedU := [], rmarks := [], drawn := [] }
/-- Stops every group of a grid, which completes as failed when they are freed (R390). -/
def stopGrid (s : State) (seq cause info : Nat) (addr : Word) : State :=
  let s := failGrid s seq cause info addr
  let gs := gridGroups s seq
  let s := gs.foldl (fun s g => stopGroup s g.gid) s
  let s := { s with handed := s.handed.filter fun x => x != seq }
  let s := s.modGrid seq fun q => { q with next := gridTotal q, left := gs.length }
  if gs.isEmpty then finishGrid s seq else s
/-- A context halts (R388). R68 asks the record to name the context: R383's record has no field for it, so QUEUE, whose CTX
it is, names it, and INFO the group (DESIGN CHOICE, log 71). -/
def haltContext (s : State) (ctx : Nat) (grid : Option Grid) (cause info : Nat) (addr : Word) : State :=
  let s := journalEvent s grid true cause info 0 0 addr
  let seqs := (s.grids.filter fun x => x.2.ctx == ctx).map (·.1)
  let s := seqs.foldl (fun s q => stopGrid s q cause info addr) s
  let d := s.sched.ctxbase + 128 * ctx
  let s := physWrite s d (leBytes 8 (readPhysN s d 8 / 2 * 2))
  { s with queues := tputAll s.queues (((List.range 64).filter fun i => (s.queue i).ctx == ctx).map fun i =>
      (i, { s.queue i with halt := true })) }

/-- What logging or replaying a choice answers: it stands, it waits for its turn, or its grid has been stopped. -/
inductive Logged where
  | ok (s : State)
  | wait
  | stopped (s : State)
/-- Stops a grid whose order log is full or cannot be followed, and halts its queue (R381, R382). -/
def logStop (s : State) (q : Grid) (cause status : Nat) : State :=
  let s := s.modGrid q.seq fun g => { g with status := if g.status = 0 then status else g.status }
  let s := stopGrid s q.seq cause 0 0
  let x := s.queue q.queue
  s.setQueue q.queue { x with halt := true }
/-- The entries of an order log from a place on, by kind, die and SEQ, up to one that no machine has written (R381). -/
def logRest (s : State) (x : Queue) : Nat → Nat → List (Nat × Nat × Nat)
  | 0, _ => []
  | n + 1, at_ =>
    let h := readPhysN s (x.logbase + at_) 8
    let len := 8 * bits h 8 8
    if x.logsize < at_ + 8 || len = 0 || bits h 0 8 = 0 || decide (6 < bits h 0 8) then []
    else (bits h 0 8, bits h 16 3, bits h 32 32) :: logRest s x n (at_ + len)
/-- Whether a replayed choice can still match an entry of its log: one of its kind, die and grid stands at the place
reached or beyond; else it diverges (R61, R382; log 12). -/
def logAhead (s : State) (qn seq kind die : Nat) : Bool :=
  let x := s.queue qn
  (logRest s x ((x.logsize - x.logptr) / 8) x.logptr).contains (kind, die, seq % 2 ^ 32)
/-- The header doubleword of an order-log entry of some doublewords (R381). -/
def logHead (kind n die seq : Nat) : Nat := kind + 2 ^ 8 * (n % 256) + 2 ^ 16 * die + 2 ^ 32 * (seq % 2 ^ 32)
/-- The teams of a grid that a replayed choice keeps in TAKE try again (R61). -/
def wakeReplay (s : State) (seq : Nat) : State :=
  makeReadyAll s (teamsWhere s fun _ t => t.park == .take && t.wait.toks == 1 &&
    (t.st == .parked || t.st == .swapped) && ((s.group? t.gid).map fun g => g.seq == seq).getD false)
/-- An order-sensitive choice under a queue: appended to its order log, or in replay matched against the next entry;
`stop` ends what cannot be logged or followed (R381, R382). -/
def orderLogAt (s : State) (qn : Nat) (replay : Bool) (seq kind die : Nat) (vals : List Nat) (stop : State → Nat → Nat → State) : Logged :=
  let x := s.queue qn
  let pay := Config.logPayload vals
  let n := 8 * (1 + pay.length)
  let head := logHead kind (1 + pay.length) die seq
  let body := pay.map (·.toNat)
  let at_ := x.logbase + x.logptr
  if replay then
    let h := readPhysN s at_ 8
    if !logAhead s qn seq kind die then .stopped (stop s 0xF1 0)
    else if h = head && (List.range pay.length).map (fun i => readPhysN s (at_ + 8 + 8 * i) 8) = body then
      .ok (wakeReplay (s.setQueue qn { x with logptr := x.logptr + n }) seq)
    else .wait
  else if x.logsize < x.logptr + n then .stopped (stop s 0 0x0C)
  else .ok ((physWrite s at_ (dwBytes (head :: body))).setQueue qn { x with logptr := x.logptr + n })
/-- A choice of a grid; in replay a TAKE that waits for its turn is tried again (R61, R381, R382). -/
def orderLog (s : State) (seq kind die : Nat) (vals : List Nat) : Logged :=
  match s.grid? seq with
  | none => .ok s
  | some q => if !q.det then .ok s else orderLogAt s q.queue q.replay seq kind die vals fun s cause status => logStop s q cause status
/-- What the order log of a replayed grid says next. -/
inductive LogNext where
  /-- the grid is not replayed -/
  | free
  /-- a choice of this kind and die: its payload and the bytes of its entry -/
  | entry (pay : List Word) (n : Nat)
  /-- another choice is next -/
  | wait
  /-- it cannot be followed (R382) -/
  | diverge
/-- The next entry, for a choice of a kind on a die (R61, R382). -/
def logNext (s : State) (seq kind die : Nat) : LogNext :=
  match s.grid? seq with
  | none => .free
  | some q =>
    if !(q.det && q.replay) then .free
    else
      let x := s.queue q.queue
      let at_ := x.logbase + x.logptr
      let h := readPhysN s at_ 8
      if !logAhead s q.queue seq kind die then .diverge
      else if bits h 0 8 ≠ kind || bits h 32 32 ≠ seq % 2 ^ 32 || bits h 16 3 ≠ die then .wait
      else .entry ((List.range (bits h 8 8 - 1)).map fun i => BitVec.ofNat 64 (readPhysN s (at_ + 8 + 8 * i) 8)) (8 * bits h 8 8)
/-- The next entry has been followed. -/
def logPassed (s : State) (seq n : Nat) : State :=
  match s.grid? seq with
  | none => s
  | some q => let x := s.queue q.queue; wakeReplay (s.setQueue q.queue { x with logptr := x.logptr + n }) seq

/-- The context of a fault is switched out on a core when the teams there that are parked on a fault, but for those whose
save is decided, exceed FPTHR percent (R391). -/
def switchOut (s : State) (c ctx : Nat) : State :=
  let here := teamsWhere s fun k t => t.resident && !isCtl k && teamCore s k == c && !saveDecided s k
  let faulted := here.filter fun k => (s.team k).park == .fault && (s.team k).st == .parked
  let p := s.sched.fpthr.toNat
  if p ≤ 99 && decide (p * here.length < 100 * faulted.length) then
    let gs := (s.groups.filter fun x => x.2.core == c && x.2.ctx == ctx && x.2.st == .resident && !s.saveBusy.contains (x.1, 16)).map (·.1)
    { s with saveBusy := s.saveBusy ++ gs.map fun g => (g, 16) }
  else s
/-- The first free fault tag (R389). -/
def freeTag (s : State) : Option Nat :=
  (List.range (s.tags.length + 1)).find? fun i => decide (i < Config.numTags) && !s.tags.any fun x => x.tag == i
/-- Words of the run that has been cut off and that have arrived reach the registers, as at any run end (R180, R182). -/
def applyCut (t : Team) : Team := (t.inflight.filter fun f => f.arrived && !f.applied && f.run != t.run).foldl applyInflight t
/-- Ends the run of a trapping team where it stands. -/
def cutRun (s : State) (tk : Nat) : State :=
  (dropAsks (dropPipe s tk) tk).modTeam tk fun t =>
    applyCut { t with t := [], run := t.run + 1, runWords := 0, inRun := false, susp := false, pend := none, irrev := false,
                      refill := none, st := .ready, park := .none, readyAt := t.clk, bufErr := none, wantLines := [],
                      placed := none, lanesDone := [] }
/-- A team that faults goes back to the waymark of its oldest region, or to its word; a run start is checked again when it
resumes there (R151, R179, R308). -/
def backFor (s : State) (tk : Nat) : State :=
  let start := atStart (s.team tk)
  if (s.team tk).regions.isEmpty then (cutRun s tk).modTeam tk fun t => { t with pc := t.wordPc, waymarked := !start }
  else rollbackTo s tk 0
/-- A fault goes to the driver: the team stands at its waymark, parked under a tag (R389). -/
def routeDriver (s : State) (tk cause kind : Nat) (addr : Word) : State :=
  let s := backFor s tk
  let t := s.team tk
  let g := teamGroup s tk
  let c := teamCore s tk
  let tag := if s.faultWait.any fun f => f.tag.isNone then none else freeTag s
  let s := match tag with
    | some n => { s with tags := s.tags ++ [TagHold.mk n tk] }
    | none => s
  let s := s.modTeam tk fun t => { t with tag := tag, faultAddr := addr, faultCause := cause }
  let s := parkTeam s tk .fault ⟨0, 0⟩ false
  let s := { s with faultWait := s.faultWait ++
    [{ tk := tk, tag := tag, ctx := teamCtx s tk, die := dieOfCore c, core := c % 96, cause := cause, kind := kind,
       addr := addr, regcnt := t.regcnt, group := ((g.map (·.idx)).getD 0) % 2 ^ 32,
       seq := ((g.map (·.seq)).getD 0) % 2 ^ 32, teami := t.teami }] }
  switchOut s c (teamCtx s tk)
/-- The causes of route D (R387). -/
def isDriverCause (c : Nat) : Bool := decide (0x18 ≤ c) && decide (c ≤ 0x1C)
def isFaultCause (c : Nat) : Bool := decide (0x10 ≤ c)
/-- The entry into the handler (R308), or on a controller into its image's handler (R309, R418). -/
def enterHandler (s : State) (tk cause : Nat) (addr : Word) (detail hi : Nat) : State :=
  let start := cause = cTRAP || atStart (s.team tk)
  let way := if cause = cTRAP ∨ (s.team tk).regions.isEmpty then !start else (((s.team tk).regions.head?.map fun r => !r.wm.start).getD false)
  let s := if cause = cTRAP ∨ (s.team tk).regions.isEmpty then cutRun s tk else rollbackTo s tk 0
  s.modTeam tk fun t =>
    { t with ssw := tswBits t, spc := if cause = cTRAP ∨ !t.regions.isEmpty then t.pc else t.wordPc,
             scause := BitVec.ofNat 32 cause, saddr := addr,
             sinfo := BitVec.ofNat 64 (t.regcnt.toNat + 2 ^ 16 * (detail % 2 ^ 16) + 2 ^ 32 * (hi % 2 ^ 32)),
             spcW := false, spcWay := way, lvl := true, pc := t.hvec, waymarked := false, pendFault := none }
/-- A fault reported to a parked team that takes it in its handler: its cause becomes FAULT, it goes back and stays parked
(R30). -/
def faultParked (s : State) (tk cause : Nat) (addr : Word) : State :=
  (parkTeam (backFor s tk) tk .fault ⟨0, 0⟩ false).modTeam tk fun t => { t with pendFault := some (cause, addr, false) }
/-- Teams that a fault found parked enter their handlers at the event after it (R30, R308). -/
def settleFaults (s : State) : State :=
  (teamsWhere s fun _ t => t.pendFault.isSome && t.st == .parked).foldl (fun s k =>
    match (s.team k).pendFault with
    | some (c, a, true) => enterHandler s k c a 0 0
    | some (c, a, false) => s.modTeam k fun t => { t with pendFault := some (c, a, true) }
    | none => s) s
/-- An event reaches a controller's latch or ends its wait (R315). -/
def ctlSignal (s : State) (c : Nat) : State :=
  let x := s.ctl c
  if x.st == .waiting then
    (s.setCtl c { x with st := .running }).modTeam (ctlKey c) fun t => { t with st := .ready, park := .none }
  else s.setCtl c { x with latch := true }
/-- A controller halts with a fault: STEWST.FAULT is set and the lockkeeper signalled (R418, R433). -/
def haltCtl (s : State) (c : Nat) : State :=
  let s := (cutRun s (ctlKey c)).modTeam (ctlKey c) fun t => { t with st := .parked }
  let s := s.setCtl c { s.ctl c with st := .halted }
  let s := if c = 0 then s else { s with lock := { s.lock with stewst := tput s.lock.stewst c (tget 0 s.lock.stewst c ||| 2) } }
  ctlSignal s 0
/-- A trap or fault of a team or controller at a word (R307 to R309, R387). -/
def trapEntry (s : State) (tk cause : Nat) (addr : Word) (detail : Nat := 0) (hi : Nat := 0) (kind : Nat := 0) : State :=
  let s := if isFaultCause cause then { s with nacks := [] } else s
  let t := s.team tk
  if isCtl tk then
    if t.lvl || t.hvec == 0 then haltCtl s (tk - 2 ^ 60)
    else enterHandler s tk cause addr detail hi
  else
    let info := ((teamGroup s tk).map (·.idx)).getD 0 % 2 ^ 32
    if t.lvl then haltContext s (teamCtx s tk) (teamGrid s tk) cHANDLER info addr
    else if isDriverCause cause then routeDriver s tk cause kind addr
    else if t.hvec == 0 then
      if isFaultCause cause then routeDriver s tk cause kind addr
      else haltContext s (teamCtx s tk) (teamGrid s tk) cause info addr
    else enterHandler s tk cause addr detail hi

end Sys2Proof.Machine
end

