-- ==== Sys2Proof/Machine/Fetch.lean ====
section
/-! DEFINITION. Instruction fetch, the run-start map, and the static checks of a run (R131, R178 to R181, R190, R191). -/
namespace Sys2Proof.Machine

/-- A code segment: base, bytes, and the base of its run-start map (R179). -/
structure Seg where
  base : Nat
  size : Nat
  map : Nat
  deriving DecidableEq, Repr
def segOf (s : State) (tk : Nat) : Seg :=
  if isCtl tk then let c := s.ctl (tk - 2 ^ 60); ⟨c.codebase, c.codesz, c.mapbase⟩
  else match teamGrid s tk with
    | some g => ⟨lrCodeBase g.lrec, lrCodeSz g.lrec, lrMapBase g.lrec⟩
    | none => ⟨0, 0, 0⟩

/-- A fetched number, or the cause of a fetch fault. -/
inductive Fetched where
  | ok (w : Nat)
  | fault (cause : Nat)
  deriving DecidableEq, Repr
/-- A byte of code that was not copied at a grid's launch: memory as it stood then, if the grid keeps it (R131, log 62). -/
def launchByte (s : State) (q : Option Grid) (l : Nat) : Byte :=
  match q.bind (·.image) with
  | some m => if isRemote l then (tget? m.2 l).getD (readMem s l) else tget Memory.unlisted m.1 l
  | none => readMem s l
/-- Four bytes of code or map. A grid fetches its code as it stood at its launch (R131); a controller fetches from its
own SRAM (R416). -/
def fetch32 (s : State) (tk va : Nat) : Fetched :=
  if isCtl tk then
    match physLoc va with
    | some l => .ok (readMemN s l 4)
    | none => .fault cACCESS
  else
    match xlate s (teamCore s tk) (teamAs s tk) va .fetch with
    | .fault c => .fault c
    | .ok p =>
      let q := teamGrid s tk
      let ic := (q.map (·.icache)).getD []
      .ok (leVal ((List.range 4).map fun i => (tget? ic (va + i)).getD (launchByte s q (p.loc + i))))
/-- The run-start map bit of an address of the segment (R179). -/
def mapBit (s : State) (tk va : Nat) : Fetched :=
  let g := segOf s tk
  match fetch32 s tk (g.map + 4 * ((va - g.base) / 128)) with
  | .ok w => .ok (bits w ((va - g.base) / 4 % 32) 1)
  | .fault c => .fault c
def inSeg (g : Seg) (va : Nat) : Bool := decide (g.base ≤ va) && decide (va < g.base + g.size)

/-- The instruction at an address and its words, or none, or a fetch fault at an address. -/
inductive FetchI where
  | ok (i : Instr) (n : Nat)
  | bad
  | fault (cause va : Nat)
  deriving DecidableEq, Repr
/-- Words of the segment from an address, as many as it has up to n. -/
def fetchWords (s : State) (tk : Nat) : Nat → Nat → List W32 × Option (Nat × Nat)
  | 0, _ => ([], none)
  | n + 1, va =>
    if !inSeg (segOf s tk) va then ([], none)
    else match fetch32 s tk va with
      | .fault c => ([], some (c, va))
      | .ok w => let (r, f) := fetchWords s tk n (va + 4); (BitVec.ofNat 32 w :: r, f)
def fetchInstr (s : State) (tk va : Nat) : FetchI :=
  let (ws, f) := fetchWords s tk 1 va
  match ws with
  | [] => match f with | some (c, a) => .fault c a | none => .bad
  | _ =>
    match decode ws with
    | .ok i n => .ok i n
    | .error _ =>
      let (ws, f) := fetchWords s tk 3 va
      match decode ws with
      | .ok i n => .ok i n
      | .error _ => match f with | some (c, a) => .fault c a | none => .bad

/-- A control transfer or run-ending word (R181). -/
def isControl : Instr → Bool
  | .bra _ | .brc _ | .bmz _ | .bmnz _ | .call _ | .ret _ | .jmpi _ | .mwhile _ | .exit _ | .yield _ | .waitcy _
  | .trap _ | .tret _ | .wfe _ | .halt _ => true
  | _ => false
/-- Opcodes that exist on controllers only (R191). -/
def esOnly : Instr → Bool
  | .ldio _ | .stio _ | .wfe _ | .halt _ => true
  | _ => false
/-- The register names a word of the ES profile uses, or none where the profile lacks the word (R191). -/
def esRegs : Instr → Option (List Reg)
  | .iadd f | .isub f | .imul f | .imulhI f | .imulhN f | .imad f | .idivI f | .idivN f | .iremI f | .iremN f
  | .iminI f | .iminN f | .imaxI f | .imaxN f | .iaddsI f | .iaddsN f | .isubsI f | .isubsN f | .andR f | .orR f
  | .xorR f | .andn f | .shl f | .shr f | .sar f | .rol f | .ror f => some [f.d, f.a, f.b]
  | .ineg f | .iabs f | .notR f | .popc f | .clz f | .ctz f | .brev f | .mov f => some [f.d, f.a]
  | .movKill f => some [f.d]
  | .bfx f | .bfi f => some [f.d, f.a]
  | .iaddImm f | .isubImm f | .imulImm f | .andImm f | .orImm f | .xorImm f | .shlImm f | .shrImm f | .sarImm f =>
    some [f.d, f.a]
  | .movi f => some [f.d]
  | .movl f => some [f.d]
  | .lea f => some [f.d, f.a, f.b]
  | .bra _ | .brc _ => some []
  | .call f => some [f.d]
  | .ret f | .jmpi f | .waitcy f => some [f.a]
  | .ld f | .st f => some [f.d, f.a]
  | .ldOffset f | .stOffset f => some [f.d, f.a]
  | .nop _ | .trl _ | .trap _ | .tret _ | .wfe _ | .halt _ => some []
  | .rdsr f | .wrsr f => some [f.d]
  | .ldio f | .stio f => some [f.d, f.a]
  | _ => none
/-- Status registers of controllers (R312). -/
def esSr (n : Nat) : Bool := n == 0 || n == 2 || n == 3 || n == 4 || (decide (0x20 ≤ n) && decide (n ≤ 0x29)) || n == 0x30
def coreSr (n : Nat) : Bool := n != 0x30
/-- The register classes of the words of the ES profile, on which every register is scalar: a result that arrives late
takes no temporary (R69), a uniform register is written from an s register (R311), LDIO and STIO and the control
transfers name s registers alone (R176, R314). -/
def esOk : Instr → Bool
  | .ld f => isS f.d
  | .ldOffset f => isS f.d
  | .ldio f | .stio f => isS f.d && isS f.a
  | .rdsr f => esSr f.i.toNat
  | .wrsr f => esSr f.i.toNat && isS f.d
  | .movKill f => !isT f.d
  | .call f => isS f.d
  | .ret f | .jmpi f | .waitcy f => isS f.a
  | _ => true
/-- What the launch fixes and a word may need (R27, R42, R47, R299). -/
def launchOk (g : Group) : Instr → Bool
  | .split f => g.hlog != 0 &&
      (if f.w then f.a.toNat % 2 == 0 && (List.range g.frame.length).any fun i =>
          nth 128 g.frame i == f.a.toNat && nth 128 g.frame (i + 1) == f.a.toNat + 1
       else g.frame.contains f.a.toNat)
  | .fork _ | .take _ => g.hlog != 0
  | .barc _ | .mmaPair _ | .mmarPair _ => g.mate.isSome
  | .macq f => f.b == 0 || (g.mate.isSome && g.clpos == 0)
  | _ => true
/-- The static causes of R190 that one word can show. -/
def wordOk (s : State) (tk : Nat) (i : Instr) : Bool :=
  !i.isEvent && i.fieldsOk &&
  (if isCtl tk then (match esRegs i with | some rs => rs.all fun r => !isV r | none => false) && esOk i
   else i.classOk && !esOnly i && (match i with | .rdsr f | .wrsr f => coreSr f.i.toNat | _ => true) &&
     match teamGroup s tk with | some g => launchOk g i | none => true)

/-- The decoding of a run before its first word issues: fine, or the lowest word that is ILLEGAL, or a fetch fault. -/
inductive RunChk where
  | ok
  | illegal (va : Nat)
  | fault (cause va : Nat)
  deriving DecidableEq, Repr
/-- The address of the run-start mask of a code address (R179). -/
def mapAddr (s : State) (tk va : Nat) : Nat := (segOf s tk).map + 4 * ((va - (segOf s tk).base) / 128)
/-- Map bits of words va to va + 4·n − 4 that do not begin the run (R179). -/
def mapClear (s : State) (tk : Nat) : Nat → Nat → RunChk
  | 0, _ => .ok
  | n + 1, va =>
    match mapBit s tk va with
    | .fault c => .fault c (mapAddr s tk va)
    | .ok b => if b = 1 then .illegal va else mapClear s tk n (va + 4)
/-- The word at an address bears the OPC of TRL, be it well formed or not (R180). -/
def trlAt (s : State) (tk va : Nat) : Bool :=
  inSeg (segOf s tk) va && match fetch32 s tk va with
    | .ok w => wordOpc (BitVec.ofNat 32 w) == 0x381
    | .fault _ => false
/-- Checks the words of a run from an address; `left` words may still come (R178, R181, R190). -/
def checkRun (s : State) (tk : Nat) : Nat → Nat → Nat → Bool → RunChk
  | 0, _, _, _ => .ok
  | n + 1, va, left, first =>
    if !inSeg (segOf s tk) va then .illegal va
    else
    match (if first then RunChk.ok else mapClear s tk 1 va) with
    | .illegal a => .illegal a
    | .fault c a => .fault c a
    | .ok =>
      match fetchInstr s tk va with
      | .fault c a => .fault c a
      | .bad => .illegal va
      | .ok i k =>
        if !wordOk s tk i then .illegal va
        else if left < k then .illegal va
        else match mapClear s tk (k - 1) (va + 4) with
          | .illegal a => .illegal a
          | .fault c a => .fault c a
          | .ok =>
            if i.ebit then .ok
            else if isControl i then
              match fetchInstr s tk (va + 4 * k) with
              | .fault c a => .fault c a
              | .ok (.trl _) _ => checkRun s tk n (va + 4 * k) (left - k) false
              | _ => .illegal (if trlAt s tk (va + 4 * k) then va + 4 * k else va)
            else checkRun s tk n (va + 4 * k) (left - k) false

end Sys2Proof.Machine
end

