-- ==== Sys2Proof/Machine/Effects.lean ====
section
/-! DEFINITION. The end of a run: results that have arrived, the wait of the trailer or of the tokens, and the effect
of the run's control word, among them the return from a trap (R180 to R184, R210 to R218, R307, R310, R315). -/
namespace Sys2Proof.Machine

/-- Forgets the arrived words whose token a run end awaited. -/
def forgetAwaited (t : Team) (m : BitVec 8) : Team :=
  { t with inflight := t.inflight.filter fun f => !(f.applied && (match f.tok with | some k => m.getLsbD k | none => true)) }

/-- A ready team at a cycle; its pipe is free again. -/
def becomeReady (s : State) (tk c : Nat) : State :=
  (releasePipe s tk).modTeam tk fun t =>
    { t with st := .ready, park := .none, wait := ⟨0, 0⟩, readyAt := c, age := 0, pend := none, irrev := false }
/-- The conditions of RET, JMPI and TRET on a target (R179, R213). -/
def targetOk (s : State) (tk : Nat) (a : Word) : Bool :=
  a.toNat % 4 == 0 && inSeg (segOf s tk) a.toNat && (mapBit s tk a.toNat == .ok 1)
/-- The target of an IMM14 transfer (R181). -/
def immTarget (t : Team) (i : BitVec 14) : Word := t.pendPc + BitVec.ofInt 64 (4 * i.toInt)
def goto (s : State) (tk : Nat) (a : Word) (c : Nat) : State := becomeReady (s.modTeam tk fun t => { t with pc := a }) tk c
/-- Lanes of a team become vacant, at every mask level, with the helpers of quads that hold no live lane (R15). -/
def vacate (t : Team) (m : Mask) : Team :=
  let live := t.live &&& ~~~m
  let keepQuad := (List.range (t.width / 4)).foldl (fun (k : Mask) q =>
    if (live >>> (4 * q)) &&& 15#1024 != 0 then k ||| (15#1024 <<< (4 * q)) else k) 0
  let hlp := t.helper &&& ~~~m &&& keepQuad
  let occ := live ||| hlp
  { t with live := live, helper := hlp, mask := t.mask &&& occ, stack := t.stack.map fun x => x &&& occ }
/-- The trapping of a control word at its own address. -/
def trapControl (s : State) (tk cause detail : Nat) : State :=
  let s := s.modTeam tk fun t => { t with wordPc := t.pendPc }
  trapEntry s tk cause (s.team tk).pendPc detail
/-- The wait of an irrevocable control word for older regions and for the ticket; none: it may act (R153, R168). -/
def controlWait (s : State) (tk : Nat) : Option State :=
  let s := if (s.team tk).regions.isEmpty then s else closeOpen s tk
  if !(s.team tk).regions.isEmpty then some (parkTeam s tk .commit ⟨0, 0⟩ false)
  else if unticketed s (s.team tk).gid then some (parkTeam s tk .ticket ⟨0, 0⟩ false)
  else none
/-- The wait itself closes the open region even where nothing else has to be awaited. -/
def closedFor (s : State) (tk : Nat) : State := if (s.team tk).regions.isEmpty then s else closeOpen s tk

/-- EXIT (R214). -/
def effExit (s : State) (tk c : Nat) : State :=
  match controlWait s tk with
  | some s => s
  | none =>
    let s := closedFor s tk
    let s := s.modTeam tk fun t => { vacate t t.mask with oiCount := 0 }
    let t := s.team tk
    if t.live == 0 && t.helper == 0 then
      if t.tok != 0 then parkTeam s tk .tokens ⟨t.tok, 0⟩ false else exitTeam s tk
    else becomeReady (s.modTeam tk fun t => enterRegion t t.pc) tk c
/-- SPC still holds what the entry into the handler saved, and that is an address inside a run: a waymark, or the word that
faulted; it is resumed at under R184 (R179, R308, R310). -/
def spcWaymark (t : Team) : Bool := !t.spcW && t.spcWay
/-- The state a valid TRET leaves (R310); MDEPTH agrees already, and OPEN counts the regions as they stand (log 18). -/
def tretTeam (t : Team) : Team :=
  let w := t.ssw.toNat
  { t with lvl := false, wb := bits w 8 4, careful := bits w 15 1 == 1, regcnt := BitVec.ofNat 16 (bits w 16 16),
           metered := bits w 32 1 == 1, ordered := bits w 33 1 == 1, pev := bits w 34 1 == 1,
           prio := bits w 36 2, tswRes := 0, pc := t.spc, waymarked := spcWaymark t }
def tretBad (s : State) (tk : Nat) : Bool :=
  let t := s.team tk
  let w := t.ssw.toNat
  w / 2 ^ 38 != 0 || decide (13 < bits w 8 4) || (t.spcW && !targetOk s tk t.spc) || t.stack.length != bits w 0 7
def effTret (s : State) (tk c : Nat) : State :=
  let t := s.team tk
  if !t.lvl then trapControl s tk cILLEGAL 0
  else if tretBad s tk then
    if isCtl tk then trapControl s tk cSBAD 0
    else haltContext s (teamCtx s tk) (teamGrid s tk) cSBAD (((teamGroup s tk).map (·.idx)).getD 0 % 2 ^ 32) t.pendPc
  else
    let pc := t.spc
    let way := spcWaymark t
    let s := becomeReady (s.modTeam tk tretTeam) tk c
    s.modTeam tk fun t => { t with pc := pc, waymarked := way }
/-- RET and JMPI (R213). -/
def effJump (s : State) (tk c : Nat) (r : Reg) : State :=
  let t := s.team tk
  let a := readReg t c 0 r
  match mapBit s tk a.toNat with
  | .fault f => if a.toNat % 4 == 0 && inSeg (segOf s tk) a.toNat
                then trapEntry (s.modTeam tk fun t => { t with wordPc := t.pendPc }) tk f (BitVec.ofNat 64 ((segOf s tk).map + 4 * ((a.toNat - (segOf s tk).base) / 128))) 0 0 2
                else trapControl s tk cILLEGAL 0
  | .ok _ => if targetOk s tk a then goto s tk a c else trapControl s tk cILLEGAL 0
/-- MWHILE (R218). -/
def effMwhile (s : State) (tk c : Nat) (f : FC) : State :=
  let t := s.team tk
  let ts := (lanesOf t.width t.mask).foldl (fun (m : Mask) l => if readPred t l f.d == .t then m ||| (1 <<< l) else m) 0
  if ts != 0 then goto (s.setTeam tk { t with mask := ts }) tk (immTarget t f.i) c
  else match t.stack with
    | [] => trapControl s tk cMASK 0
    | m :: r => becomeReady (s.setTeam tk { t with mask := m, stack := r }) tk c
/-- WAITCY (R216). -/
def effWaitcy (s : State) (tk c : Nat) (r : Reg) : State :=
  let v := (readReg (s.team tk) c 0 r).toNat
  if v ≤ c then becomeReady s tk c
  else parkTeam (s.modTeam tk fun t => { t with pend := none }) tk .cycle ⟨0, v⟩ false
/-- WFE (R315). -/
def effWfe (s : State) (tk c : Nat) : State :=
  let x := s.ctl (tk - 2 ^ 60)
  let s := becomeReady s tk c
  if x.latch then s.setCtl (tk - 2 ^ 60) { x with latch := false }
  else (s.setCtl (tk - 2 ^ 60) { x with st := .waiting }).modTeam tk fun t => { t with st := .parked }
def effHalt (s : State) (tk c : Nat) : State :=
  let x := s.ctl (tk - 2 ^ 60)
  ((becomeReady s tk c).setCtl (tk - 2 ^ 60) { x with st := .halted }).modTeam tk fun t => { t with st := .parked }

/-- The effect of a run's control word at a cycle, when the run's wait has ended (R181). -/
def takeEffect (s : State) (tk c : Nat) : State :=
  let t := s.team tk
  match t.pend with
  | some (.bra f) => goto s tk (immTarget t f.i) c
  | some (.brc f) => goto s tk (if condHolds t.cc f.d.toNat then immTarget t f.i else t.pc) c
  | some (.bmz f) => goto s tk (if summary t == 0 then immTarget t f.i else t.pc) c
  | some (.bmnz f) => goto s tk (if summary t != 0 then immTarget t f.i else t.pc) c
  | some (.call f) => goto (s.setTeam tk (writeRegs t (regW t 0 f.d t.pc))) tk (immTarget t f.i) c
  | some (.ret f) => effJump s tk c f.a
  | some (.jmpi f) => effJump s tk c f.a
  | some (.mwhile f) => effMwhile s tk c f
  | some (.exit _) => effExit s tk c
  | some (.yield _) => becomeReady s tk c
  | some (.waitcy f) => effWaitcy s tk c f.a
  | some (.trap f) =>
    match controlWait s tk with
    | some s => s
    | none =>
      let s := trapEntry ((closedFor s tk).modTeam tk fun t => { t with oiCount := 0 }) tk cTRAP t.pendPc f.i.toNat
      if (s.team tk).lvl && !isCtl tk then s.modTeam tk fun t => enterRegion t t.pc else s
  | some (.tret _) => effTret s tk c
  | some (.wfe _) => effWfe s tk c
  | some (.halt _) => effHalt s tk c
  | _ => becomeReady s tk c

/-- The end of a run at its E word (R180): `await` is the mask of a trailer. -/
def endRun (s : State) (tk : Nat) (await : Option (BitVec 8)) (next : Word) : State :=
  let s := s.modTeam tk fun t =>
    let t := applyCut { t with inRun := false, t := [], run := t.run + 1, runWords := 0, susp := false, pc := next,
                                   waymarked := false, irrev := false }
    forgetAwaited t (await.getD 255)
  let t := s.team tk
  let out := t.tok &&& await.getD 255
  if out = 0 then takeEffect s tk (t.clk - 1)
  else parkTeam s tk (if await.isSome then .trailer else .tokens) ⟨out, 0⟩ false
/-- A token wait has ended at a cycle: the control word acts, and the team is ready in the cycle after, its run being over
(R30, R350); a swap that was decided wins (R32). -/
def wakeTokens (s : State) (tk c : Nat) : State :=
  let t := s.team tk
  if t.st == .parked && (t.park == .trailer || t.park == .tokens) && (t.tok &&& t.wait.toks) == 0 then
    if saveDecided s tk then s.setTeam tk (setPev t true) else takeEffect s tk (max (c + 1) (t.clk - 1))
  else s

/-- Whether every register a word writes late is known, it has arrived: its token frees, and its results reach the
registers unless its run still goes on (R76, R182). -/
def arrive (s : State) (tk id c : Nat) : State :=
  let t := s.team tk
  match t.inflight.find? fun f => f.id == id && !f.arrived with
  | none => s
  | some f =>
    let t := { t with inflight := t.inflight.map fun (g : Inflight) => if g.id == id then { g with arrived := true } else g }
    let t := { t with tok := tokBits t.inflight }
    let t := if f.run != t.run then applyInflight t { f with arrived := true } else t
    let t := if t.park == .trailer || t.park == .tokens then forgetAwaited t t.wait.toks else t
    wakeTokens (s.setTeam tk t) tk c
/-- A word that wrote nothing and waits for nothing any more, by its place in flight. -/
def arriveWhere (s : State) (tk : Nat) (p : Inflight → Bool) : State :=
  let t := s.team tk
  (t.inflight.filter fun f => p f && !f.arrived).foldl (fun s f => arrive s tk f.id (max (teamCyc s tk) t.clk)) s

end Sys2Proof.Machine
end

