-- ==== Sys2Proof/Machine/Issue.lean ====
section
/-! DEFINITION. Issuing one word of a run: the hazard and refill checks before it, its cycles, what follows its effect,
and the start of a run (R21 to R24, R67, R174, R178, R183, R184, R190, R346, R347). -/
namespace Sys2Proof.Machine

/-- What the body of a word answers. -/
inductive WRes where
  /-- It acted: cycle of its last pass, cycle after that pass ends, ready figure. -/
  | done (s : State) (f e rdy : Nat)
  /-- The run is held at the word for a cycle; it issues again (R347). -/
  | hold (s : State)
  /-- It parks its team and issues again when the cause is satisfied (R30, R184). -/
  | park (s : State) (c : Park) (w : ParkWait)
  /-- It traps or faults. -/
  | trap (s : State) (cause : Nat) (addr : Word) (detail hi kind : Nat)
  /-- Its team has left the slot. -/
  | gone (s : State)

/-- A word in a later run reads a register whose result no run end has awaited (R183). -/
def hazardReg (t : Team) (r : Reg) : Bool :=
  t.inflight.any fun f => f.run != t.run && !(t.metered && f.exact) &&
    (if isV r then f.vw.any fun x => x.key / 1024 == aReg t r
     else if isS r then f.sw.any fun x => x.key == regNum r else false)
def hazard (t : Team) (srcs : List Reg) : Bool := t.ordered && srcs.any (hazardReg t)
/-- A spilled register among those a word reads, as vector key or, from 2^20, scalar key (R67). -/
def spilledReg (t : Team) (ws : List Nat) (r : Reg) : Option Nat :=
  if isV r then
    (ws.find? fun j => match tget? t.alloc (aReg t r * 32 + j) with | some p => p.spilled | none => false).map
      fun j => aReg t r * 32 + j
  else if isS r then (match tget? t.salloc (regNum r) with | some p => if p.spilled then some (2 ^ 20 + regNum r) else none | none => none)
  else none
def spilledIn (t : Team) (ws : List Nat) (srcs : List Reg) : Option Nat := srcs.findSome? (spilledReg t ws)
/-- The frame registers of a team's group, which SPLIT and FORK read (R43). -/
def frameOf (s : State) (tk : Nat) : List Reg := ((teamGroup s tk).map fun g => g.frame.map (BitVec.ofNat 7)).getD []
def frameRegs (s : State) : List Reg := match s.cur with | some (.team tk) => frameOf s tk | none => []

/-- Physical registers of one file that a team holds, as register key and version: those of its rename map and those its
waymarks name (R66, R353). -/
def heldRegs (t : Team) (now : Tab PhysReg) (at_ : Waymark → Tab PhysReg) : List (Nat × Nat) :=
  (((now ++ t.regions.flatMap fun r => at_ r.wm).filter fun x => !x.2.spilled).map fun x => (x.1, x.2.ver)).eraseDups
def heldVector (t : Team) : List (Nat × Nat) := heldRegs t t.alloc (·.alloc)
/-- Resident teams of a core, slot by slot: packed teams stand together (R23). -/
def slotTeams (s : State) (c : Nat) : List (List Nat) :=
  let here := teamsWhere s fun k t => t.resident && !isCtl k && teamCore s k == c
  let name := fun (k : Nat) => let t := s.team k; (t.gid, t.slot)
  ((here.map name).eraseDups).map fun n => here.filter fun k => name k == n
/-- Physical vector registers that the teams of a slot hold: one physical register serves them all (R65, R353). -/
def physVectors (s : State) (ks : List Nat) : Nat :=
  let l := ks.map fun k => (heldVector (s.team k)).map (·.1)
  ((distinct l.flatten).map fun key => l.foldl (fun m x => max m (x.count key)) 0).sum
def physScalars (s : State) (ks : List Nat) : Nat := (ks.map fun k => (heldRegs (s.team k) (s.team k).salloc (·.salloc)).length).sum
/-- The spill doubleword of a register of a lane (R386). -/
def spillVa (s : State) (t : Team) (n l : Nat) : Nat :=
  bits (((s.group? t.gid).map fun g => g.descDw 3).getD 0) 0 57 + 4096 * t.spillLane + 8 * (n * t.width + l)
/-- Registers of one file of a team that may not be spilled: those its waymarks name, in the file or in the spill region,
whose place they keep (R67). -/
def keptKeys (t : Team) (now : Tab PhysReg) (at_ : Waymark → Tab PhysReg) : List Nat :=
  let named := namedVers t
  (now.filter fun x => x.2.spilled || named.contains x.2.ver).map (·.1) ++
    t.regions.flatMap fun r => ((at_ r.wm).filter fun x => x.2.spilled).map (·.1)
/-- The least recently used of some candidates: last use, teams, register key. -/
def oldestUse (l : List (Nat × List Nat × Nat)) : Option (Nat × List Nat × Nat) :=
  l.foldl (fun b x => match b with
    | none => some x
    | some y => if x.1 < y.1 then some x else b) none
/-- The registers of one file that may be spilled: of slots whose teams do not issue, where no team keeps them (R67). -/
def spillCands (s : State) (units : List (List Nat)) (now : Team → Tab PhysReg) (at_ : Waymark → Tab PhysReg) :
    List (Nat × List Nat × Nat) :=
  (units.filter fun ks => ks.all fun k => (s.team k).st != .issuing).flatMap fun ks =>
    let kept := ks.flatMap fun k => keptKeys (s.team k) (now (s.team k)) at_
    let all := ks.flatMap fun k => now (s.team k)
    ((distinct (all.map (·.1))).filter fun key => !kept.contains key).map fun key =>
      ((all.filter fun x => x.1 == key).foldl (fun m x => max m x.2.stamp) 0, ks, key)
/-- Marks a register as standing in the spill region. -/
def markSpilled (m : Tab PhysReg) (key : Nat) : Tab PhysReg :=
  match tget? m key with
  | some p => tput m key { p with spilled := true }
  | none => m
/-- One team's lanes of a vector register go to the spill region; a fault halts the context (R67, R68). -/
def spillReg (s : State) (c key k : Nat) : State :=
  let t := s.team k
  if (tget? t.alloc key).isNone then s
  else
    let n := key / 32
    let lanes := (List.range 32).filterMap fun b => let l := key % 32 * 32 + b; if l < t.width then some l else none
    let va := spillVa s t n (key % 32 * 32)
    match xlateN s c (teamAs s k) va (8 * lanes.length) .write with
    | .fault _ a => haltContext s (teamCtx s k) (teamGrid s k) cSPILL (((teamGroup s k).map (·.idx)).getD 0 % 2 ^ 32) (BitVec.ofNat 64 a)
    | .ok ps =>
      let bytes := lanes.flatMap fun l => leBytes 8 (tget 0 t.v (vKey n l)).toNat
      let s := memPut s ((ps.map (·.1)).zip bytes)
      s.modTeam k fun t => { t with alloc := markSpilled t.alloc key }
/-- Spills the least recently used register of a core that may be a victim, vector or scalar; the spill region has no
place for scalar registers, whose values stay where they are (R67, log 72). -/
def spillOne (s : State) (c : Nat) : State :=
  match oldestUse (spillCands s (slotTeams s c) (·.alloc) (·.alloc)) with
  | none => s
  | some (_, ks, key) => ks.foldl (fun s k => spillReg s c key k) s
def spillScalar (s : State) (c : Nat) : State :=
  match oldestUse (spillCands s ((slotTeams s c).flatten.map fun k => [k]) (·.salloc) (·.salloc)) with
  | none => s
  | some (_, ks, key) => ks.foldl (fun s k => s.modTeam k fun t => { t with salloc := markSpilled t.salloc key }) s
def spillLoop (one : State → Nat → State) : Nat → State → Nat → State
  | 0, s, _ => s
  | n + 1, s, c => spillLoop one n (one s c) c
/-- A core whose teams need more physical registers than it has spills the difference (R65, R67, R353). -/
def spillPressure (s : State) (c : Nat) : State :=
  let s := spillLoop spillOne (((slotTeams s c).map (physVectors s)).sum - Config.physVector) s c
  spillLoop spillScalar (((slotTeams s c).map (physScalars s)).sum - Config.physScalar) s c

/-- Results that have arrived may ask for spills, too (R65, R67). -/
def settleSpills (s : State) : State :=
  (distinct ((s.teams.filter fun x => x.2.resident && !isCtl x.1).map fun x => teamCore s x.1)).foldl spillPressure s
/-- The team passes a word that acted: its cycles, and the word after it (R346). -/
def passWord (t : Team) (f e rdy : Nat) : Team :=
  { t with clk := max (f + rdy) e, inRun := true, irrev := false, waymarked := false, susp := false,
           bufErr := none, wantLines := [], placed := none, lanesDone := [], runWords := t.runWords + ((t.nextPc - t.wordPc).toNat / 4), pc := t.nextPc }
/-- The cycle in which the unit that takes a word is free for a team that would issue it at its own: the scalar pipe takes
a word a cycle, the hamper unit a lane, and the SFU lanes serve the older run first, at the end of the pass they are in
(R21, R24, R45, R229). -/
def unitFree (s : State) (tk : Nat) (i : Instr) : Nat :=
  let t := s.team tk
  let x := s.core (teamCore s tk)
  if isScalarWord i then max t.clk x.scalarAt
  else if isHamperWord i then max t.clk x.hamAt
  else if isSfuWord i then
    match t.pipe with
    | none => t.clk
    | some p =>
      match tget? x.sfu (1 - p) with
      | none => t.clk
      | some u =>
        if u.fin ≤ t.clk then t.clk
        else if decide (t.runAt < u.runAt) || (t.runAt == u.runAt && p == 0)
        then max t.clk (u.begin + ceilDiv (t.clk - u.begin) (max 1 u.ivl) * max 1 u.ivl)
        else u.fin
  else t.clk
/-- The run of a pipe that has an SFU word in hand goes on later by some cycles: its next words, or, where that word was its
last, the next selection of the pipe and the team's turn (R229, R347). -/
def shiftRun (s : State) (c p runAt d : Nat) : State :=
  let on := teamsWhere s fun k y => y.st == .issuing && y.pipe == some p && teamCore s k == c
  if on.any fun k => (s.team k).runAt == runAt then on.foldl (fun s k => s.modTeam k fun y => { y with clk := y.clk + d }) s
  else
    let x := s.core c
    let s := s.setCore c { x with pipes := tset 0 x.pipes (2 + p) (tget 0 x.pipes (2 + p) + d) }
    let gone := teamsWhere s fun k y => y.resident && y.pipe.isNone && y.runAt == runAt && !isCtl k && teamCore s k == c
    gone.foldl (fun s k => s.modTeam k fun y => { y with clk := y.clk + d, readyAt := y.readyAt + d }) s
/-- The unit that took a word is in use to the end of its last pass; the passes of the other pipe that stood behind it on
the SFU lanes, and what follows them in their run, begin later by as much, once for all the teams of a joined word (R24,
R229; their lanes are read as at their first cycles, log 101). -/
def noteUnit (s : State) (tk : Nat) (i : Instr) (e : Nat) : State :=
  let t := s.team tk
  let c := teamCore s tk
  let x := s.core c
  if isScalarWord i then s.setCore c { x with scalarAt := max x.scalarAt e }
  else if isHamperWord i then s.setCore c { x with hamAt := max x.hamAt e }
  else if isSfuWord i then
    match t.pipe with
    | none => s
    | some p =>
      let old := match tget? x.sfu p with
        | some v => if v.begin = t.clk && v.runAt == t.runAt then v.fin else t.clk
        | none => t.clk
      let mine : SfuUse := ⟨t.clk, (e - t.clk) / max 1 (activeWords t).length, max e old, t.runAt⟩
      match tget? x.sfu (1 - p) with
      | none => s.setCore c { x with sfu := tput x.sfu p mine }
      | some u =>
        if u.fin ≤ t.clk then s.setCore c { x with sfu := tput x.sfu p mine }
        else
          let d := e - old
          let s := s.setCore c { x with sfu := tput (tput x.sfu p mine) (1 - p) { u with begin := u.begin + d, fin := u.fin + d } }
          shiftRun s c (1 - p) u.runAt d
  else s

/-- The cycle after the last pass of a word ends: a packed slot's pass ends for all its joined teams together (R24, R346). -/
def slotFin (s : State) (tk e : Nat) : Nat :=
  let t := s.team tk
  match (if 32 ≤ t.width || isCtl tk then none else t.pipe) with
  | some p => max e (tget 0 (s.core (teamCore s tk)).coFin p)
  | none => e
def noteFin (s : State) (tk e : Nat) : State :=
  let t := s.team tk
  match (if 32 ≤ t.width || isCtl tk then none else t.pipe) with
  | some p => let c := teamCore s tk; let x := s.core c; s.setCore c { x with coFin := tput x.coFin p e }
  | none => s
/-- What follows a word that acted: physical registers are found for what it wrote, which may halt its context (R67,
R68), then its cycles, then the next word or the end of the run (R180, R346). -/
def finishWord (s : State) (tk : Nat) (i : Instr) (f e rdy : Nat) : State :=
  let s := if isCtl tk then s else spillPressure s (teamCore s tk)
  if (s.team tk).st == .free then s
  else
    let e := slotFin s tk e
    let s := if isCtl tk then setCyc s tk f else noteFin (noteUnit s tk i e) tk e
    let s := s.modTeam tk fun t => passWord t f e rdy
    match i with
    | .trl f => endRun s tk (some f.await) (s.team tk).nextPc
    | _ => if i.ebit then endRun s tk none (s.team tk).nextPc else s
/-- One word of a team: the checks every word meets, then its body (R67, R183, R190). -/
def issueWord (s : State) (tk : Nat) (i : Instr) (srcs : List Reg) (body : State → Nat → Nat → WRes) : State :=
  let t := s.team tk
  if !wordOk s tk i then trapEntry s tk cILLEGAL t.wordPc
  else if hazard t srcs then trapEntry s tk cHAZARD t.wordPc
  else match spilledIn t (readWords t i) srcs with
    | some k => s.setTeam tk { t with refill := some k, clk := t.clk + 1 }
    | none =>
      match body s tk t.clk with
      | .done s f e rdy => finishWord s tk i f e rdy
      | .hold s => s.modTeam tk fun t => { t with clk := t.clk + 1 }
      | .park s c w => parkTeam (s.modTeam tk fun t => { t with inRun := true, pc := t.wordPc }) tk c w true
      | .trap s c a d h k => trapEntry s tk c a d h k
      | .gone s => s
/-- The meaning of an instruction word: the issuing agent's. -/
def word (i : Instr) (s : State) (srcs : List Reg) (body : State → Nat → Nat → WRes) : Host.Outcome State Fault Refusal :=
  match s.cur with
  | some (.team tk) => .next { issueWord s tk i srcs body with cur := none }
  | none => .fault .noIssuer
/-- The meaning of a machine event. -/
def event (s : State) : Host.Outcome State Fault Refusal := .next s

/-- A word that issues once, at an interval and with a ready figure. -/
def once (s : State) (c ivl rdy : Nat) : WRes := .done s c (c + ivl) rdy
/-- A word that is swept over the active mask words. -/
def swept (s : State) (p : Passes) (rdy : Nat) : WRes := .done s p.last p.fin (p.ready rdy)
def trapAt (s : State) (tk cause : Nat) : WRes := .trap s cause (s.team tk).wordPc 0 0 0
/-- Whether a word is of the scalar class (R176); on a controller every register is scalar (R191). -/
def scalarClass (tk : Nat) (rs : List Reg) : Bool := isCtl tk || allScalar rs

/-- The region entry after a word that has acted (R148). -/
def entryAfter (s : State) (tk : Nat) : State := s.modTeam tk fun t => if isCtl tk then t else enterRegion t t.nextPc
/-- The wait of a word that acts only when every older region has committed; none: it may act (R149, R153, R280). -/
def commitWait (s : State) (tk : Nat) : Option WRes :=
  let s := closedFor s tk
  if (s.team tk).regions.isEmpty then none else some (.park s .commit ⟨0, 0⟩)
/-- The same for an irrevocable word, which also waits for its group's ticket (R153, R168). -/
def irrevWait (s : State) (tk : Nat) : Option WRes :=
  match commitWait s tk with
  | some r => some r
  | none => if unticketed s (s.team tk).gid then some (.park (closedFor s tk) .ticket ⟨0, 0⟩) else none

/-- Teams that run joined with a team on its pipe (R24). -/
def joined (s : State) (tk : Nat) : List Nat :=
  let t := s.team tk
  if isCtl tk || t.pipe.isNone then [tk]
  else teamsWhere s fun k u => u.pipe == t.pipe && u.st == .issuing && teamCore s k == teamCore s tk
/-- The joined team whose turn it is: fewest words issued, then slot position (R25). -/
def coTurn (s : State) (tk : Nat) : Nat :=
  (joined s tk).foldl (fun b k =>
    let x := s.team b
    let y := s.team k
    if y.runWords < x.runWords || (y.runWords == x.runWords && decide (y.pos < x.pos)) then k else b) tk
/-- Joined teams begin each word together (R24). -/
def coSync (s : State) (tk : Nat) : State :=
  let ks := joined s tk
  if ks.length ≤ 1 then s
  else if ks.all fun k => (s.team k).runWords == (s.team tk).runWords then
    let m := ks.foldl (fun m k => max m (s.team k).clk) 0
    ks.foldl (fun s k => s.modTeam k fun t => { t with clk := m }) s
  else s

/-- The start of a run, or of its remainder: the map check and the decoding of the whole run (R178, R179, R190). -/
def startRun (s : State) (tk : Nat) : State :=
  let t := s.team tk
  let va := t.pc.toNat
  if t.pend.isSome then s
  else
  let s := s.modTeam tk fun t => { t with wordPc := t.pc }
  let left := if t.susp then 24 - t.runWords else 24
  let pre : RunChk :=
    if t.susp || t.waymarked then .ok
    else if va % 4 ≠ 0 || !inSeg (segOf s tk) va then .illegal va
    else match mapBit s tk va with
      | .ok 1 => .ok
      | .ok _ => .illegal va
      | .fault c => .fault c (mapAddr s tk va)
  match (match pre with | .ok => checkRun s tk 25 va left true | r => r) with
  | .ok => s
  | .illegal a => trapEntry (s.modTeam tk fun t => { t with wordPc := BitVec.ofNat 64 a }) tk cILLEGAL (BitVec.ofNat 64 a)
  | .fault c a => trapEntry s tk c (BitVec.ofNat 64 a) 0 0 2

/-- The next thing an issuing agent does: a word to execute, or a state. -/
inductive Prep where
  | run (i : Instr) (s : State)
  | state (s : State)
/-- Fetches the word at a team's pc; the word waits for its unit, and CYC is then its cycle (R21, R313, R347). -/
def prepareWord (s : State) (tk : Nat) : Prep :=
  let t := s.team tk
  if t.pend.isSome && !t.inRun then .state (takeEffect s tk t.clk)
  else
    match fetchInstr s tk t.pc.toNat with
    | .ok i n =>
      let free := unitFree s tk i
      if !isCtl tk && decide (t.clk < free) then .state (s.setTeam tk { t with clk := free })
      else
        let s := if isCtl tk then s else setCyc s tk t.clk
        .run i { s.modTeam tk (fun t => { touchRegs t (readWords t i) (usedRegs i ++ pairedRegs i ++ (match i with | .split _ | .fork _ => frameOf s tk | _ => [])) with wordPc := t.pc, nextPc := t.pc + BitVec.ofNat 64 (4 * n) }) with
                 cur := some (.team tk) }
    | .bad => .state (trapEntry (s.modTeam tk fun t => { t with wordPc := t.pc }) tk cILLEGAL t.pc)
    | .fault c a => .state (trapEntry (s.modTeam tk fun t => { t with wordPc := t.pc }) tk c (BitVec.ofNat 64 a) 0 0 2)
/-- One issue of an agent: a controller that is ready begins its run; a team issues in the turn of its joined teams. -/
def prepare (s : State) (tk0 : Nat) : Prep :=
  if isCtl tk0 then
    let t := s.team tk0
    if t.st == .ready then
      if (s.ctl (tk0 - 2 ^ 60)).st == .running then .state (startRun (s.setTeam tk0 { t with st := .issuing, clk := max t.clk (t.readyAt + 1) }) tk0)
      else .state s
    else if t.st == .issuing then prepareWord s tk0 else .state s
  else
    let tk := coTurn s tk0
    if (s.team tk).st == .issuing && clockRuns s (teamCore s tk0) && !uBusy (s.team tk) && !groupReleasing s (s.team tk).gid then prepareWord (coSync s tk) tk else .state s

end Sys2Proof.Machine
end

