-- ==== Sys2Proof/Machine/Access.lean ====
section
/-! DEFINITION. Lane accesses to global memory and the stash: resolving, checking, waiting, performing (R17, R123, R128,
R129, R135 to R139, R145, R152, R156, R171, R250 to R252, R261, R262, R416). -/
namespace Sys2Proof.Machine

/-- One lane's access: its parts of (address or stash offset, bytes) in order; for private memory, the word index that
lies at or above PLIM (R139). -/
structure Acc where
  lane : Nat
  cyc : Nat
  stash : Bool
  parts : List (Nat × Nat)
  priv : Option Nat
  deriving DecidableEq, Repr
/-- Where one byte of an access lies: a scratch offset, or a location of global memory. -/
inductive BLoc where
  | sc (off : Nat)
  | gl (loc : Nat) (p : Place)
  deriving DecidableEq, Repr
/-- A resolved access, or its fault. -/
inductive Reach where
  | ok (l : List BLoc)
  | fault (cause va : Nat)
  | priv (i va : Nat)
  deriving DecidableEq, Repr
def Reach.append : Reach → Reach → Reach
  | .fault c a, _ => .fault c a
  | .priv c a, _ => .priv c a
  | .ok _, .fault c a => .fault c a
  | .ok _, .priv c a => .priv c a
  | .ok a, .ok b => .ok (a ++ b)

/-- A controller's untranslated access (R416). -/
def ctlReach (s : State) (c a : Nat) (write : Bool) : Reach :=
  match physLoc a with
  | none => .fault cACCESS a
  | some l =>
    let pl : Place := ⟨a, l, 0, l, 1, 0⟩
    if isDram l then
      if !(s.stack (stackOf l)).dmen || !accessOk s (stackOf l) ⟨1, c⟩ a write then .fault cACCESS a
      else if s.poison.contains (lineOf l) then .fault cPOISON a else .ok [.gl l pl]
    else if isHost l then
      if !accessOk s (16 + l / 128 % 2) ⟨1, c⟩ a write then .fault cACCESS a
      else if s.poison.contains (lineOf l) then .fault cPOISON a else .ok [.gl l pl]
    else if c = 0 || (a - sramBase) / 0x100000 = c then .ok [.gl l pl] else .fault cACCESS a
/-- A global access of some bytes. -/
def globReach (s : State) (tk va n : Nat) (k : AKind) : Reach :=
  if isCtl tk then (List.range n).foldl (fun r i => r.append (ctlReach s (tk - 2 ^ 60) (va + i) (k == .write))) (.ok [])
  else match xlateN s (teamCore s tk) (teamAs s tk) va n k with
    | .ok l => .ok (l.map fun x => .gl x.1 x.2)
    | .fault c a => .fault c a
/-- A stash access: mapped lines mirror global lines; the hamper and beyond is out of range (R134, R135). -/
def stashReach (s : State) (tk off n : Nat) (k : AKind) : Reach :=
  match teamGroup s tk with
  | none => .fault cSTASH off
  | some g =>
    if g.progBytes < off + n then .fault cSTASH off
    else (List.range n).foldl (fun r i =>
      let o := off + i
      r.append (match g.maps.find? fun m => decide (m.off ≤ o) && decide (o < m.off + m.len) with
        | some m => globReach s tk (m.addr + (o - m.off)) 1 k
        | none => if g.spoison.contains (o / 128) then .fault cPOISON o else .ok [.sc o])) (.ok [])
def Acc.reach (s : State) (tk : Nat) (k : AKind) (a : Acc) : Reach :=
  match a.priv with
  | some i => .priv i ((a.parts.head?.map (·.1)).getD 0)
  | none => a.parts.foldl (fun r p =>
    r.append (if a.stash then stashReach s tk p.1 p.2 k else globReach s tk p.1 p.2 k)) (.ok [])

/-- Distinct 128-byte lines that parts touch. -/
def partLines (ps : List (Nat × Nat)) : List Nat :=
  distinct (ps.flatMap fun p => if p.2 = 0 then [] else [p.1 / 128, (p.1 + p.2 - 1) / 128])
/-- The teams whose lanes one pass of a team's word takes: those of its slot that run joined with it (R24, R346). -/
def passTeams (s : State) (tk : Nat) : List Nat := if 32 ≤ (s.team tk).width then [tk] else joined s tk
/-- Active lanes of the teams of a pass over a mask word, at least one cycle's. -/
def lanesOfPass (s : State) (tk j : Nat) : Nat :=
  max 1 ((passTeams s tk).map fun k => ((activeLanes (s.team k)).filter fun l => l / 32 == j).length).sum
/-- The passes of a memory word: per pass one cycle for each distinct line of all its lanes (R20, R24, R252, R346), and the
accesses of its team's lanes at the cycle of their pass. -/
def memPasses (s : State) (tk c : Nat) (scalar stash : Bool) (ea : Team → Nat → Nat → List (Nat × Nat)) : Passes × List Acc :=
  let t := s.team tk
  if scalar then
    let ps := ea t c 0
    (⟨[(0, c)], c, c + max 1 (partLines ps).length⟩, [⟨0, c, stash, ps, none⟩])
  else
    let p := passesOf t c fun j k => max 1 (partLines ((passTeams s tk).flatMap fun m =>
      ((activeLanes (s.team m)).filter fun l => l / 32 == j).flatMap fun l => ea (s.team m) k l)).length
    (p, (activeLanes t).map fun l => ⟨l, passCycle p l, stash, ea t (passCycle p l) l, none⟩)
/-- A lane that is a helper under a per-lane word (R17). -/
def isHelperLane (t : Team) (scalar : Bool) (l : Nat) : Bool := !scalar && !t.live.getLsbD l

/-- The first fault among the accesses of live lanes (R251). -/
def firstFault (s : State) (tk : Nat) (k : AKind) : List Acc → Option (Nat × Nat × Nat)
  | [] => none
  | a :: r => match a.reach s tk k with
    | .fault c va => some (c, va, 0)
    | .priv i va => some (cPRIV, va, i)
    | .ok _ => firstFault s tk k r
def reachAll (s : State) (tk : Nat) (k : AKind) (l : List Acc) : List (Acc × List BLoc) :=
  l.map fun a => (a, match a.reach s tk k with | .ok x => x | _ => [])
/-- Global lines of resolved accesses with the attribute they are reached under. -/
def globLines (l : List (Acc × List BLoc)) : List (Nat × Nat) :=
  (l.flatMap fun x => x.2.filterMap fun b => match b with | .gl loc p => some (lineOf loc, p.coh) | .sc _ => none).foldl
    (fun acc x => if acc.contains x then acc else acc ++ [x]) []
/-- Absent scratch lines of resolved accesses. -/
def absentLines (g : Option Group) (l : List (Acc × List BLoc)) : List Nat :=
  match g with
  | none => []
  | some g => l.flatMap fun x => x.2.filterMap fun b => match b with
      | .sc o => if g.absent.contains (o / 128) then some (o / 128) else none
      | .gl _ _ => none

/-- The region waits around a U access, and of careful mode (R123, R152, R156); none: the access may be performed. -/
def regionGate (s : State) (tk : Nat) (u : Bool) : Option WRes :=
  let t := s.team tk
  if isCtl tk then none
  else if t.careful && decide (1 < t.regions.length) then some (.park s .commit ⟨0, 1⟩)
  else if u then
    if (t.regions.getLast?.map fun r => r.uacc && !r.closed).getD false then
      if t.regions.length ≤ 1 then none else some (.park s .commit ⟨0, 1⟩)
    else
      let s := closeOpen s tk
      if 4 ≤ (s.team tk).regions.length then some (.park s .commit ⟨0, 3⟩)
      else
        let s := s.modTeam tk fun t => enterRegion t t.wordPc true
        if (s.team tk).regions.length ≤ 1 then some (.hold s) else some (.park s .commit ⟨0, 1⟩)
  else if t.regions.any fun r => r.uacc && r.closed then some (.park s .commit ⟨0, 1⟩)
  else none
/-- The region entry that follows a U store, which is performed at its region's commit (R152). -/
def afterU (s : State) (tk : Nat) (u : Bool) : State :=
  if u && !isCtl tk then (closeOpen s tk).modTeam tk fun t => enterRegion t t.nextPc else s
/-- A U load has been performed: its region commits at once, and a region entry follows (R152). -/
def afterULoad (s : State) (tk : Nat) (u : Bool) : State :=
  if u && !isCtl tk then
    let s := closeOpen s tk
    let s := if (s.team tk).regions.isEmpty then s else commitOldest s tk
    s.modTeam tk fun t => enterRegion t t.nextPc
  else s

/-- A higher-indexed group of the same ordered grid holds a staged write on one of the lines: a store, or an atomic that
waits for the ticket (R168, R171). -/
def higherStaged (s : State) (tk : Nat) (lines : List Nat) : Bool :=
  match teamGroup s tk with
  | none => false
  | some g => s.groups.any fun x => x.2.seq == g.seq && decide (g.idx < x.2.idx) &&
      (x.2.staged.any (fun c => lines.contains (lineOf c.1)) || x.2.teamKeys.any fun k => (s.team k).park == .ticket &&
        ((s.team k).placed.getD []).any fun p => p.2.any fun l => lines.contains (lineOf l.1))

/-- Puts a long-latency word in flight: its token is outstanding (R76). -/
def putInflight (t : Team) (tok : Option Nat) (wait : LWait) (exact : Bool) (vw sw : List LWrite)
    (flw : List (Nat × BitVec 5)) (cbt : Option (List (BitVec 16))) (due : Nat := 0) : Team :=
  let rid := (t.regions.reverse.head?.map (·.rid)).getD (t.nextRid - 1)
  { t with
    nextId := t.nextId + 1, tok := (match tok with | some k => t.tok ||| (1 <<< k) | none => t.tok),
    inflight := t.inflight ++ [⟨t.nextId, due, tok, rid, t.run, wait, exact, false, false, vw, sw, flw, cbt⟩] }
/-- Token k is still outstanding. -/
def tokBusy (t : Team) (k : BitVec 3) : Bool := t.tok.getLsbD k.toNat
/-- The late writes of a lane's result, due at a cycle. -/
def lateV (r : RegW) (due : Nat) : List LWrite := r.v.map fun x => ⟨x.1, x.2, due⟩
def lateS (r : RegW) (due : Nat) : List LWrite := r.s.map fun x => ⟨x.1, x.2, due⟩
/-- Where the flags of a word go: its lanes, or every active lane for the scalar class (R226). -/
def flagPlaces (t : Team) (scalar : Bool) (l : Nat) (f : Flags) : List (Nat × Flags) :=
  if f == 0 then [] else if scalar then (activeLanes t).map fun k => (k, f) else [(l, f)]

/-- A byte of scratch as a team sees it (R262). -/
def readScratch (s : State) (tk off : Nat) : Byte :=
  match ((s.team tk).regions.reverse.findSome? fun r => tget? r.sstores off) with
  | some b => b
  | none => ((teamGroup s tk).map fun g => tget 0 g.scratch off).getD 0
def readB (s : State) (tk : Nat) : BLoc → Byte
  | .sc o => readScratch s tk o
  | .gl l _ => readLoc s tk l
/-- The pages of global memory that an access names, in a stash access those of mapped lines (R135). -/
def accPages (g : Option Group) (a : Acc) : List Nat :=
  if a.stash then a.parts.flatMap fun p => (List.range p.2).filterMap fun i =>
    (g.bind fun g => g.maps.find? fun m => decide (m.off ≤ p.1 + i) && decide (p.1 + i < m.off + m.len)).map fun m =>
      (m.addr + (p.1 + i - m.off)) / 4096
  else a.parts.map fun p => p.1 / 4096
/-- Translations used by accesses are held, and pages used under S noted (R122, R398). -/
def noteTlb (s : State) (tk : Nat) (l : List Acc) : State :=
  if isCtl tk then s
  else (distinct (l.flatMap (accPages (teamGroup s tk)))).foldl
    (fun s v => tlbNote s (teamCore s tk) (teamAs s tk) (v * 4096)) s
/-- An agent reads lines: under their attributes (R124), and the replies that carried it U lines of another E9 are used
up. -/
def dropReplies (s : State) (rd : Nat) (lines : List (Nat × Nat)) (who : Option Nat := none) : State :=
  let s := touchLines s who lines
  { s with remoteIn := s.remoteIn.filter fun x => !(lines.any fun l => x.1 == uReadKey rd l.1) }

/-- A helper whose load would fault receives 0 (R17). -/
def zeroRes (r : LaneRes) : LaneRes := { w := { v := r.w.v.map fun x => (x.1, 0), s := [], t := [] } }
/-- The accesses of a load that are made: those of live lanes, and those of helpers that would not fault (R17). -/
def madeAccs (s : State) (tk : Nat) (scalar : Bool) (l : List Acc) : List Acc :=
  l.filter fun a => !isHelperLane (s.team tk) scalar a.lane || (match a.reach s tk .read with | .ok _ => true | _ => false)
/-- What an access of lines under D or S must do first in the sets of the L1 (R129, R170); none: nothing. -/
def roomGate (s : State) (tk : Nat) (lines : List (Nat × Nat)) : Option WRes :=
  match setRoom s tk ((lines.filter fun x => x.2 != 2).map (·.1)) with
  | .room => none
  | .staged => some (if unticketed s (s.team tk).gid then .park s .ticket ⟨0, 0⟩ else .hold s)
  | .hit i => some (.gone (conflictHit s tk i))
  | .wait => some (.hold s)
/-- A team waits for lines that an access needs (R156, R157). -/
def wanting (s : State) (tk : Nat) (lines : List (Nat × Nat)) : State :=
  s.modTeam tk fun t => { t with wantLines := lines.map (·.1) }
/-- A load (R250 to R253). A word counts once toward ORDER_INVERSION, however many of its lines have staged writes
(DESIGN CHOICE, log 43): `res` makes a lane's result of its bytes; `cbt` makes a codebook of the first access's. -/
def loadCore (s : State) (tk : Nat) (scalar : Bool) (tok : BitVec 3) (pa : Passes × List Acc)
    (res : Team → Nat → List Byte → LaneRes) (cbt : List Byte → Option (List (BitVec 16))) : WRes :=
  let t := s.team tk
  if tokBusy t tok then .hold s
  else
    let live := pa.2.filter fun a => !isHelperLane t scalar a.lane
    match firstFault s tk .read live with
    | some (c, va, i) => .trap s c (BitVec.ofNat 64 va) 0 i 0
    | none =>
      let made := madeAccs s tk scalar pa.2
      let hits := reachAll s tk .read made
      match absentLines (teamGroup s tk) hits with
      | ln :: _ => .park s .presence ⟨0, ln⟩
      | [] =>
        let lines := globLines hits
        let u := lines.any fun x => x.2 == 2
        match regionGate s tk u with
        | some r => r
        | none =>
        match roomGate s tk lines with
        | some r => r
        | none =>
          match gates s tk lines false with
          | some s => .hold (wanting s tk lines)
          | none =>
            let oi := !lines.isEmpty && t.ordered && higherStaged s tk (lines.map (·.1))
            if oi && decide (Config.spinLimit ≤ t.oiCount + 1) then
              .trap (s.setTeam tk { t with oiCount := 0 }) cORDER
                (BitVec.ofNat 64 (((live.head?.bind fun a => a.parts.head?).map (·.1)).getD 0)) 0 0 0
            else
              let all := reachAll s tk .read pa.2
              let exact := lines.isEmpty
              let rs := all.map fun x =>
                let r := res t x.1.lane (x.2.map (readB s tk))
                (x.1, if x.2.isEmpty && isHelperLane t scalar x.1.lane then zeroRes r else r)
              let due := fun (a : Acc) => if exact then a.cyc + 8 else 0
              let vw := rs.flatMap fun x => lateV x.2.w (due x.1)
              let sw := rs.flatMap fun x => lateS x.2.w (due x.1)
              let flw := rs.flatMap fun x => flagPlaces t scalar x.1.lane x.2.fl
              let t := { t with oiCount := if oi then t.oiCount + 1 else if lines.isEmpty then t.oiCount else 0 }
              let t := if (t.careful && !t.excl) || isCtl tk || u then t else markReads t (lines.map (·.1))
              let t := putInflight t (some tok.toNat) .arrival exact vw sw flw (cbt (((all.head?.map (·.2)).getD []).map (readB s tk)))
                (if exact then pa.1.last + 8 else 0)
              let s := noteTlb (dropReplies (s.setTeam tk t) tk lines (some tk)) tk made
              let s := if t.regions.isEmpty || (t.careful && !t.excl) || u then groupReads s tk (lines.map (·.1)) else s
              .done (afterULoad s tk u) pa.1.last pa.1.fin 1

/-- A load of registers. -/
def loadWord (s : State) (tk : Nat) (scalar : Bool) (tok : BitVec 3) (pa : Passes × List Acc)
    (res : Team → Nat → List Byte → LaneRes) : WRes := loadCore s tk scalar tok pa res fun _ => none
/-- Sixteen little-endian BF16 entries (R242). -/
def cbEntries (b : List Byte) : List (BitVec 16) := (List.range 16).map fun i => BitVec.ofNat 16 (leVal ((b.drop (2 * i)).take 2))
/-- The load of CBT by one uniform access (R242). -/
def loadTable (s : State) (tk : Nat) (tok : BitVec 3) (c ea : Nat) : WRes :=
  loadCore s tk true tok (⟨[(0, c)], c, c + 1⟩, [⟨0, c, false, [(ea, 32)], none⟩]) (fun _ _ _ => {}) fun b => some (cbEntries b)

/-- The store events of one access: one for each line (R143). -/
def lineEvents (cells : List (Nat × Byte)) : List (List (Nat × Byte)) :=
  (distinct (cells.map fun c => lineOf c.1)).map fun ln => cells.filter fun c => lineOf c.1 == ln
/-- Distinct S pages of resolved accesses. -/
def sPages (l : List (Acc × List BLoc)) : List (Nat × Nat) :=
  (l.flatMap fun x => x.2.filterMap fun b => match b with
    | .gl _ p => if p.coh = 1 then some (p.base, p.size) else none
    | .sc _ => none).foldl (fun acc x => if acc.contains x then acc else acc ++ [x]) []
/-- Stores are performed at once, but for U stores: in careful mode, by a controller, and by a team that has no region
(R128, R149, R156). -/
def storesNow (t : Team) (tk : Nat) : Bool := t.careful || isCtl tk || t.regions.isEmpty
/-- A store (R250 to R253): each access with the bytes its lane stores; buffered to commit or performed at once (R128,
R262). A U store is performed at the commit of its region, in careful mode too (R152). -/
def storeWord (s : State) (tk : Nat) (scalar : Bool) (tok : BitVec 3) (p : Passes) (accs : List (Acc × List Byte))
    (flw : List (Nat × Flags)) : WRes :=
  let t := s.team tk
  if tokBusy t tok then .hold s
  else
    let live := accs.filter fun a => !isHelperLane t scalar a.1.lane
    match firstFault s tk .write (live.map (·.1)) with
    | some (c, va, i) => .trap s c (BitVec.ofNat 64 va) 0 i 1
    | none =>
      let hits := reachAll s tk .write (live.map (·.1))
      let lines := globLines hits
      let u := lines.any fun x => x.2 == 2
      match regionGate s tk u with
      | some r => r
      | none =>
        let now := storesNow t tk && !u
        let bytes := (hits.zip live).map fun x => x.1.2.zip x.2.2
        let evts := bytes.flatMap fun b => lineEvents (b.filterMap fun x => match x.1 with | .gl l _ => some (l, x.2) | .sc _ => none)
        match (if isCtl tk then none else roomGate s tk (lines.map fun x => (x.1, 0))) with
        | some r => r
        | none =>
        match (if now then gates s tk lines true else none) with
        | some s => .hold (wanting s tk lines)
        | none =>
        if now && groupClash s tk (lines.map (·.1)) then .gone (restartGroup s t.gid)
        else
          let sc := bytes.flatMap fun b => b.filterMap fun x => match x.1 with | .sc o => some (o, x.2) | .gl _ _ => none
          let mp := hits.flatMap fun x => if !x.1.stash then [] else
            ((x.1.parts.flatMap fun p => (List.range p.2).map (p.1 + ·)).zip x.2).filterMap fun y => match y.2 with
              | .gl l _ => some (y.1 / 128, lineOf l)
              | .sc _ => none
          let sp := sPages hits
          let exact := lines.isEmpty
          let t := if now then t else modOpen (bufferStores { t with careful := t.careful && !u } evts sp) fun r =>
            { r with sstores := tputAll r.sstores sc, mapped := r.mapped ++ mp.foldl (fun l x => if l.contains x then l else l ++ [x]) [] }
          let t := if now && t.excl then markReads t (lines.map (·.1)) else t
          let t := putInflight t (some tok.toNat) .arrival exact [] [] flw none (if exact then p.last + 8 else 0)
          let s := noteTlb (s.setTeam tk t) tk (live.map (·.1))
          let s := if now then
              noteMapped ((putStores s tk evts (tputAll [] (evts.flatMap id)) sp).modGroup t.gid fun g =>
                { g with scratch := tsetAll 0 g.scratch sc }) t.gid mp
            else s
          .done (afterU s tk u) p.last p.fin 1

end Sys2Proof.Machine
end

