-- ==== Sys2Proof/Machine/Loads.lean ====
section
/-! DEFINITION. Loads and stores of every form, narrow blocks, gather and scatter, private memory, the stash, PREF and
CBLD (R138 to R141, R175, R242, R250 to R264). -/
namespace Sys2Proof.Machine

/-- Bytes of an LD or ST element code (R175). -/
def szBytes (sz : BitVec 4) : Nat := match sz.toNat / 2 with | 0 => 1 | 1 => 2 | 2 => 4 | _ => 8
/-- The value of an LD element code (R253). -/
def ldVal (sz : BitVec 4) (v : Nat) : Word :=
  if sz.getLsbD 0 then wInt (sextN (8 * szBytes sz) v) else BitVec.ofNat 64 v
/-- The bound format of an LDV or STV form (R175): IV32, IB32, IV64, IV128. -/
def ivFmt (sz : BitVec 4) : Fmt := match sz.toNat % 8 with | 0 => f16 | 1 => bf16 | 2 => f32 | _ => f64
def ivBytes (sz : BitVec 4) : Nat := match sz.toNat % 8 with | 2 => 8 | 3 => 16 | _ => 4
/-- The interval an LDV form gives (R254). -/
def ldvVal (sz : BitVec 4) (v : Nat) : IvRes :=
  let f := fmtOf (sz.getLsbD 3)
  if sz.toNat % 8 = 4 then loadMrw f v
  else let g := ivFmt sz; cvtPair g f (v % 2 ^ g.width) (v / 2 ^ g.width)
/-- The bytes and flags an STV form stores of a register (R254). -/
def stvVal (sz : BitVec 4) (lo hi : Nat) : Nat × Flags :=
  let f := fmtOf (sz.getLsbD 3)
  if sz.toNat % 8 = 4 then let (x, fl) := readIv f lo hi; let r := storeMrw x; (r.1, r.2 ||| fl)
  else let g := ivFmt sz; let r := cvtPair f g lo hi; (r.lo + r.hi * 2 ^ g.width, r.fl)
/-- A lane's result of a load of an element code, or of an interval form. -/
def ldRes (d : Reg) (sz : BitVec 4) (iv : Bool) (t : Team) (l : Nat) (b : List Byte) : LaneRes :=
  if iv then let r := ldvVal sz (leVal b); { w := ivW t l (sz.getLsbD 3) d r, fl := r.fl }
  else { w := regW t l d (ldVal sz (leVal b)) }
/-- The bytes a lane stores of an element code or an interval form, and its flags. -/
def stData (d : Reg) (sz : BitVec 4) (iv : Bool) (t : Team) (c l : Nat) : List Byte × Flags :=
  if iv then
    let (lo, hi) := readPairBits t c l (sz.getLsbD 3) d
    let r := stvVal sz lo hi
    (leBytes (ivBytes sz) r.1, r.2)
  else (leBytes (szBytes sz) (readReg t c l d).toNat, 0)
def dataBytes (sz : BitVec 4) (iv : Bool) : Nat := if iv then ivBytes sz else szBytes sz

/-- a(l)[63:0] + off (R250). -/
def eaOff (a : Reg) (off : Int) (t : Team) (c l : Nat) : Nat := (readReg t c l a + wInt off).toNat
/-- The stash offset a(l)[31:0] + off, read unsigned (R250). -/
def eaStash (a : Reg) (off : Int) (t : Team) (c l : Nat) : Nat :=
  ((((readReg t c l a).toNat % 2 ^ 32 : Nat) + off) % 2 ^ 64).toNat
/-- s(BASE) + (index << SHIFT) (R259). -/
def eaGather (a : Reg) (x : W32) (t : Team) (c l : Nat) : Nat :=
  let i := (readReg t c l a).toNat
  let ix : Word := if x.getLsbD 7 then BitVec.ofNat 64 i
    else if x.getLsbD 8 then wInt (sextN 32 i) else BitVec.ofNat 64 (i % 2 ^ 32)
  let ea := (readReg t c l (x.extractLsb' 0 7) + (ix <<< (x.extractLsb' 9 3).toNat)).toNat
  if x.getLsbD 12 then ea % 2 ^ 32 else ea

/-- A load of one part a lane, at the address `ea` gives. -/
def loadBody (scalar stash : Bool) (tok : BitVec 3) (d : Reg) (sz : BitVec 4) (iv : Bool) (ea : Team → Nat → Nat → Nat) :
    State → Nat → Nat → WRes := fun s tk c =>
  loadWord s tk scalar tok (memPasses s tk c scalar stash fun t k l => [(ea t k l, dataBytes sz iv)]) (ldRes d sz iv)
/-- A store of one part a lane. -/
def storeBody (scalar stash : Bool) (tok : BitVec 3) (d : Reg) (sz : BitVec 4) (iv : Bool) (ea : Team → Nat → Nat → Nat) :
    State → Nat → Nat → WRes := fun s tk c =>
  let t := s.team tk
  let pa := memPasses s tk c scalar stash fun t k l => [(ea t k l, dataBytes sz iv)]
  let ds := pa.2.map fun a => (a, stData d sz iv t a.cyc a.lane)
  storeWord s tk scalar tok pa.1 (ds.map fun x => (x.1, x.2.1)) (ds.flatMap fun x => flagPlaces t scalar x.1.lane x.2.2)
/-- LD (R253). -/
def execLd (f : FL) (s : State) : Host.Outcome State Fault Refusal :=
  word (.ld f) s [f.a] fun s tk c => loadBody (scalarClass tk [f.d, f.a]) false f.k f.d f.sz false (eaOff f.a 0) s tk c
/-- LD with offset (R253). -/
def execLdOffset (f : FLX) (s : State) : Host.Outcome State Fault Refusal :=
  word (.ldOffset f) s [f.a] fun s tk c => loadBody (scalarClass tk [f.d, f.a]) false f.k f.d f.sz false (eaOff f.a f.x.toInt) s tk c
/-- ST (R253). -/
def execSt (f : FL) (s : State) : Host.Outcome State Fault Refusal :=
  word (.st f) s [f.d, f.a] fun s tk c => storeBody (scalarClass tk [f.d, f.a]) false f.k f.d f.sz false (eaOff f.a 0) s tk c
/-- ST with offset (R253). -/
def execStOffset (f : FLX) (s : State) : Host.Outcome State Fault Refusal :=
  word (.stOffset f) s [f.d, f.a] fun s tk c => storeBody (scalarClass tk [f.d, f.a]) false f.k f.d f.sz false (eaOff f.a f.x.toInt) s tk c
/-- LDV (R254). -/
def execLdv (f : FL) (s : State) : Host.Outcome State Fault Refusal :=
  word (.ldv f) s [f.a] fun s tk c => loadBody (scalarClass tk [f.d, f.a]) false f.k f.d f.sz true (eaOff f.a 0) s tk c
/-- LDV with offset (R254). -/
def execLdvOffset (f : FLX) (s : State) : Host.Outcome State Fault Refusal :=
  word (.ldvOffset f) s [f.a] fun s tk c => loadBody (scalarClass tk [f.d, f.a]) false f.k f.d f.sz true (eaOff f.a f.x.toInt) s tk c
/-- STV (R254). -/
def execStv (f : FL) (s : State) : Host.Outcome State Fault Refusal :=
  word (.stv f) s (f.a :: pairRegs (f.sz.getLsbD 3) f.d) fun s tk c => storeBody (scalarClass tk [f.d, f.a]) false f.k f.d f.sz true (eaOff f.a 0) s tk c
/-- STV with offset (R254). -/
def execStvOffset (f : FLX) (s : State) : Host.Outcome State Fault Refusal :=
  word (.stvOffset f) s (f.a :: pairRegs (f.sz.getLsbD 3) f.d) fun s tk c => storeBody (scalarClass tk [f.d, f.a]) false f.k f.d f.sz true (eaOff f.a f.x.toInt) s tk c
/-- LDS (R261). -/
def execLds (f : FL) (s : State) : Host.Outcome State Fault Refusal :=
  word (.lds f) s [f.a] fun s tk c => loadBody (scalarClass tk [f.d, f.a]) true f.k f.d f.sz false (eaStash f.a 0) s tk c
/-- LDS with offset (R261). -/
def execLdsOffset (f : FLX) (s : State) : Host.Outcome State Fault Refusal :=
  word (.ldsOffset f) s [f.a] fun s tk c => loadBody (scalarClass tk [f.d, f.a]) true f.k f.d f.sz false (eaStash f.a f.x.toInt) s tk c
/-- STS (R261). -/
def execSts (f : FL) (s : State) : Host.Outcome State Fault Refusal :=
  word (.sts f) s [f.d, f.a] fun s tk c => storeBody (scalarClass tk [f.d, f.a]) true f.k f.d f.sz false (eaStash f.a 0) s tk c
/-- STS with offset (R261). -/
def execStsOffset (f : FLX) (s : State) : Host.Outcome State Fault Refusal :=
  word (.stsOffset f) s [f.d, f.a] fun s tk c => storeBody (scalarClass tk [f.d, f.a]) true f.k f.d f.sz false (eaStash f.a f.x.toInt) s tk c
/-- LDG (R258, R259). -/
def execLdg (f : FLX) (s : State) : Host.Outcome State Fault Refusal :=
  word (.ldg f) s [f.a, f.x.extractLsb' 0 7] fun s tk c =>
    loadBody false (f.x.getLsbD 12) f.k f.d f.sz (f.x.getLsbD 13) (eaGather f.a f.x) s tk c
/-- STG (R258, R259). -/
def execStg (f : FLX) (s : State) : Host.Outcome State Fault Refusal :=
  word (.stg f) s (f.a :: f.x.extractLsb' 0 7 :: pairRegs (f.x.getLsbD 13 && f.sz.getLsbD 3) f.d) fun s tk c =>
    storeBody false (f.x.getLsbD 12) f.k f.d f.sz (f.x.getLsbD 13) (eaGather f.a f.x) s tk c

/-- The base of a team's private segment (R138). -/
def privOf (s : State) (t : Team) : Nat :=
  match s.group? t.gid with
  | some g => match s.grid? g.seq with
    | some q => lrPbase q.lrec + (g.idx * g.nteam + t.teami) * lrSeg q.lrec
    | none => 0
  | none => 0
def privBase (s : State) (tk : Nat) : Nat := privOf s (s.team tk)
/-- The parts of a private access: word i, and word i + 1 of a 64-bit one (R138, R140). -/
def privParts (tb w : Nat) (wide : Bool) (i l : Nat) : List (Nat × Nat) :=
  let at_ := fun n => (tb + (n * w + l) * 4, 4)
  if wide then [at_ i, at_ (i + 1)] else [at_ i]
/-- The accesses of LDL and STL, with their limit (R139, R260; a word whose registers are all scalar makes the access
of lane 0, log 19). -/
def privPasses (s : State) (tk c : Nat) (scalar : Bool) (a : Reg) (sz : BitVec 4) : Passes × List Acc :=
  let t := s.team tk
  let wide := sz == 6
  let ix := fun (t : Team) k l => (readReg t k l a).toNat % 2 ^ 32
  let pa := memPasses s tk c scalar false fun t k l => privParts (privOf s t) t.width wide (ix t k l) l
  (pa.1, pa.2.map fun x =>
    let i := ix t x.cyc x.lane
    if t.plim.toNat ≤ i + wide.toNat then { x with priv := some i } else x)
/-- LDL (R260). -/
def execLdl (f : FL) (s : State) : Host.Outcome State Fault Refusal :=
  word (.ldl f) s [f.a] fun s tk c =>
    let sc := scalarClass tk [f.d, f.a]
    loadWord s tk sc f.k (privPasses s tk c sc f.a f.sz) (ldRes f.d f.sz false)
/-- STL (R260). -/
def execStl (f : FL) (s : State) : Host.Outcome State Fault Refusal :=
  word (.stl f) s [f.d, f.a] fun s tk c =>
    let sc := scalarClass tk [f.d, f.a]
    let pa := privPasses s tk c sc f.a f.sz
    storeWord s tk sc f.k pa.1 (pa.2.map fun a => (a, (stData f.d f.sz false (s.team tk) a.cyc a.lane).1)) []

/-- The element base and scale base of a narrow block word (R255). -/
def blkBases (t : Team) (c : Nat) (a : Reg) (off : Int) : Nat × Nat := (eaOff a off t c 0, (readReg t c 0 (nextReg a)).toNat)
/-- LDN (R255). -/
def ldnBody (k : BitVec 3) (d a : Reg) (sz : BitVec 4) (off : Int) : State → Nat → Nat → WRes := fun s tk c =>
  let t := s.team tk
  let kind := sz.toNat % 8
  let b := (kindOf kind).b
  if tokBusy t k then .hold s
  else if (blkBases t c a off).1 % 8 ≠ 0 then trapAt s tk cILLEGAL
  else
    let lo := fun l => b * (l % 32) / 8
    let n := fun l => (b * (l % 32 + 1) + 7) / 8 - lo l
    let pa := memPasses s tk c false false fun t _ l =>
      let (eb, sb) := blkBases t c a off
      [((sb + l / 32) % 2 ^ 64, 1), ((eb + l / 32 * blockBytes kind + lo l) % 2 ^ 64, n l)]
    loadWord s tk false k pa fun t l bs =>
      let code := leVal (bs.drop 1) / 2 ^ (b * (l % 32) % 8) % 2 ^ b
      let r := loadElem (fmtOf (sz.getLsbD 3)) kind t.cbt (bs.headD 0).toNat code
      { w := ivW t l (sz.getLsbD 3) d r, fl := r.fl }
/-- LDN (R255). -/
def execLdn (f : FL) (s : State) : Host.Outcome State Fault Refusal :=
  word (.ldn f) s [f.a, nextReg f.a] fun s tk c => ldnBody f.k f.d f.a f.sz 0 s tk c
/-- LDN with offset (R255). -/
def execLdnOffset (f : FLX) (s : State) : Host.Outcome State Fault Refusal :=
  word (.ldnOffset f) s [f.a, nextReg f.a] fun s tk c => ldnBody f.k f.d f.a f.sz f.x.toInt s tk c

/-- A quantised block of a team: its codes by lane, and the flags of its active lanes. -/
structure NBlock where
  j : Nat
  scale : Nat
  codes : List (Nat × Nat)
  contrib : List Nat
  fl : Flags
  deriving DecidableEq, Repr
/-- The code of one more interval under a block's scale (R105, R256); an interval without a midpoint gives a free
value (log 5). -/
def codeUnder (k : Nat) (cbt : List (BitVec 16)) (scale fv : Nat) (x : IV) : Nat :=
  if scale = 0x7F || scale = 0xFF then 0
  else
    let e := scaleExp scale
    let kd := kindOf k
    match x with
    | .iv l h =>
      if l == .ninf && h == .pinf then fv % 2 ^ kd.b
      else if isCB4 k then
        let v := match cbMid l h with | .fin q => Ext.fin (qScale q (-e)) | y => y
        ((cbNearest cbt v).map (·.1)).getD 0
      else match l, h with
        | .fin a, .fin b => (quantElem kd (qScale (a.add b).half (-e))).1
        | _, .pinf => if kd.inf then 0x7C else kd.maxCode
        | _, _ => (if kd.inf then 0x7C else kd.maxCode) + 2 ^ (kd.b - 1)
    | _ => fv % 2 ^ kd.b
/-- Forms block j of a team from a register at a cycle; what reading the sources of helpers raises is raised too (R93, R256,
R105). -/
def formBlock (s : State) (t : Team) (c : Nat) (k : Nat) (w : Bool) (a : Reg) (j : Nat) : NBlock :=
  let act := (activeLanes t).filter fun l => l / 32 == j
  let con := act.filter fun l => t.live.getLsbD l
  let src := fun l => readIvReg t c l w a
  let q := quantBlock k t.cbt (Config.freeValue (s.free + j)).toNat (con.map fun l => (src l).1)
  let hs := act.filter fun l => !t.live.getLsbD l
  { j := j, scale := q.scale, contrib := con,
    codes := con.zip q.codes ++ hs.map fun l => (l, codeUnder k t.cbt q.scale (Config.freeValue (s.free + 32 + l)).toNat (src l).1),
    fl := act.foldl (fun f l => f ||| (src l).2) q.fl }
/-- Free values that one word of blocks uses up. -/
def drawBlocks (s : State) : State := { s with free := s.free + 2048 }
/-- NCVT (R256). -/
def execNcvt (f : FA) (s : State) : Host.Outcome State Fault Refusal :=
  word (.ncvt f) s (pairRegs (f.b.getLsbD 3) f.a) fun s tk c =>
    let t := s.team tk
    let w := f.b.getLsbD 3
    let p := passesOf t c fun _ _ => if w then 4 else 1
    let rs := p.at_.flatMap fun x =>
      let b := formBlock s t x.2 (f.b.toNat % 8) w f.a x.1
      b.codes.map fun y => (y.1, ({ w := regW t y.1 f.d (BitVec.ofNat 64 (y.2 + 256 * b.scale)), fl := b.fl } : LaneRes))
    swept ((drawBlocks s).setTeam tk (applyLanes t rs)) p (if w then 14 else 8)
/-- STN (R257). The +0 code of a CB4 position that stores no lane is index 0 (DESIGN CHOICE, log 98). -/
def stnBody (k : BitVec 3) (d a : Reg) (sz : BitVec 4) (off : Int) : State → Nat → Nat → WRes := fun s tk c =>
  let t := s.team tk
  let kind := sz.toNat % 8
  let n := blockBytes kind
  let at_ := blkBases t c a off
  if tokBusy t k then .hold s
  else if at_.1 % 8 ≠ 0 then trapAt s tk cILLEGAL
  else
    let parts := fun (b : Nat × Nat) j => [((b.1 + j * n) % 2 ^ 64, n), ((b.2 + j) % 2 ^ 64, 1)]
    let p := passesOf t c fun j _ => max 1 (partLines ((passTeams s tk).flatMap fun m =>
      if maskWord ((s.team m).mask &&& (s.team m).live) j == 0 then [] else parts (blkBases (s.team m) c a off) j)).length
    let bs := p.at_.map fun x => (x.2, formBlock s t x.2 kind (sz.getLsbD 3) d x.1)
    let code := fun (b : NBlock) i => ((b.codes.find? fun y => y.1 == b.j * 32 + i && b.contrib.contains y.1).map (·.2)).getD 0
    let accs := bs.filterMap fun x =>
      match x.2.contrib with
      | [] => none
      | l :: _ => some ((⟨l, x.1, false, parts at_ x.2.j, none⟩ : Acc),
          packCodes (kindOf kind).b ((List.range 32).map (code x.2)) ++ [BitVec.ofNat 8 x.2.scale])
    let fl := bs.flatMap fun x => if x.2.fl == 0 then [] else x.2.codes.map fun y => (y.1, x.2.fl)
    storeWord (drawBlocks s) tk false k p accs fl
/-- STN (R257). -/
def execStn (f : FL) (s : State) : Host.Outcome State Fault Refusal :=
  word (.stn f) s (f.a :: nextReg f.a :: pairRegs (f.sz.getLsbD 3) f.d) fun s tk c => stnBody f.k f.d f.a f.sz 0 s tk c
/-- STN with offset (R257). -/
def execStnOffset (f : FLX) (s : State) : Host.Outcome State Fault Refusal :=
  word (.stnOffset f) s (f.a :: nextReg f.a :: pairRegs (f.sz.getLsbD 3) f.d) fun s tk c => stnBody f.k f.d f.a f.sz f.x.toInt s tk c

/-- PREF: a request for lines, which changes nothing that software sees (R144, R264). -/
def execPref (f : FA) (s : State) : Host.Outcome State Fault Refusal :=
  word (.pref f) s [f.a] fun s _ c => once s c 1 1
/-- PREF with offset (R264). -/
def execPrefOffset (f : FAX) (s : State) : Host.Outcome State Fault Refusal :=
  word (.prefOffset f) s [f.a] fun s _ c => once s c 1 1
/-- CBLD (R242). -/
def execCbld (f : FL) (s : State) : Host.Outcome State Fault Refusal :=
  word (.cbld f) s [f.a] fun s tk c =>
    let t := s.team tk
    let ea := (readReg t c 0 f.a).toNat
    if tokBusy t f.k then .hold s
    else if ea % 32 ≠ 0 then trapAt s tk cILLEGAL
    else loadTable s tk f.k c ea

end Sys2Proof.Machine
end

