-- ==== Sys2Proof/Machine/Atomics.lean ====
section
/-! DEFINITION. The thirteen atomics (R153, R168, R265 to R267, R381). -/
namespace Sys2Proof.Machine

/-- What an atomic leaves in memory, gives its lane, and raises. -/
structure AtomRes where
  new : Nat
  old : Nat
  fl : Flags
  deriving DecidableEq, Repr
/-- Bytes of an atomic's operand in memory (R265). -/
def atomBytes (op ty : Nat) : Nat := if 10 ≤ op then (if ty = 0 then 8 else 16) else if ty % 2 = 0 then 4 else 8
/-- The alignment it asks: 16 for an ACAS.64 (R265). -/
def atomAlign (op ty : Nat) : Nat := if op = 7 && ty = 1 then 16 else atomBytes op ty
/-- The integer atomics at a width (R266): memory m, operand v, compare value c. -/
def atomInt (op : Nat) (w : Bool) (sg : Bool) (m v c : Nat) : Nat :=
  match op with
  | 0 => (iAdd w m v).val
  | 1 => if sg then (iMinI w m v).val else (iMinN w m v).val
  | 2 => if sg then (iMaxI w m v).val else (iMaxN w m v).val
  | 3 => (iAnd w m v).val
  | 4 => (iOr w m v).val
  | 5 => (iXor w m v).val
  | 6 => v
  | 7 => if m = c then v else m
  | 8 => if v ≤ m then 0 else m + 1
  | _ => if m = 0 || decide (v < m) then v else m - 1
/-- An atomic on the bytes of memory (R266). Operands and memory are numbers of the operand's bytes. -/
def atomApply (op ty m v c : Nat) : AtomRes :=
  if 10 ≤ op then
    let f := fmtOf (ty == 1)
    let h := 2 ^ f.width
    let (x, fx) := readIv f (m % h) (m / h)
    let (y, fy) := readIv f (v % h) (v / h)
    let r := match op with | 10 => fAdd f x y | 11 => fMin f x y | _ => fMax f x y
    let o := writeIv f x
    ⟨r.lo + r.hi * h, o.lo + o.hi * h, r.fl ||| fx ||| fy⟩
  else ⟨atomInt op (ty % 2 == 1) (ty < 2) m v c, m, 0⟩
/-- The operand of a lane: v, and the compare value of ACAS (R266). -/
def atomOperand (t : Team) (c l op ty : Nat) (d : Reg) : Nat × Nat :=
  if 10 ≤ op then let (lo, hi) := readPairBits t c l (ty == 1) d; (lo + hi * 2 ^ (fmtOf (ty == 1)).width, 0)
  else
    let w := ty % 2 == 1
    if op = 7 then (readW t c l w (nextReg d), readW t c l w d) else (readW t c l w d, 0)
/-- The old value in a lane's register (R266). -/
def atomResult (t : Team) (l op ty : Nat) (d : Reg) (old : Nat) : RegW :=
  if 10 ≤ op then let h := 2 ^ (fmtOf (ty == 1)).width; ivW t l (ty == 1) d ⟨old % h, old / h, 0⟩
  else regW t l d (BitVec.ofNat 64 old)
/-- The operand bytes of an ATOM message, and its FLAGS (R409; the fields' places are log 20). -/
def atomMsg (v c : Nat) : List Byte := leBytes 16 v ++ leBytes 16 c
def atomFlags (op : Nat) (sz : BitVec 4) : BitVec 32 := BitVec.ofNat 32 (0x200 + op + 0x400 * sz.toNat)
/-- An atomic that is sent to the home of its line is out (R267, R410). -/
def atomOut (s : State) (key : Nat) : Bool := s.remoteOut.any fun x => x.2.what == 3 && x.2.key == key
/-- What must happen before it is sent: its page, if it is held here, goes back, and a tag is free; none: nothing. -/
def atomGate (s : State) (l : Nat) : Option State :=
  let s := sendBack s [lineOf l]
  if stillHeld s [lineOf l] || decide (4096 ≤ freshTag s) then some s else none
/-- Sends an atomic to the home of its line under a fresh tag, once (R267, R410). -/
def remoteAtom (s : State) (l key : Nat) (flags : BitVec 32) (body : List Byte) : State :=
  if atomOut s key then s
  else match atomGate s l with
    | some s => s
    | none => remoteAsk (sendBack s [lineOf l]) 0x0A l 3 flags body key

/-- One lane of an atomic that can be performed. -/
structure ALane where
  lane : Nat
  loc : Nat
  pl : Place
  v : Nat
  c : Nat
  deriving DecidableEq, Repr
/-- Where the lanes of an atomic's accesses lie. -/
def atomPlaces (s : State) (tk : Nat) (live : List Acc) : List (Nat × List (Nat × Place)) :=
  (reachAll s tk .write live).map fun x => (x.1.lane, x.2.filterMap fun b => match b with | .gl l p => some (l, p) | .sc _ => none)
/-- The lanes of an atomic, with their operands as the word issues. -/
def atomLanes (s : State) (tk op ty : Nat) (d : Reg) (live : List Acc) (pls : List (Nat × List (Nat × Place))) : List ALane :=
  live.filterMap fun x => match (pls.find? fun y => y.1 == x.lane).map (·.2) with
    | some ((loc, pl) :: _) => let (v, c) := atomOperand (s.team tk) x.cyc x.lane op ty d; some ⟨x.lane, loc, pl, v, c⟩
    | _ => none
/-- Performs one lane's event at home; the lane's old value and flags (R143, R266). -/
def atomEvent (op ty tk : Nat) (s : State) (a : ALane) : State × Nat × BitVec 5 :=
  let n := atomBytes op ty
  let m := leVal ((List.range n).map fun i => readMem s (a.loc + i))
  let x := atomApply op ty m a.v a.c
  let cells := (List.range n).zip (leBytes n x.new) |>.map fun y => (a.loc + y.1, y.2)
  (writeEvent s (some tk) cells (if a.pl.coh = 1 then [(a.pl.base, a.pl.size)] else []), x.old, x.fl)
/-- A lane has acted. -/
def laneDone (s : State) (tk lane old : Nat) (fl : BitVec 5) : State :=
  s.modTeam tk fun t => { t with lanesDone := t.lanesDone ++ [(lane, old, fl)] }
/-- The order-log entry of one event of a float or interval atomic: its group, team, lane and location (R267, R381). -/
def atomLog (s : State) (tk op : Nat) (sz : BitVec 4) (a : ALane) : Logged :=
  if op < 10 then .ok s
  else match teamGroup s tk with
    | some g => orderLog s g.seq (if sz.toNat % 4 = 1 then 0x05 else 0x04) (dieOfCore g.core) [g.idx, (s.team tk).teami, a.lane, a.loc]
    | none => .ok s
/-- How far the lanes of an atomic have come: all have acted, some wait, or the order log has stopped their grid. -/
inductive AtomEnd where
  | all (s : State)
  | hold (s : State)
  | gone (s : State)
/-- Performs the lanes of an atomic in ascending order: a lane of another E9 is performed at its home, and the lanes after
it wait for its reply (R145, R410). Each event is logged as it is performed, or sent (R381). -/
def atomLoop (op ty tk : Nat) (sz : BitVec 4) : List ALane → State → AtomEnd
  | [], s => .all s
  | a :: r, s =>
    if isRemote a.loc then
      match tget? s.remoteIn (atomKey tk a.lane) with
      | some b =>
        let x := atomApply op ty (leVal (b.take (atomBytes op ty))) a.v a.c
        atomLoop op ty tk sz r (laneDone { s with remoteIn := tdel s.remoteIn (atomKey tk a.lane) } tk a.lane x.old x.fl)
      | none =>
        if atomOut s (atomKey tk a.lane) then .hold s
        else match atomGate s a.loc with
          | some s => .hold s
          | none => match atomLog s tk op sz a with
            | .wait => .hold s
            | .stopped s => .gone s
            | .ok s => .hold (remoteAtom s a.loc (atomKey tk a.lane) (atomFlags op sz) (atomMsg a.v a.c))
    else match atomLog s tk op sz a with
      | .wait => .hold s
      | .stopped s => .gone s
      | .ok s =>
        let (s, old, fl) := atomEvent op ty tk s a
        atomLoop op ty tk sz r (laneDone s tk a.lane old fl)
/-- Lines of the lanes of an atomic in this E9's own memory: all of them are gained before the first acts, so that no event
falls between those of the word (R145). -/
def nearLines (ls : List ALane) : List (Nat × Nat) :=
  ((ls.filter fun a => !isRemote a.loc).map fun a => (lineOf a.loc, a.pl.coh)).eraseDups
/-- The lanes of an atomic that have yet to act. -/
def lanesLeft (s : State) (tk : Nat) (ls : List ALane) : List ALane :=
  ls.filter fun a => !(s.team tk).lanesDone.any fun x => x.1 == a.lane
/-- The negative reply that a lane of another E9 has met, with its address (R400, R409). -/
def atomNack (s : State) (live : List Acc) (ls : List ALane) : Option (Nat × Nat) :=
  ls.findSome? fun a => if !isRemote a.loc then none
    else (tget? s.nacks (lineOf a.loc)).map fun c =>
      (c, (((live.find? fun x => x.lane == a.lane).bind fun x => x.parts.head?).map (·.1)).getD 0)
/-- The wait of an irrevocable memory word: it keeps the places its check found, and is not checked again (R251, R277,
R278). -/
def placedWait (s : State) (tk : Nat) (pls : List (Nat × List (Nat × Place))) : State := s.modTeam tk fun t => { t with placed := some pls }
/-- An atomic of every lane (R265 to R267). On a U page it makes the region entry after it that R152 gives and no other
before it (DESIGN CHOICE, log 96). -/
def atomBody (op : Nat) (f : FL) : State → Nat → Nat → WRes := fun s tk c =>
  let t := s.team tk
  let sc := scalarClass tk [f.d, f.a]
  let ty := f.sz.toNat / 4
  let comb := f.sz.toNat % 4 == 2
  let p := if sc then ⟨[(0, c)], c, c + 1⟩ else passesOf t c fun j _ => lanesOfPass s tk j
  let accs := (if sc then [0] else activeLanes t).map fun l =>
    let k := passCycle p l
    (⟨l, k, false, [((readReg t k l f.a).toNat, atomBytes op ty)], none⟩ : Acc)
  let live := accs.filter fun a => !isHelperLane t sc a.lane
  let misaligned := t.placed.isNone && live.any fun a => a.parts.any fun x => x.1 % atomAlign op ty != 0
  let flt := if t.placed.isNone then firstFault s tk .write live else none
  if tokBusy t f.k then .hold s
  else if misaligned then trapAt s tk cILLEGAL
  else match flt with
    | some (ca, va, _) => .trap s ca (BitVec.ofNat 64 va) 0 0 1
    | none =>
      let pls := t.placed.getD (atomPlaces s tk live)
      match irrevWait (placedWait s tk pls) tk with
      | some r => r
      | none =>
        let s := closedFor (placedWait s tk pls) tk
        let ls := atomLanes s tk op ty f.d live pls
        match atomNack s live ls with
        | some (ca, va) => .trap s ca (BitVec.ofNat 64 va) 0 0 1
        | none =>
          let left := lanesLeft s tk ls
          match gates s tk (nearLines left) true with
          | some s => .hold (wanting s tk (nearLines left))
          | none =>
            match atomLoop op ty tk f.sz left s with
            | .hold s => .hold s
            | .gone s => .gone s
            | .all s =>
              let t := s.team tk
              let rs := t.lanesDone
              let hw := (accs.filter fun a => isHelperLane t sc a.lane).map fun a => zeroRes { w := atomResult t a.lane op ty f.d 0 }
              let ws := if comb then [] else rs.map (fun x => atomResult t x.1 op ty f.d x.2.1) ++ hw.map (·.w)
              let flw := rs.flatMap fun x => flagPlaces t sc x.1 x.2.2
              let t := putInflight { t with oiCount := 0 } (some f.k.toNat) .arrival false
                (ws.flatMap fun w => lateV w 0) (ws.flatMap fun w => lateS w 0) flw none
              .done (entryAfter (noteTlb (s.setTeam tk t) tk live) tk) p.last p.fin 1
/-- AADD (R265, R266). -/
def execAadd (f : FL) (s : State) : Host.Outcome State Fault Refusal :=
  word (.aadd f) s [f.d, f.a] fun s tk c => atomBody 0 f s tk c
/-- AMIN (R265, R266). -/
def execAmin (f : FL) (s : State) : Host.Outcome State Fault Refusal :=
  word (.amin f) s [f.d, f.a] fun s tk c => atomBody 1 f s tk c
/-- AMAX (R265, R266). -/
def execAmax (f : FL) (s : State) : Host.Outcome State Fault Refusal :=
  word (.amax f) s [f.d, f.a] fun s tk c => atomBody 2 f s tk c
/-- AAND (R265, R266). -/
def execAand (f : FL) (s : State) : Host.Outcome State Fault Refusal :=
  word (.aand f) s [f.d, f.a] fun s tk c => atomBody 3 f s tk c
/-- AOR (R265, R266). -/
def execAor (f : FL) (s : State) : Host.Outcome State Fault Refusal :=
  word (.aor f) s [f.d, f.a] fun s tk c => atomBody 4 f s tk c
/-- AXOR (R265, R266). -/
def execAxor (f : FL) (s : State) : Host.Outcome State Fault Refusal :=
  word (.axor f) s [f.d, f.a] fun s tk c => atomBody 5 f s tk c
/-- AXCHG (R265, R266). -/
def execAxchg (f : FL) (s : State) : Host.Outcome State Fault Refusal :=
  word (.axchg f) s [f.d, f.a] fun s tk c => atomBody 6 f s tk c
/-- ACAS (R265, R266). -/
def execAcas (f : FL) (s : State) : Host.Outcome State Fault Refusal :=
  word (.acas f) s [f.d, nextReg f.d, f.a] fun s tk c => atomBody 7 f s tk c
/-- AINC (R265, R266). -/
def execAinc (f : FL) (s : State) : Host.Outcome State Fault Refusal :=
  word (.ainc f) s [f.d, f.a] fun s tk c => atomBody 8 f s tk c
/-- ADEC (R265, R266). -/
def execAdec (f : FL) (s : State) : Host.Outcome State Fault Refusal :=
  word (.adec f) s [f.d, f.a] fun s tk c => atomBody 9 f s tk c
/-- AFADD (R265, R266). -/
def execAfadd (f : FL) (s : State) : Host.Outcome State Fault Refusal :=
  word (.afadd f) s (f.a :: pairRegs (f.sz.getLsbD 2) f.d) fun s tk c => atomBody 10 f s tk c
/-- AFMIN (R265, R266). -/
def execAfmin (f : FL) (s : State) : Host.Outcome State Fault Refusal :=
  word (.afmin f) s (f.a :: pairRegs (f.sz.getLsbD 2) f.d) fun s tk c => atomBody 11 f s tk c
/-- AFMAX (R265, R266). -/
def execAfmax (f : FL) (s : State) : Host.Outcome State Fault Refusal :=
  word (.afmax f) s (f.a :: pairRegs (f.sz.getLsbD 2) f.d) fun s tk c => atomBody 12 f s tk c

end Sys2Proof.Machine
end

