-- ==== Sys2Proof/Machine/Crypto.lean ====
section
/-! DEFINITION. SHA-512 and Ed25519, which the boot ROM, the measurement registers and the identity key use (R419 to
R424); their definitions are those of the published standards (log 22). -/
namespace Sys2Proof.Machine

/-- Round constants: the fractions of the cube roots of the first 80 primes. -/
def shaK : List Word := [
  0x428A2F98D728AE22, 0x7137449123EF65CD, 0xB5C0FBCFEC4D3B2F, 0xE9B5DBA58189DBBC,
  0x3956C25BF348B538, 0x59F111F1B605D019, 0x923F82A4AF194F9B, 0xAB1C5ED5DA6D8118,
  0xD807AA98A3030242, 0x12835B0145706FBE, 0x243185BE4EE4B28C, 0x550C7DC3D5FFB4E2,
  0x72BE5D74F27B896F, 0x80DEB1FE3B1696B1, 0x9BDC06A725C71235, 0xC19BF174CF692694,
  0xE49B69C19EF14AD2, 0xEFBE4786384F25E3, 0x0FC19DC68B8CD5B5, 0x240CA1CC77AC9C65] ++
 [
  0x2DE92C6F592B0275, 0x4A7484AA6EA6E483, 0x5CB0A9DCBD41FBD4, 0x76F988DA831153B5,
  0x983E5152EE66DFAB, 0xA831C66D2DB43210, 0xB00327C898FB213F, 0xBF597FC7BEEF0EE4,
  0xC6E00BF33DA88FC2, 0xD5A79147930AA725, 0x06CA6351E003826F, 0x142929670A0E6E70,
  0x27B70A8546D22FFC, 0x2E1B21385C26C926, 0x4D2C6DFC5AC42AED, 0x53380D139D95B3DF,
  0x650A73548BAF63DE, 0x766A0ABB3C77B2A8, 0x81C2C92E47EDAEE6, 0x92722C851482353B] ++
 [
  0xA2BFE8A14CF10364, 0xA81A664BBC423001, 0xC24B8B70D0F89791, 0xC76C51A30654BE30,
  0xD192E819D6EF5218, 0xD69906245565A910, 0xF40E35855771202A, 0x106AA07032BBD1B8,
  0x19A4C116B8D2D0C8, 0x1E376C085141AB53, 0x2748774CDF8EEB99, 0x34B0BCB5E19B48A8,
  0x391C0CB3C5C95A63, 0x4ED8AA4AE3418ACB, 0x5B9CCA4F7763E373, 0x682E6FF3D6B2B8A3,
  0x748F82EE5DEFB2FC, 0x78A5636F43172F60, 0x84C87814A1F0AB72, 0x8CC702081A6439EC] ++
 [
  0x90BEFFFA23631E28, 0xA4506CEBDE82BDE9, 0xBEF9A3F7B2C67915, 0xC67178F2E372532B,
  0xCA273ECEEA26619C, 0xD186B8C721C0C207, 0xEADA7DD6CDE0EB1E, 0xF57D4F7FEE6ED178,
  0x06F067AA72176FBA, 0x0A637DC5A2C898A6, 0x113F9804BEF90DAE, 0x1B710B35131C471B,
  0x28DB77F523047D84, 0x32CAAB7B40C72493, 0x3C9EBE0A15C9BEBC, 0x431D67C49C100D4C,
  0x4CC5D4BECB3E42B6, 0x597F299CFC657E2A, 0x5FCB6FAB3AD6FAEC, 0x6C44198C4A475817]
/-- The initial hash: the fractions of the square roots of the first 8 primes. -/
def shaInit : List Word := [
  0x6A09E667F3BCC908, 0xBB67AE8584CAA73B, 0x3C6EF372FE94F82B, 0xA54FF53A5F1D36F1,
  0x510E527FADE682D1, 0x9B05688C2B3E6C1F, 0x1F83D9ABFB41BD6B, 0x5BE0CD19137E2179]
def rotr (x : Word) (n : Nat) : Word := (x >>> n) ||| (x <<< (64 - n))
/-- The message schedule, newest first: words are added until 80 stand. -/
def shaSched : Nat → List Word → List Word
  | 0, l => l
  | n + 1, l =>
    let w := fun i => nth 0 l i
    let a := w 14
    let b := w 1
    let s0 := rotr a 1 ^^^ rotr a 8 ^^^ (a >>> 7)
    let s1 := rotr b 19 ^^^ rotr b 61 ^^^ (b >>> 6)
    shaSched n ((w 15 + s0 + w 6 + s1) :: l)
/-- The eight working words. -/
structure ShaSt where
  (a b c d e f g h : Word)
  deriving DecidableEq, Repr
def shaRound (x : ShaSt) (kw : Word × Word) : ShaSt :=
  let s1 := rotr x.e 14 ^^^ rotr x.e 18 ^^^ rotr x.e 41
  let ch := (x.e &&& x.f) ^^^ (~~~x.e &&& x.g)
  let t1 := x.h + s1 + ch + kw.1 + kw.2
  let s0 := rotr x.a 28 ^^^ rotr x.a 34 ^^^ rotr x.a 39
  let mj := (x.a &&& x.b) ^^^ (x.a &&& x.c) ^^^ (x.b &&& x.c)
  ⟨t1 + s0 + mj, x.a, x.b, x.c, x.d + t1, x.e, x.f, x.g⟩
/-- A word of eight bytes, most significant first. -/
def beWord (l : List Byte) : Word := BitVec.ofNat 64 (l.foldl (fun a b => a * 256 + b.toNat) 0)
def beBytes (n v : Nat) : List Byte := (leBytes n v).reverse
def shaBlock (h : List Word) (b : List Byte) : List Word :=
  let ws := (List.range 16).map fun i => beWord ((b.drop (8 * i)).take 8)
  let w := (shaSched 64 ws.reverse).reverse
  let g := fun i => nth 0 h i
  let r := (shaK.zip w).foldl shaRound ⟨g 0, g 1, g 2, g 3, g 4, g 5, g 6, g 7⟩
  [g 0 + r.a, g 1 + r.b, g 2 + r.c, g 3 + r.d, g 4 + r.e, g 5 + r.f, g 6 + r.g, g 7 + r.h]
def shaBlocks : Nat → List Word → List Byte → List Word
  | 0, h, _ => h
  | n + 1, h, b => shaBlocks n (shaBlock h (b.take 128)) (b.drop 128)
/-- SHA-512 of bytes, as 64 bytes. -/
def sha512 (m : List Byte) : List Byte :=
  let z := (239 - m.length % 128) % 128
  let p := m ++ [0x80#8] ++ List.replicate z 0 ++ beBytes 16 (8 * m.length)
  (shaBlocks (p.length / 128) shaInit p).flatMap fun w => beBytes 8 w.toNat

/-- The field and the group order of the curve. -/
def edP : Nat := 2 ^ 255 - 19
def edL : Nat := 2 ^ 252 + 27742317777372353535851937790883648493
/-- Powers modulo the prime. -/
def edPow : Nat → Nat → Nat → Nat
  | 0, _, _ => 1
  | n + 1, b, e => let r := edPow n (b * b % edP) (e / 2); if e % 2 = 1 then r * b % edP else r
def edInv (a : Nat) : Nat := edPow 255 a (edP - 2)
def edSub (a b : Nat) : Nat := (a + edP - b % edP) % edP
def edD : Nat := 37095705934669439343138083508754565189542113879843219016388785533085940283555
/-- A point in extended coordinates. -/
structure EdPt where
  (x y z t : Nat)
  deriving DecidableEq, Repr
def EdPt.zero : EdPt := ⟨0, 1, 1, 0⟩
def edBase : EdPt :=
  let x := 15112221349535400772501151409588531511454012693041857206046113283949847762202
  let y := 46316835694926478169428394003475163141307993866256225615783033603165251855960
  ⟨x, y, 1, x * y % edP⟩
def EdPt.add (p q : EdPt) : EdPt :=
  let a := edSub p.y p.x * edSub q.y q.x % edP
  let b := (p.y + p.x) * (q.y + q.x) % edP
  let c := 2 * p.t * q.t % edP * edD % edP
  let d := 2 * p.z * q.z % edP
  let e := edSub b a
  let f := edSub d c
  let g := (d + c) % edP
  let h := (b + a) % edP
  ⟨e * f % edP, g * h % edP, f * g % edP, e * h % edP⟩
/-- The multiple of a point by a number of n bits. -/
def EdPt.mul : Nat → Nat → EdPt → EdPt
  | 0, _, _ => EdPt.zero
  | n + 1, k, p => let r := EdPt.mul n (k / 2) (p.add p); if k % 2 = 1 then r.add p else r
/-- Two points are the same. -/
def EdPt.same (p q : EdPt) : Bool := p.x * q.z % edP == q.x * p.z % edP && p.y * q.z % edP == q.y * p.z % edP
/-- The 32 bytes of a point. -/
def EdPt.bytes (p : EdPt) : List Byte :=
  let i := edInv p.z
  leBytes 32 (p.y * i % edP + 2 ^ 255 * (p.x * i % edP % 2))
/-- The point of 32 bytes, if they name one. -/
def edPoint (b : List Byte) : Option EdPt :=
  let v := leVal (b.take 32)
  let y := v % 2 ^ 255
  if edP ≤ y then none
  else
    let u := edSub (y * y) 1
    let w := (edD * (y * y % edP) + 1) % edP
    let xx := u * edInv w % edP
    let x := edPow 255 xx ((edP + 3) / 8)
    let x := if x * x % edP = xx then x else x * edPow 255 2 ((edP - 1) / 4) % edP
    if x * x % edP ≠ xx then none
    else if x = 0 && v / 2 ^ 255 = 1 then none
    else let x := if x % 2 = v / 2 ^ 255 then x else edP - x
         some ⟨x, y, 1, x * y % edP⟩
/-- The secret scalar of a seed. -/
def edScalar (seed : List Byte) : Nat :=
  let a := leVal ((sha512 (seed.take 32)).take 32)
  2 ^ 254 + a % 2 ^ 254 / 8 * 8
/-- The public key of a seed. -/
def edPublic (seed : List Byte) : List Byte := (EdPt.mul 256 (edScalar seed) edBase).bytes
/-- Whether a signature of a message verifies under a public key. -/
def edVerify (key msg sig : List Byte) : Bool :=
  let s := leVal ((sig.drop 32).take 32)
  if edL ≤ s then false
  else match edPoint key, edPoint sig with
    | some a, some r =>
      let k := leVal (sha512 (sig.take 32 ++ key.take 32 ++ msg)) % edL
      (EdPt.mul 256 s edBase).same (r.add (EdPt.mul 256 k a))
    | _, _ => false

end Sys2Proof.Machine
end

