-- ==== Sys2Proof/Machine/Copies.lean ====
section
/-! DEFINITION. Copy chains: CPYGO, CPYST, PUBL, and the engine's records, arrivals and sluice steps (R36, R136, R137,
R154, R159 to R164, R269, R271 to R274, R434). -/
namespace Sys2Proof.Machine

/-- A channel of a core, and its change. -/
def chanOf (s : State) (core ch : Nat) : Channel := tget Channel.reset (s.core core).chans ch
def modChan (s : State) (core ch : Nat) (f : Channel → Channel) : State :=
  let x := s.core core
  s.setCore core { x with chans := tset Channel.reset x.chans ch (f (tget Channel.reset x.chans ch)) }
/-- A chain before its first record. -/
def newChain (s : State) (core ch ctx head : Nat) : Chain :=
  { cid := s.nextCid, tk := none, gid := none, rid := 0, inflightId := none, queueRec := none, core := core, ch := ch,
    ctx := ctx, cur := head, committed := false, publ := false, shadow := [], spages := [], poisonLines := [],
    busy := false, arrivals := [], dw0 := 0, done := 0, stat := 0, fcause := 0, faddr := 0, slines := [], ulines := [],
    stepDue := false, ended := false, stop := 0 }
/-- Queues a chain's head on its channel. -/
def queueChain (s : State) (c : Chain) : State :=
  modChan { s.setChain c with nextCid := s.nextCid + 1 } c.core c.ch fun x => { x with heads := x.heads ++ [c.cid] }
/-- CPYGO (R271). -/
def execCpygo (f : FA) (s : State) : Host.Outcome State Fault Refusal :=
  word (.cpygo f) s [f.a] fun s tk c =>
    let t := s.team tk
    let ch := f.b.toNat % 4
    let te := f.b.getLsbD 2
    let tok : BitVec 3 := f.b.extractLsb' 3 3
    let core := teamCore s tk
    let head := (readReg t c 0 f.a).toNat
    if te && tokBusy t tok then .hold s
    else if head % 64 ≠ 0 then trapAt s tk cILLEGAL
    else if 16 ≤ (chanOf s core ch).heads.length then .hold s
    else
      let x := { newChain s core ch (teamAs s tk) head with
        tk := some tk, gid := some t.gid, rid := (t.regions.reverse.head?.map (·.rid)).getD (t.nextRid - 1),
        inflightId := if te then some t.nextId else none }
      let s := queueChain s x
      let s := if !t.regions.isEmpty then s
        else if unticketed s t.gid then s.setChain { x with committed := true } else clearPresence s { x with committed := true }
      let s := if te then s.setTeam tk (putInflight t (some tok.toNat) (.chain x.cid) false [] [] [] none) else s
      once s c 1 1
/-- CPYST (R274). -/
def execCpyst (f : FA) (s : State) : Host.Outcome State Fault Refusal :=
  word (.cpyst f) s [] fun s tk c =>
    let t := s.team tk
    let x := chanOf s (teamCore s tk) (f.b.toNat % 4)
    let v := x.heads.length % 32 + (if x.heads.isEmpty then 0 else 32) + 64 * x.stopped.toNat + 2 ^ 8 * x.lastSt +
      2 ^ 32 * (x.done % 2 ^ 32)
    once (s.setTeam tk (writeRegs t (regW t 0 f.d (BitVec.ofNat 64 v)))) c 1 1
/-- PUBL (R274). -/
def execPubl (f : FA) (s : State) : Host.Outcome State Fault Refusal :=
  word (.publ f) s [] fun s tk c =>
    match (chanOf s (teamCore s tk) (f.b.toNat % 4)).heads with
    | h :: _ => match s.chain? h with
      | some x => once (if x.gid == some (s.team tk).gid then s.setChain { x with publ := true } else s) c 1 1
      | none => once s c 1 1
    | [] => once s c 1 1

/-- The fields of a record within their limits (R272). -/
def recordFields (l : List Nat) : Bool :=
  let d0 := nth 0 l 0
  let d1 := nth 0 l 1
  bits d0 4 2 == 0 && bits d0 57 7 == 0 && decide (bits d1 0 3 < 2) && decide (bits d1 3 3 < 5) && bits d1 13 3 == 0 &&
  bits d1 24 8 == 0 && bits (nth 0 l 4) 48 16 == 0 && bits (nth 0 l 7) 48 16 == 0 && (bits d1 12 1 == 0 || bits d0 3 1 == 1)
/-- The first scratch offset of a record outside the program part of the stash, of `prog` bytes (R134, R272); the pattern
of a FILL names no scratch. -/
def recordOut (l : List Nat) (prog : Nat) : Option Nat :=
  let es := (recElems l).filter fun e => !recSkip l e
  let out := fun (on : Bool) (f : Nat × Nat × Nat → Nat) => if on then (es.find? fun e => decide (prog < f e + recEs l)).map f else none
  match out (bits (nth 0 l 0) 2 1 == 1 && bits (nth 0 l 1) 0 3 == 0) (recSrc l) with
  | some a => some a
  | none => out (bits (nth 0 l 0) 3 1 == 1) (recDst l)
/-- A record that the engine executes; where there is no group, scratch is out of its limits (R272, R374). -/
def recordOk (l : List Nat) (prog : Option Nat) : Bool :=
  recordFields l && match prog with
    | some p => (recordOut l p).isNone
    | none => bits (nth 0 l 0) 2 2 == 0
/-- The global address that a scratch offset of a mapped line stands for (R135). -/
def mappedVa (g : Option Group) (o : Nat) : Option Nat :=
  (g.bind fun g => g.maps.find? fun m => decide (m.off ≤ o) && decide (o < m.off + m.len)).map fun m => m.addr + (o - m.off)
/-- A scratch byte as the engine reads it: with the earlier elements of its chain (R273). -/
def engScratch (g : Option Group) (arr : List Arrival) (off : Nat) : Byte :=
  match (arr.reverse.findSome? fun a => match a.bytes with
      | some b => if a.off ≤ off && decide (off < a.off + a.size) then some (nth 0 b (off - a.off)) else none
      | none => none) with
  | some b => b
  | none => (g.map fun g => tget 0 g.scratch off).getD 0
/-- Bytes read at their source with whether any is poisoned, or a fault. -/
abbrev SrcBytes := List Byte × Bool × Option (Nat × Nat)
/-- Scratch bytes of a source, those of mapped lines at their global addresses (R135, R273). -/
def engSource (s : State) (c : Chain) (off n : Nat) : SrcBytes :=
  let g := c.gid.bind s.group?
  (List.range n).foldl (fun (r : SrcBytes) i =>
    match r.2.2, mappedVa g (off + i) with
    | some _, _ => r
    | none, none => (r.1 ++ [engScratch g c.arrivals (off + i)], r.2.1 || (g.map fun g => g.spoison.contains ((off + i) / 128)).getD false ||
        c.arrivals.any fun a => a.poison && decide (a.off / 128 ≤ (off + i) / 128) && decide ((off + i) / 128 ≤ (a.off + a.size - 1) / 128), none)
    | none, some va => match xlateN s c.core c.ctx va 1 .read true with
      | .ok ps => (r.1 ++ ps.map fun x => readEng s (chainAgent c.cid) c.gid x.1, r.2.1 || poisoned s ps, none)
      | .fault ca a => (r.1, r.2.1, some (ca, a))) ([], false, none)
/-- A fault of the mapped lines that some scratch bytes are written to. -/
def mappedFault (s : State) (core ctx gid off n : Nat) : Option (Nat × Nat) :=
  (List.range n).findSome? fun i => (mappedVa (s.group? gid) (off + i)).bind fun va =>
    match xlateN s core ctx va 1 .write true with | .fault ca a => some (ca, a) | .ok _ => none
/-- Where bytes that an engine delivers to scratch go: offsets of scratch lines, and places of mapped lines (R135). -/
def scratchSplit (s : State) (core ctx gid : Nat) (cells : List (Nat × Byte)) : List (Nat × Byte) × List ((Nat × Place) × Byte) :=
  let g := s.group? gid
  (cells.filter fun x => (mappedVa g x.1).isNone,
   cells.filterMap fun x => (mappedVa g x.1).bind fun va => match xlateN s core ctx va 1 .write true with
     | .ok (p :: _) => some (p, x.2)
     | _ => none)
/-- Delivered bytes reach scratch, and mapped lines as one event at their global addresses (R135, R136). -/
def scratchPut (s : State) (core ctx gid : Nat) (cells : List (Nat × Byte)) : State :=
  let (sc, gl) := scratchSplit s core ctx gid cells
  let held := ((cells.filter fun x => (mappedVa (s.group? gid) x.1).isSome).zip gl).map fun x => (x.1.1 / 128, lineOf x.2.1.1)
  let whole := fun (l : Nat) => (List.range 128).all fun i => sc.any fun x => x.1 == l * 128 + i
  let s := s.modGroup gid fun g => { g with scratch := tsetAll 0 g.scratch sc, spoison := g.spoison.filter fun l => !whole l }
  noteMapped (writeEvent s none (gl.map fun x => (x.1.1, x.2))
    ((gl.filterMap fun x => if x.1.2.coh = 1 then some (x.1.2.base, x.1.2.size) else none).eraseDups)) gid held.eraseDups
/-- Lines that poisoned bytes have been delivered to are poisoned: scratch lines, and mapped lines at their homes (R434). -/
def scratchPoison (s : State) (core ctx gid : Nat) (cells : List (Nat × Byte)) : State :=
  let (sc, gl) := scratchSplit s core ctx gid cells
  let s := s.modGroup gid fun g => { g with spoison := (sc.map fun x => x.1 / 128).foldl nins g.spoison }
  { s with poison := (gl.map fun x => lineOf x.1.1).foldl nins s.poison }
/-- What must happen before those bytes can be delivered; none: nothing. -/
def scratchGate (s : State) (core ctx gid : Nat) (cells : List (Nat × Byte)) : Option State :=
  gates s noTeam (((scratchSplit s core ctx gid cells).2.map fun x => (lineOf x.1.1, 0)).eraseDups) true
/-- A transfer STATUS for a fault of the source or the destination (R272). -/
def xferStatus (cause : Nat) (dst : Bool) : Nat := if cause = cACCESS then 3 else if dst then 2 else 1
/-- S pages of some places. -/
def sPagesOf (ps : List (Nat × Place)) : List (Nat × Nat) :=
  ps.filterMap fun x => if x.2.coh = 1 then some (x.2.base, x.2.size) else none
/-- Lines of some places, with the attributes that they are reached under. -/
def placeLines (ps : List (Nat × Place)) : List (Nat × Nat) := (ps.map fun x => (lineOf x.1, x.2.coh)).eraseDups
/-- Lines of another E9 that some places reach under U. -/
def uLinesOf (ps : List (Nat × Place)) : List Nat :=
  distinct (ps.filterMap fun x => if isRemote x.1 && x.2.coh == 2 then some (lineOf x.1) else none)
/-- Lines of another E9 among the places of an access, with the first virtual address of the access in each. -/
def farVas (va : Nat) (ps : List (Nat × Place)) : Tab Nat :=
  tputAll [] ((ps.zipIdx.filterMap fun x => if isRemote x.1.1 then some (lineOf x.1.1, va + x.2) else none).reverse)
/-- One element (R273). -/
def copyElem (s : State) (l : List Nat) (c : Chain) (e : Nat × Nat × Nat) : Chain :=
  if c.stat ≠ 0 then c
  else
    let d0 := nth 0 l 0
    let d1 := nth 0 l 1
    let es := recEs l
    let h := if bits d1 12 1 = 1 then some (bits d1 6 6) else none
    let t := recDst l e
    if recSkip l e then (if h.isSome then { c with arrivals := c.arrivals ++ [⟨t, none, es, h, false⟩] } else c)
    else
      let src : SrcBytes :=
        if bits d1 0 3 = 1 then (leBytes es (nth 0 l 2 + 2 ^ 64 * nth 0 l 2), false, none)
        else if bits d0 2 1 = 1 then
          engSource s c (recSrc l e) es
        else match xlateN s c.core c.ctx (recSrc l e) es .read true with
          | .ok ps => (ps.map fun x => readEng s (chainAgent c.cid) c.gid x.1, poisoned s ps, none)
          | .fault ca a => ([], false, some (ca, a))
      match src with
      | (_, _, some (ca, a)) => { c with stat := xferStatus ca false, fcause := ca, faddr := a }
      | (b, po, none) =>
        if bits d0 3 1 = 1 then
          match mappedFault s c.core c.ctx (c.gid.getD 0) t es with
          | some (ca, a) => { c with stat := xferStatus ca true, fcause := ca, faddr := a }
          | none => { c with arrivals := c.arrivals ++ [⟨t, some b, es, h, po⟩] }
        else match xlateN s c.core c.ctx t es .write true with
          | .fault ca a => { c with stat := xferStatus ca true, fcause := ca, faddr := a }
          | .ok ps => { c with
              shadow := tputAll c.shadow ((ps.map fun (x : Nat × Place) => x.1).zip b), done := c.done + es,
              spages := (sPagesOf ps).foldl
                (fun l p => if l.contains p then l else l ++ [p]) c.spages,
              ulines := (uLinesOf ps).foldl nins c.ulines, vas := tputAll c.vas (farVas t ps),
              poisonLines := if po then (ps.map fun (x : Nat × Place) => lineOf x.1).foldl nins c.poisonLines else c.poisonLines }
/-- Scratch lines are present from a cycle on, and the teams that wait for them ready (R136, R137, R294). -/
def linesIn (s : State) (gid : Nat) (lines : List Nat) (c : Nat) : State :=
  wakePresence (s.modGroup gid fun g => { g with
    absent := g.absent.filter fun l => !lines.contains l, present := lines.foldl (fun m l => tput m l c) g.present }) gid
/-- The chain leaves its channel: its token frees, and a host command retires (R36, R271, R273, R374). -/
def endChain (s : State) (c : Chain) : State :=
  let s := { s with chains := tdel s.chains c.cid, nacks := [] }
  let s := modChan s c.core c.ch fun x => if 4 ≤ c.ch then Channel.reset else { x with
    heads := x.heads.filter fun h => h != c.cid, lastSt := c.stop, stopped := c.stop != 0 }
  let s := match c.gid with
    | some gid =>
      let s := settleHandles (linesIn s gid c.slines (s.pair (pairOfCore c.core)).cyc) gid
      match s.group? gid with
      | some g =>
        if g.st == .draining && c.fcause != 0 then
          failGrid (journalEvent s (s.grid? g.seq) true c.fcause (g.idx % 2 ^ 32) 0 0 (BitVec.ofNat 64 c.faddr)) g.seq c.fcause
            (g.idx % 2 ^ 32) (BitVec.ofNat 64 c.faddr)
        else s
      | none => s
    | none => s
  let s := match c.tk, c.inflightId with
    | some tk, some id => arrive s tk id (max (teamCyc s tk) (s.team tk).clk)
    | _, _ => s
  match c.queueRec with
  | some (q, seq) =>
    let st := if c.stop = 0 then 0 else 0x0B
    let s := journalStep s seq fun r =>
      { r with st := if c.stop = 0 then 2 else 3, status := st, info := c.stop, addr := BitVec.ofNat 64 c.faddr }
    retireCommand s q seq st (c.stop != 0)
  | none => s
/-- The end of the record in hand: STATUS, DONE and OWN go into the next step (R273). -/
def endRecord (s : State) (c : Chain) : State :=
  let wb := xlateN s c.core c.ctx c.cur 16 .write true
  let (cells, sp, ul, va, bad) : List (Nat × Byte) × List (Nat × Nat) × List Nat × Tab Nat × Option (Nat × Nat) := match wb with
    | .fault ca a => ([], [], [], [], some (ca, a))
    | .ok ps =>
      let put := fun (i v : Nat) => (nth 0 (ps.map (·.1)) i, BitVec.ofNat 8 v)
      ([put 0 (c.dw0 / 2 * 2), put 10 c.stat] ++ (List.range 4).map (fun i => put (12 + i) (bits c.done (8 * i) 8)),
       (sPagesOf ps).take 1, uLinesOf ps, farVas c.cur ps, none)
  let stop := if bad.isSome then 6 else c.stat
  let next := bits c.dw0 6 51 * 64
  let ended := next == 0 || stop != 0
  let c := { c with
    shadow := tputAll c.shadow cells, spages := sp.foldl (fun l p => if l.contains p then l else l ++ [p]) c.spages,
    ulines := ul.foldl nins c.ulines, vas := tputAll c.vas va,
    busy := false, arrivals := [], done := 0, stat := 0, cur := next, stop := stop, ended := ended,
    fcause := (match bad with | some b => b.1 | none => c.fcause), faddr := (match bad with | some b => b.2 | none => c.faddr),
    stepDue := ended || bits c.dw0 1 1 == 1 || c.publ, publ := false }
  let s := modChan (s.setChain c) c.core c.ch fun x => { x with done := x.done + 1 }
  match c.gid with | some gid => settleHandles s gid | none => s
/-- Lines that some reads of an engine touch: those of this E9 under their attributes, and those that another must send
(R124, R410). -/
def engLines (s : State) (core ctx : Nat) (l : List (Nat × Nat)) : List (Nat × Nat) :=
    let ls := (l.flatMap fun x => match xlateN s core ctx x.1 x.2 .read true with | .ok ps => placeLines ps | .fault _ _ => []).eraseDups
    (ls.filter fun l => !(isRemote (l.1 * 128) && s.proxyLines.contains l.1)).map fun l => (l.1, if isRemote (l.1 * 128) then 2 else l.2)
/-- Source lines of a record, those of mapped scratch lines among them (R135). -/
def srcLines (s : State) (c : Chain) (l : List Nat) : List (Nat × Nat) :=
  if bits (nth 0 l 1) 0 3 = 1 then []
  else
    let es := (recElems l).filter fun e => !recSkip l e
    if bits (nth 0 l 0) 2 1 = 1 then
      let g := c.gid.bind s.group?
      if (g.map fun g => g.maps.isEmpty).getD true then []
      else engLines s c.core c.ctx (es.flatMap fun e => (List.range (recEs l)).filterMap fun i => (mappedVa g (recSrc l e + i)).map fun va => (va, 1))
    else engLines s c.core c.ctx (es.map fun e => (recSrc l e, recEs l))
/-- A record and its source are read for good by a group without the ticket (R169). -/
def copyMark (s : State) (c : Chain) (l : List Nat) : State :=
  match c.gid with
  | some gid =>
    if unticketed s gid then
      let here := match xlateN s c.core c.ctx c.cur 64 .read true with | .ok ps => ps.map fun x => lineOf x.1 | .fault _ _ => []
      markGroup s gid (distinct (here ++ (srcLines s c l).map (·.1)))
    else s
  | none => s
/-- COPY_RECORD: the engine executes the chain's next record (R272, R273). -/
def execCopyRecord (cid : Nat) (s : State) : Host.Outcome State Fault Refusal :=
  event (match s.chain? cid with
  | none => s
  | some c =>
    if !clockRuns s c.core || c.busy || c.stepDue || c.ended || (chanOf s c.core c.ch).heads.head? != some cid then s
    else match readRecord s c.gid c.core c.ctx c.cur with
      | .fault ca a => s.setChain { c with stop := 6, ended := true, stepDue := true, fcause := ca, faddr := a }
      | .ok l =>
        if nth 0 l 0 % 2 = 0 then
          if c.shadow.isEmpty then endChain s c else s.setChain { c with ended := true, stepDue := true }
        else if bits (nth 0 l 0) 3 1 = 1 && (!c.committed || (match c.gid with | some g => unticketed s g | none => false)) then s
        else
          let c := { c with busy := true, dw0 := nth 0 l 0, done := 0, stat := 0 }
          let prog := (c.gid.bind s.group?).map (·.progBytes)
          if !recordOk l prog then
            endRecord s (match (if recordFields l then prog.bind (recordOut l) else none) with
              | some off => { c with stat := 4, fcause := cSTASH, faddr := off }
              | none => { c with stat := 4 })
          else match gates s (chainAgent c.cid) (srcLines s c l) false with
            | some s => s
            | none =>
              let used := srcLines s c l
              let c := (recElems l).foldl (copyElem s l) c
              let s := dropReplies (copyMark s c l) (chainAgent c.cid) used
              if c.arrivals.isEmpty then endRecord s c
              else
                let ls := recordLines l
                let s := s.setChain { c with slines := ls.foldl nins c.slines }
                match c.gid with
                | some gid => s.modGroup gid fun g => makeAbsent g ls
                | none => s)
/-- What a handle makes of an arrival: its new value, whether the bytes are written, and the STATUS (R269). -/
def handleTake (h : Handle) (a : Arrival) : Handle × Bool × Nat :=
  match h.st with
  | .free => ({ h with st := .error }, false, 5)
  | .error => (h, false, 5)
  | .draining => (h, false, 0)
  | _ =>
    if a.size ≤ h.cnt && h.off ≤ a.off && decide (a.off + a.size ≤ h.off + h.count0) then
      ({ h with cnt := h.cnt - a.size, st := if h.cnt = a.size then .full else h.st }, a.bytes.isSome, 0)
    else ({ h with st := .error }, false, 5)
/-- SCRATCH_ARRIVAL: the next element of the record in hand reaches scratch (R136, R137, R269). -/
def execScratchArrival (cid : Nat) (s : State) : Host.Outcome State Fault Refusal :=
  event (match s.chain? cid with
  | none => s
  | some c =>
    match c.arrivals, c.gid.bind s.group? with
    | a :: rest, some g =>
      let cells := (List.range a.size).map fun i => (a.off + i, nth 0 (a.bytes.getD []) i)
      if !clockRuns s c.core then s
      else match (if a.bytes.isSome then scratchGate s c.core c.ctx g.gid cells else none) with
      | some s => s
      | none =>
      let (hd, wr, st) := match a.handle with
        | some h => let r := handleTake (tget Handle.reset g.handles h) a; (some (h, r.1), r.2.1, r.2.2)
        | none => (none, a.bytes.isSome, 0)
      let rest := if st = 0 then rest else []
      let g := { g with
        handles := match hd with | some (h, x) => tset Handle.reset g.handles h x | none => g.handles }
      let later := (rest.flatMap fun x => [x.off / 128, (x.off + x.size - 1) / 128]) ++
        (let nx := bits c.dw0 6 51 * 64
         if nx = 0 then [] else (chainRecords s c.gid c.core c.ctx recordFuel nx).flatMap recordLines)
      let free := c.slines.filter fun ln => !later.contains ln
      let c := { c with arrivals := rest, done := c.done + (if wr then a.size else 0), stat := if st = 0 then c.stat else st,
                        slines := c.slines.filter fun ln => later.contains ln }
      let s := (s.setGroup g).setChain c
      let s := if wr then scratchPut s c.core c.ctx g.gid cells else s
      let s := if wr && a.poison then scratchPoison s c.core c.ctx g.gid cells else s
      let s := linesIn (match hd with | some (h, _) => wakeBuf s g.gid h | none => s) g.gid free (s.pair (pairOfCore c.core)).cyc
      if rest.isEmpty then endRecord s c else s
    | _, _ => s)
/-- A host COPY whose step cannot be logged or followed ends as failed, and its queue halts (R163, R381, R382). -/
def copyStop (c : Chain) (q seq : Nat) (s : State) (cause status : Nat) : State :=
  let s := journalStep { s with chains := tdel s.chains c.cid } seq fun r => { r with st := 3, status := status, cause := cause }
  let s := retireCommand s q seq status true
  s.setQueue q { s.queue q with halt := true }
/-- The order-log entry of a step, for a grid or a COPY of a deterministic queue (R163, R381). -/
def stepLog (s : State) (c : Chain) (lines : List Nat) : Logged :=
  let die := dieOfCore c.core
  match c.gid.bind s.group?, c.queueRec with
  | some g, _ => orderLog s g.seq 0x06 die (g.idx :: c.ch :: lines)
  | none, some (q, seq) =>
    let x := s.queue q
    if x.det then orderLogAt s q x.replay seq 0x06 die (c.ch :: lines) (copyStop c q seq) else .ok s
  | none, none => .ok s

end Sys2Proof.Machine
end

