-- ==== Sys2Proof/Machine/Sync.lean ====
section
/-! DEFINITION. Barriers, buffer handles, regions, counters and stash mappings (R134, R135, R148, R149, R155, R263,
R268 to R270, R275 to R277). -/
namespace Sys2Proof.Machine

/-- A barrier word: arrival after every older region, the wait, and the region entry at release (R155, R268). -/
def barBody (n : Nat) (cluster : Bool) : State → Nat → Nat → WRes := fun s tk c =>
  if (s.team tk).irrev then once (entryAfter (s.modTeam tk fun t => { t with irrev := false }) tk) c 1 1
  else match commitWait s tk with
    | some r => r
    | none =>
      let s := (closedFor s tk).modTeam tk fun t =>
        if cluster then { t with arrC := t.arrC ||| ((1 : BitVec 16) <<< n) } else { t with arrG := t.arrG ||| ((1 : BitVec 16) <<< n) }
      let s := barRelease s (s.team tk).gid n cluster
      if (s.team tk).irrev then once (entryAfter (s.modTeam tk fun t => { t with irrev := false }) tk) c 1 1
      else .park s .barrier ⟨0, n⟩
/-- BAR (R268). -/
def execBar (f : FA) (s : State) : Host.Outcome State Fault Refusal :=
  word (.bar f) s [] fun s tk c => barBody (f.b.toNat % 16) false s tk c
/-- BARC (R268). -/
def execBarc (f : FA) (s : State) : Host.Outcome State Fault Refusal :=
  word (.barc f) s [] fun s tk c => barBody (f.b.toNat % 16) true s tk c

/-- The handle h of a team's group, and its change with the wake of its waiters. -/
def handleOf (s : State) (tk h : Nat) : Handle := ((teamGroup s tk).map fun g => tget Handle.reset g.handles h).getD Handle.reset
def setHandle (s : State) (tk h : Nat) (x : Handle) : State :=
  let gid := (s.team tk).gid
  wakeBuf (s.modGroup gid fun g => { g with handles := tset Handle.reset g.handles h x }) gid h
/-- BUFDEF (R269, R270). -/
def execBufdef (f : FAX) (s : State) : Host.Outcome State Fault Refusal :=
  word (.bufdef f) s [f.a, f.b] fun s tk c =>
    let t := s.team tk
    let off := (readReg t c 0 f.a).toNat % 2 ^ 32
    let n := (readReg t c 0 f.b).toNat
    let h := f.x.toNat % 64
    if n = 0 || decide (2 ^ 20 < n) then trapAt s tk cILLEGAL
    else if ((teamGroup s tk).map fun g => decide (g.progBytes < off + n)).getD true then .trap s cSTASH (BitVec.ofNat 64 off) 0 0 1
    else match commitWait s tk with
      | some r => r
      | none =>
        let s := closedFor s tk
        match (if t.bufErr = some h then HState.error else (handleOf s tk h).st) with
        | .error => .trap s cBUF (BitVec.ofNat 64 h) 0 0 0
        | .free => once (entryAfter (setHandle s tk h ⟨.filling, off, n, n⟩) tk) c 1 1
        | _ => .park s .buffer ⟨0, h⟩
/-- BUFWAIT (R270). -/
def execBufwait (f : FA) (s : State) : Host.Outcome State Fault Refusal :=
  word (.bufwait f) s [] fun s tk c =>
    let h := f.b.toNat % 64
    match (if (s.team tk).bufErr = some h then HState.error else (handleOf s tk h).st) with
    | .error => .trap s cBUF (BitVec.ofNat 64 h) 0 0 0
    | .full => once s c 1 1
    | .filling => .park s .buffer ⟨1, h⟩
    | _ => trapAt s tk cILLEGAL
/-- BUFFREE (R269, R270). -/
def execBuffree (f : FA) (s : State) : Host.Outcome State Fault Refusal :=
  word (.buffree f) s [] fun s tk c =>
    let h := f.b.toNat % 64
    match commitWait s tk with
    | some r => r
    | none =>
      let s := closedFor s tk
      let x := handleOf s tk h
      let st := if (s.team tk).bufErr = some h then HState.error else x.st
      let ends := if handleBusy s (s.team tk).gid h then { x with st := .draining } else Handle.reset
      match st with
      | .error => if (s.team tk).lvl then once (entryAfter (setHandle s tk h ends) tk) c 1 1 else .trap s cBUF (BitVec.ofNat 64 h) 0 0 0
      | .filling => once (entryAfter (setHandle s tk h ends) tk) c 1 1
      | .full => once (entryAfter (setHandle s tk h Handle.reset) tk) c 1 1
      | _ => once (entryAfter s tk) c 1 1

/-- REGION (R148, R275). -/
def execRegion (f : FA) (s : State) : Host.Outcome State Fault Refusal :=
  word (.region f) s [] fun s tk c =>
    let s := closeOpen s tk
    if 4 ≤ (s.team tk).regions.length then .park s .commit ⟨0, 3⟩
    else once (entryAfter s tk) c 1 1
/-- COMMIT (R148, R275). -/
def execCommit (f : FA) (s : State) : Host.Outcome State Fault Refusal :=
  word (.commit f) s [] fun s tk c =>
    match commitWait s tk with
    | some r => r
    | none => once (entryAfter (closedFor s tk) tk) c 1 1

/-- The places of a counter, checked before any wait, or the trap (R251, R276, R277). -/
inductive CounterAt where
  | at_ (l : List (Nat × Place))
  | bad (r : WRes)
def counterAt (s : State) (tk va : Nat) (k : AKind) : CounterAt :=
  if va % 8 ≠ 0 then .bad (trapAt s tk cILLEGAL)
  else match xlateN s (teamCore s tk) (teamAs s tk) va 8 k with
    | .ok l => .at_ l
    | .fault c a => .bad (.trap s c (BitVec.ofNat 64 a) 0 0 (if k == .write then 1 else 0))
/-- Removes the watch entries of a waiter. -/
def dropWatch (s : State) (w : Waiter) : State :=
  { s with dies := s.dies.map fun d => (d.1, { d.2 with watch := d.2.watch.filter fun y => y.who != w }) }
/-- An entry of the watch table of a counter's home die, in the table where it has room (R376); a counter of another E9
is read again in turn (log 21). -/
def watchCounter (s : State) (loc cond : Nat) (v : Word) (w : Waiter) : State :=
  let s := dropWatch s w
  let d := homeDie loc
  let x := s.die d
  let room := decide ((x.watch.filter fun y => y.inTable).length < Config.watchEntries) && !isRemote loc
  s.setDie d { x with watch := x.watch ++ [⟨loc, cond, v, w, room, false⟩] }
/-- How a counter is read: one of another E9 at its home, but for a page that is borrowed here (R276, R413). -/
def counterCoh (s : State) (loc coh : Nat) : Nat :=
  if isRemote loc then (if (tget ⟨false, false, false⟩ s.borrowed (loc / 4096)).granted then 0 else 2) else coh
/-- WAITC (R276); in ordered mode it does not wait for a write that a later group has staged (R357). -/
def execWaitc (f : FAX) (s : State) : Host.Outcome State Fault Refusal :=
  word (.waitc f) s [f.a, f.b] fun s tk c =>
    let t := s.team tk
    match counterAt s tk (readReg t c 0 f.a).toNat .read with
    | .bad r => r
    | .at_ l =>
      match commitWait s tk with
      | some r => r
      | none =>
        let s := closedFor s tk
        let loc := ((l.head?.map (·.1)).getD 0)
        let coh := counterCoh s loc ((l.head?.map fun x => x.2.coh).getD 0)
        match gates s tk [(lineOf loc, coh)] false with
        | some s => .hold s
        | none =>
          let m := BitVec.ofNat 64 (leVal (l.map fun x => readLoc s tk x.1))
          let v := readReg t c 0 f.b
          let s := groupReads (dropReplies s tk [(lineOf loc, coh)] (some tk)) tk [lineOf loc]
          if condMet f.x.toNat m v then
            once (entryAfter ((dropWatch s (.team tk)).modTeam tk fun t => writeRegs t (regW t 0 f.d m)) tk) c 1 1
          else if t.ordered && higherStaged s tk [lineOf loc] then
            .trap (s.modTeam tk fun t => { t with oiCount := 0 }) cORDER (readReg t c 0 f.a) 0 0 0
          else .park (watchCounter s loc f.x.toNat v (.team tk)) .counter ⟨0, loc⟩
/-- The counter after SIGC (R277). -/
def sigcNew (mode : Nat) (m v : Word) : Word := match mode with | 0 => m + v | 1 => m - v | _ => v
/-- The atomic that a counter of another E9 takes for SIGC: its number and operand (R265, R277). -/
def sigcAtom (mode : Nat) (v : Word) : Nat × Word := match mode with | 0 => (0, v) | 1 => (0, -v) | _ => (6, v)
/-- SIGC (R277). -/
def execSigc (f : FA) (s : State) : Host.Outcome State Fault Refusal :=
  word (.sigc f) s [f.a, f.b] fun s tk c =>
    let t := s.team tk
    let va := (readReg t c 0 f.a).toNat
    match (match t.placed with | some ((_, l) :: _) => CounterAt.at_ l | _ => counterAt s tk va .write) with
    | .bad r => r
    | .at_ l =>
      match irrevWait (placedWait s tk [(0, l)]) tk with
      | some r => r
      | none =>
        let s := closedFor (placedWait s tk [(0, l)]) tk
        let mode := f.d.toNat
        let v := readReg t c 0 f.b
        match l with
        | [] => once s c 1 1
        | (loc, pl) :: _ =>
          let (op, x) := sigcAtom mode v
          let s := s.modTeam tk fun t => { t with oiCount := 0 }
          if isRemote loc then
            if (tget? s.remoteIn (atomKey tk 0)).isSome then once (entryAfter { s with remoteIn := tdel s.remoteIn (atomKey tk 0) } tk) c 1 1
            else match tget? s.nacks (lineOf loc) with
              | some ca => .trap s ca (BitVec.ofNat 64 va) 0 0 1
              | none => .hold (remoteAtom s loc (atomKey tk 0) (atomFlags op 5) (atomMsg x.toNat 0))
          else match gates s tk [(lineOf loc, pl.coh)] true with
            | some s => .hold (wanting s tk [(lineOf loc, pl.coh)])
            | none =>
              let n := sigcNew mode (BitVec.ofNat 64 (readMemN s loc 8)) v
              let sp := if pl.coh = 1 then [(pl.base, pl.size)] else []
              once (entryAfter (writeEvent s (some tk) ((l.map (·.1)).zip (leBytes 8 n.toNat)) sp) tk) c 1 1

/-- Two ranges overlap. -/
def overlaps (a n b m : Nat) : Bool := decide (a < b + m) && decide (b < a + n)
/-- SMAP (R135, R137, R263). -/
def execSmap (f : FAX) (s : State) : Host.Outcome State Fault Refusal :=
  word (.smap f) s [f.d, f.a] fun s tk c =>
    let t := s.team tk
    let off := (readReg t c 0 f.d).toNat
    let va := (readReg t c 0 f.a).toNat
    let n := f.x.toNat
    if off % 128 ≠ 0 || va % 128 ≠ 0 || n % 128 ≠ 0 || n = 0 || decide (2 ^ 20 < n) then trapAt s tk cILLEGAL
    else match teamGroup s tk with
      | none => trapAt s tk cILLEGAL
      | some g =>
        if g.progBytes < off + n then .trap s cSTASH (BitVec.ofNat 64 off) 0 0 1
        else match commitWait s tk with
          | some r => r
          | none =>
            let s := closedFor s tk
            match teamGroup s tk with
            | none => trapAt s tk cILLEGAL
            | some g =>
              if decide (8 ≤ g.maps.length) || g.maps.any fun m => overlaps off n m.off m.len || overlaps va n m.addr m.len then
                trapAt s tk cILLEGAL
              else match (List.range (n / 128)).find? fun i => g.absent.contains (off / 128 + i) with
                | some i => .park s .presence ⟨0, off / 128 + i⟩
                | none =>
                  once (entryAfter (s.setGroup { g with
                    maps := g.maps ++ [⟨off, n, va⟩],
                    spoison := g.spoison.filter fun l => !(decide (off ≤ l * 128) && decide (l * 128 < off + n)),
                    scratch := g.scratch.filter fun x => !(decide (off ≤ x.1) && decide (x.1 < off + n)) }) tk) c 1 1
/-- The bytes of a scratch range that nothing was ever written back to are free values (R135, log 5). -/
def freeBytes (s : State) (off n : Nat) : List (Nat × Byte) :=
  (List.range n).map fun i => (off + i, ((Config.freeValue (s.free + i / 8)) >>> (8 * (i % 8))).setWidth 8)
/-- SUNMAP: the lines are scratch, present, with the values last written back (R135, R263). -/
def execSunmap (f : FA) (s : State) : Host.Outcome State Fault Refusal :=
  word (.sunmap f) s [f.a] fun s tk c =>
    match commitWait s tk with
    | some r => r
    | none =>
      let s := closedFor s tk
      let off := (readReg (s.team tk) c 0 f.a).toNat
      match teamGroup s tk with
      | none => trapAt s tk cILLEGAL
      | some g =>
        match g.maps.find? fun m => m.off == off with
        | none => trapAt s tk cILLEGAL
        | some m =>
          let lines := (List.range (m.len / 128)).map fun i => off / 128 + i
          let clean := lines.filter fun l => !g.mapLines.contains l
          let fill := clean.zipIdx.flatMap fun x => freeBytes { s with free := s.free + 16 * x.2 } (x.1 * 128) 128
          let s := { s with free := s.free + 16 * clean.length }
          once (entryAfter (s.setGroup { g with
            maps := g.maps.filter fun x => x.off != off, mapLines := g.mapLines.filter fun l => !lines.contains l,
            scratch := tsetAll 0 g.scratch fill }) tk) c 1 1

end Sys2Proof.Machine
end

