-- ==== Sys2Proof/Machine/Array.lean ====
section
/-! DEFINITION. The data of the matrix arrays: sealed records, operand reads, resident B, the enclosure of a product,
the conversions of stores and loads, and the array image (R108 to R117, R279, R286 to R289, R294 to R297, R396). -/
namespace Sys2Proof.Machine

/-- Fields of a sealed tensor record (R115). -/
def srBase (l : List Nat) : Nat := bits (nth 0 l 0) 0 57
def srSbase (l : List Nat) : Nat := bits (nth 0 l 1) 0 57
def srRows (l : List Nat) : Nat := bits (nth 0 l 2) 0 32
def srCols (l : List Nat) : Nat := bits (nth 0 l 2) 32 32
def srRstride (l : List Nat) : Nat := bits (nth 0 l 3) 0 32
def srPstride (l : List Nat) : Nat := bits (nth 0 l 3) 32 32
def srSstride (l : List Nat) : Nat := bits (nth 0 l 4) 0 32
def srKind (l : List Nat) : Nat := bits (nth 0 l 5) 0 4
def srRoleB (l : List Nat) : Bool := bits (nth 0 l 5) 4 1 == 1
def srImode (l : List Nat) : Bool := bits (nth 0 l 5) 5 1 == 1
def srPlanes (l : List Nat) : Nat := bits (nth 0 l 5) 6 4
def srOslots (l : List Nat) : Nat := Config.outlierSlots (BitVec.ofNat 2 (bits (nth 0 l 5) 10 2))
def srAtop (l : List Nat) : Nat := bits (nth 0 l 5) 12 4
def srRad (l : List Nat) : Bool := bits (nth 0 l 5) 16 1 == 1
def srRbase (l : List Nat) : Nat := bits (nth 0 l 6) 0 57
/-- Element bits in memory, of a plane for NP; block kinds have a scale byte for 32 elements (R102, R108). -/
def srBits (l : List Nat) : Nat := match srKind l with | 6 => 1 | 7 => 8 | 8 => 8 | k => (kindOf k).b
def srBlock (l : List Nat) : Bool := decide (srKind l ≤ 5)
/-- Bytes of the scales of one row. -/
def srScaleBytes (l : List Nat) : Nat := if srBlock l then srCols l / 32 else 1
/-- Aligned width, and columns of a tile (R109, R286). -/
def srW (l : List Nat) : Nat := alignedWidth (srKind l) (srPlanes l)
def tileN (w : Nat) : Nat := 4096 / max 1 w
/-- The reason for which SEAL refuses a record, the lowest that applies, or 0 (R116). -/
def sealReason (addr : Nat) (l : List Nat) : Nat :=
  let k := srKind l
  let np := k == 6
  let int := decide (6 ≤ k)
  let packed := srCols l * srBits l / 8
  let last := fun (base stride n : Nat) => decide (2 ^ 57 < base + (srRows l - 1) * stride + n)
  if addr % 64 ≠ 0 then 0x01
  else if bits (nth 0 l 0) 57 7 ≠ 0 || bits (nth 0 l 1) 57 7 ≠ 0 || bits (nth 0 l 4) 32 32 ≠ 0 || bits (nth 0 l 5) 17 47 ≠ 0 ||
    bits (nth 0 l 6) 57 7 ≠ 0 || nth 0 l 7 ≠ 0 then 0x02
  else if 9 ≤ k then 0x03
  else if srRows l = 0 || decide (2 ^ 24 < srRows l) || srCols l = 0 || srCols l % 64 ≠ 0 then 0x04
  else if (if np then srPlanes l = 0 || decide (8 < srPlanes l) else srPlanes l ≠ 0) then 0x05
  else if srImode l && !int then 0x06
  else if (srRoleB l && (srOslots l != 0 || srRad l)) || (srRad l && srImode l) || (srOslots l != 0 && int) then 0x07
  else if srBase l % 16 ≠ 0 || srSbase l % 16 ≠ 0 || srRbase l % 16 ≠ 0 || srRstride l % 16 ≠ 0 || srPstride l % 16 ≠ 0 ||
    srSstride l % 16 ≠ 0 then 0x08
  else if srRstride l < packed then 0x09
  else if np && (srPstride l < srCols l / 8 || (srRstride l < 8 * srPstride l && srPstride l < srRows l * srRstride l)) then 0x0A
  else if srSstride l < srScaleBytes l then 0x0B
  else if last (srBase l) (srRstride l) (packed + (if np then (srPlanes l - 1) * srPstride l else 0)) ||
    last (srSbase l) (srSstride l) (srScaleBytes l) || (srRad l && decide (2 ^ 57 < srRbase l + 4 * srRows l)) then 0x0C
  else 0

/-- Bytes an engine reads, each with whether its line is poisoned, or a fault. -/
inductive ERead where
  | ok (l : List (Byte × Bool))
  | fault (cause va : Nat)
  deriving DecidableEq, Repr
def ERead.append : ERead → ERead → ERead
  | .ok a, .ok b => .ok (a ++ b)
  | .ok _, .fault c v => .fault c v
  | .fault c v, _ => .fault c v
/-- An engine's read of memory (R161, R434). -/
def engMem (s : State) (core ctx gid a n : Nat) : ERead :=
  match xlateN s core ctx a n .read true with
  | .ok l => .ok (l.map fun x => (readEng s (arrayAgent core) (some gid) x.1, s.poison.contains (lineOf x.1)))
  | .fault c v => .fault c v
/-- An engine's read of memory, or of the scratch of a group, whose mapped lines are read at their global addresses (R135,
R161, R286). -/
def engRead (s : State) (core ctx gid : Nat) (stash : Bool) (a n : Nat) : ERead :=
  if stash then
    match s.group? gid with
    | none => .fault cSTASH a
    | some g =>
      if g.progBytes < a + n then .fault cSTASH a
      else if g.maps.isEmpty then .ok ((List.range n).map fun i => (tget 0 g.scratch (a + i), g.spoison.contains ((a + i) / 128)))
      else (List.range n).foldl (fun r i => r.append (match mappedVa (some g) (a + i) with
        | some va => engMem s core ctx gid va 1
        | none => .ok [(tget 0 g.scratch (a + i), g.spoison.contains ((a + i) / 128))])) (.ok [])
  else engMem s core ctx gid a n
def ERead.bytes : ERead → List (Byte × Bool)
  | .ok l => l
  | .fault _ _ => []
def eVal (l : List (Byte × Bool)) : Nat := leVal (l.map (·.1))
def ePois (l : List (Byte × Bool)) : Bool := l.any (·.2)
/-- The first poisoned byte of some reads. -/
def readPoison (rd : Nat → Nat → ERead) (l : List (Nat × Nat)) : Option Nat :=
  l.findSome? fun x => ((rd x.1 x.2).bytes.findIdx? (·.2)).map (x.1 + ·)
/-- The first fault of some reads. -/
def readFault (rd : Nat → Nat → ERead) : List (Nat × Nat) → Option (Nat × Nat)
  | [] => none
  | (a, n) :: r => match rd a n with | .fault c v => some (c, v) | .ok _ => readFault rd r

/-- One 64-element K block of a row is inside the record. -/
def inRecord (l : List Nat) (r k0 : Nat) : Bool := decide (r < srRows l) && decide (k0 < srCols l)
/-- Reads of the elements and of the scales of a K block (R115). -/
def blkReads (l : List Nat) (r k0 : Nat) : List (Nat × Nat) :=
  if srKind l = 6 then (List.range (srPlanes l)).map fun p => (srBase l + r * srRstride l + p * srPstride l + k0 / 8, 8)
  else [(srBase l + r * srRstride l + k0 * srBits l / 8, 8 * srBits l)]
def scaleRead (l : List Nat) (r k0 : Nat) : Nat × Nat :=
  if srBlock l then (srSbase l + r * srSstride l + k0 / 32, 2) else (srSbase l + r * srSstride l, 1)

/-- One K block as it is read: its elements, exact, or its truncated integers with the row's exponent (R108, R110,
R111). -/
structure KBlk where
  vals : List Q
  ts : List Int
  e : Int
  planes : Nat
  scale : Nat
  nai : Bool
  sat : Bool
  deriving DecidableEq, Repr
def KBlk.zero : KBlk := ⟨List.replicate 64 Q.zero, List.replicate 64 0, 0, 8, 0x7F, false, false⟩
/-- The exponent of an A block's grid: the larger of its two scales, zero blocks apart; an invalid scale counts with the
exponent that its byte would have (R111; DESIGN CHOICE, log 77). -/
def eBlk (s0 s1 : Nat) : Int :=
  if s0 = 0x7F then (if s1 = 0x7F then 0 else scaleExp s1) else if s1 = 0x7F then scaleExp s0 else max (scaleExp s0) (scaleExp s1)
/-- The two's-complement value of the bits of the first planes (R108). -/
def planeVal (b : List Bool) : Int :=
  match b with
  | [] => 0
  | s :: r => r.foldl (fun v x => 2 * v + (if x then 1 else 0)) (if s then -1 else 0)
def readKBlk (rd : Nat → Nat → ERead) (l : List Nat) (cb : List (BitVec 16)) (r k0 : Nat) : KBlk :=
  if !inRecord l r k0 then KBlk.zero
  else
    let sc := let x := scaleRead l r k0; (rd x.1 x.2).bytes
    let s0 := eVal (sc.take 1)
    let s1 := eVal (sc.drop 1)
    let data := (blkReads l r k0).map fun x => (rd x.1 x.2).bytes
    if srBlock l then
      let d := data.headD []
      let b := srBits l
      let es := (List.range 64).map fun i =>
        let h := d.drop (i / 32 * (4 * b))
        let by_ := (h.drop (b * (i % 32) / 8)).take ((b * (i % 32 + 1) + 7) / 8 - b * (i % 32) / 8)
        if ePois by_ || ePois sc then MElem.nai
        else matElem (srKind l) cb (if i < 32 then s0 else s1) (elemBits (h.map (·.1)) b (i % 32))
      { vals := es.map MElem.q, ts := [], e := eBlk s0 s1, planes := 8, scale := s0,
        nai := es.any (· == .nai), sat := es.any (· == .sat) }
    else
      let po := ePois sc || data.any ePois
      let t := fun i => match srKind l with
        | 6 => planeVal (data.map fun p => (eVal p).testBit i)
        | 7 => sextN 8 (bits (eVal (data.headD [])) (8 * i) 8)
        | _ => ((bits (eVal (data.headD [])) (8 * i) 8 : Nat) : Int)
      if s0 = 0x7F then { KBlk.zero with nai := po }
      else { vals := [], ts := (List.range 64).map t, e := if srImode l then 0 else scaleExp s0,
             planes := if srKind l = 6 then srPlanes l else 8, scale := s0, nai := po || s0 == 0xFF, sat := false }
/-- The grid step and the plane truncation of an integer kind (R110, R111, R114). -/
def planeU (k : Nat) (e : Int) : Q := Q.pow2 (8 - (k : Int) + e)
def planeD (k : Nat) (e : Int) : Q := qScale (Q.ofInt (2 ^ (8 - k) - 1)) e

/-- MLDB: resident B from a record's tile (R110, R286). -/
def formB (rd : Nat → Nat → ERead) (l : List Nat) (cb : List (BitVec 16)) (col0 korg : Nat) : ResB :=
  let w := srW l
  let n := tileN w
  let blk := fun j κ => readKBlk rd l cb (col0 + j) (korg + 64 * κ)
  let cells := (List.range n).flatMap fun j => (List.range 8).map fun κ => (j, κ)
  let al := fun j κ =>
    let b := blk j κ
    if srBlock l then alignB w b.vals else (b.ts, none, false)
  let put := fun (m : Tab Int) (x : Nat × Nat) =>
    ((al x.1 x.2).1.zipIdx).foldl (fun m y => tset 0 m ((64 * x.2 + y.2) * n + x.1) y.1) m
  { kind := srKind l, w := w, n := n, imode := srImode l, beta := cells.foldl put [],
    rowScale := if srBlock l then [] else (List.range n).foldl (fun m j => tset 0 m j (BitVec.ofNat 8 (
      if decide (col0 + j < srRows l) then eVal (let x := scaleRead l (col0 + j) 0; (rd x.1 x.2).bytes) else 0x7F))) [],
    sat := (List.range n).filter fun j => (List.range 8).any fun κ => (blk j κ).sat,
    nai := (List.range n).filter fun j => (List.range 8).any fun κ => (blk j κ).nai,
    xb := cells.foldl (fun m x => match (al x.1 x.2).2.1 with | some v => tset 0 m (x.1 * 8 + x.2) v | none => m) [],
    eb := (cells.filter fun x => (al x.1 x.2).2.2).map fun x => x.1 * 8 + x.2,
    zero := (cells.filter fun x => if srBlock l then (al x.1 x.2).2.1.isNone else !inRecord l (col0 + x.1) (korg + 64 * x.2)).map
      fun x => x.1 * 8 + x.2 }
/-- A column's block of resident B, with the values that follow from its fields (R110, R396). -/
def resBlk (r : ResB) (j κ : Nat) : BBlk :=
  let beta := (List.range 64).map fun k => tget 0 r.beta ((64 * κ + k) * r.n + j)
  let key := j * 8 + κ
  if r.kind ≤ 5 then
    let x := tget 0 r.xb key
    let u := Q.pow2 (x - (r.w - 1 : Nat))
    mkBBlk beta u (if r.eb.contains key then u else Q.zero) Q.zero (if r.zero.contains key then none else some x)
  else
    let sc := (tget 0 r.rowScale j).toNat
    let e := if r.imode then 0 else scaleExp sc
    let k := if r.kind = 6 then r.w else 8
    let u := planeU k e
    let d := if r.kind = 6 && sc != 0x7F && !r.zero.contains key then planeD k e else Q.zero
    mkBBlk beta u Q.zero d (intXB beta u d)

/-- A row of A over an operation's K blocks (R111, R112). -/
structure ARow where
  blks : List ABlk
  nai : Bool
  sat : Bool
  clamped : Nat
  deriving DecidableEq, Repr
def readARow (rd : Nat → Nat → ERead) (l : List Nat) (cb : List (BitVec 16)) (r korg n : Nat) : ARow :=
  (List.range n).foldl (fun (acc : ARow) κ =>
    let b := readKBlk rd l cb r (korg + 64 * κ)
    let used := (acc.blks.map fun x => x.slotted.length).sum
    let a := if srBlock l then alignA (srW l) (srAtop l) b.e (srOslots l - used) b.vals
      else intABlk b.ts (planeU b.planes b.e) (if srKind l = 6 && b.scale != 0x7F then planeD b.planes b.e else Q.zero)
    { blks := acc.blks ++ [a], nai := acc.nai || b.nai, sat := acc.sat || b.sat, clamped := acc.clamped + a.nclamp })
    ⟨[], false, false, 0⟩

/-- MSTAT bits (R297). -/
def mINV : Nat := 1
def mSATIN : Nat := 2
def mOF : Nat := 4
def mIX : Nat := 8
def mOUT : Nat := 16
def orAll (l : List Nat) : Nat := l.foldl (· ||| ·) 0
def accWord (lo hi : Nat) : Word := BitVec.ofNat 64 (lo + hi * 2 ^ 32)
def isNanF32 (b : Nat) : Bool := match fpRead f32 b with | .nan _ _ => true | .val _ => false
/-- A radius of MMAR: an input error, an unbounded input, or its value (R113). -/
inductive Rho where
  | none
  | nai
  | sat
  | val (x : Ext)
  deriving DecidableEq, Repr
def readRho (b : List (Byte × Bool)) : Rho :=
  let v := eVal b
  if ePois b || isNanF32 v then .nai
  else match fpVal f32 v with
    | .pinf => .sat
    | .ninf => .nai
    | .fin q => if q.n < 0 then .nai else .val (.fin q)
/-- One output of an operation: the new entry and MSTAT bits. In float operation an entry with one NaN half counts as a
NaI, and one with lo above hi is summed as it stands (R113, R114; DESIGN CHOICE, log 78). -/
def mulOut (imode : Bool) (row : ARow) (rho : Rho) (cols : List BBlk) (colNai colSat : Bool) (acc : Word) : Word × Nat :=
  let lo := acc.toNat % 2 ^ 32
  let hi := acc.toNat / 2 ^ 32
  let nan := naiBits f32 0
  if row.nai || colNai || rho == .nai || (!imode && (isNanF32 lo || isNanF32 hi)) then (accWord nan nan, mINV)
  else if row.sat || colSat || rho == .sat then (accWord (f32.infBits + f32.signBit) f32.infBits, mSATIN)
  else
    let ps := row.blks.zip cols
    if imode then
      let t := ps.foldl (fun (t : Q) p => t.add (blkT p.1 p.2)) Q.zero
      let lh := ps.foldl (fun (x : Q × Q) p => let y := intLH p.1 p.2; (x.1.add y.1, x.2.add y.2)) (Q.zero, Q.zero)
      let (l, cl) := clampI32 (((Q.ofInt (sextN 32 lo)).add t).add lh.1).floor
      let (h, ch) := clampI32 (((Q.ofInt (sextN 32 hi)).add t).add lh.2).floor
      (accWord (l % 2 ^ 32).toNat (h % 2 ^ 32).toNat, if cl || ch then mOF else 0)
    else
      let r := match rho with | .val x => some x | _ => none
      let m := ps.foldl (accBlk r) ⟨Q.zero, Ext.zero, Ext.zero, Ext.zero⟩
      let (l, h) := floatOut lo hi m
      (accWord l h, 0)
/-- The results of a multiply: entries, MSTAT bits and clamped outliers (R288). -/
def mulAll (rd : Nat → Nat → ERead) (l : List Nat) (cb : List (BitVec 16)) (radius : Bool) (bs : List ResB) (acc : Tab Word)
    (row0 m acc0 korg : Nat) : List (Nat × Word) × Nat × Nat :=
  let n := (bs.head?.map (·.n)).getD 0
  let rows := (List.range m).map fun i =>
    let r := row0 + i
    let rho := if radius && decide (r < srRows l) then readRho (rd (srRbase l + 4 * r) 4).bytes else .none
    (i, readARow rd l cb r korg (8 * bs.length), rho)
  let outs := rows.flatMap fun x => (List.range n).map fun j =>
    let cols := bs.flatMap fun b => (List.range 8).map fun κ => resBlk b j κ
    let e := acc0 + x.1 * n + j
    (e, mulOut (srImode l) x.2.1 x.2.2 cols (bs.any fun b => b.nai.contains j) (bs.any fun b => b.sat.contains j) (tget 0 acc e))
  let cl := (rows.map fun x => x.2.1.clamped).sum
  (outs.map fun o => (o.1, o.2.1), orAll (outs.map fun o => o.2.2) ||| (if cl = 0 then 0 else mOUT), cl)
/-- Reads of a multiply's operands, for the check of translations (R291). -/
def mulReads (l : List Nat) (radius : Bool) (row0 m korg n : Nat) : List (Nat × Nat) :=
  (List.range m).flatMap fun i =>
    let r := row0 + i
    ((List.range n).flatMap fun κ => if inRecord l r (korg + 64 * κ) then
        scaleRead l r (korg + 64 * κ) :: blkReads l r (korg + 64 * κ) else []) ++
    (if radius && decide (r < srRows l) then [(srRbase l + 4 * r, 4)] else [])
/-- Reads of a tile of B, and the bytes it reads: data once, scales once a row or block (R286, R292). -/
def tileReads (l : List Nat) (col0 korg : Nat) : List (Nat × Nat) := mulReads l false col0 (tileN (srW l)) korg 8
def tileBytes (l : List Nat) (col0 korg : Nat) : Nat :=
  ((List.range (tileN (srW l))).map fun j =>
    let ks := (List.range 8).filter fun κ => inRecord l (col0 + j) (korg + 64 * κ)
    (ks.map fun κ => ((blkReads l (col0 + j) (korg + 64 * κ)).map (·.2)).sum + (if srBlock l then 2 else 0)).sum +
      (if srBlock l || ks.isEmpty then 0 else 1)).sum

/-- Bytes of an entry in a form of MSTORE and MLOADC (R294). -/
def formBytes (form : Nat) : Nat := if form = 0 || form = 4 then 8 else 4
def formFmt (form : Nat) : Fmt := if form = 1 then f16 else bf16
/-- MSTAT bits of a conversion's flags. -/
def convStat (fl : Flags) : Nat :=
  (if fl &&& fIV != 0 then mINV else 0) + (if fl &&& fOF != 0 then mOF else 0) + (if fl &&& fIX != 0 then mIX else 0)
/-- An entry as MSTORE writes it (R294). -/
def storeEntry (form : Nat) (w : Word) : Nat × Nat :=
  let lo := w.toNat % 2 ^ 32
  let hi := w.toNat / 2 ^ 32
  match form with
  | 0 => let r := cvtPair f32 f32 lo hi; (r.lo + r.hi * 2 ^ 32, convStat r.fl)
  | 3 => let (x, fl) := readIv f32 lo hi; let r := storeMrw x; (r.1, convStat (r.2 ||| fl))
  | 4 => (w.toNat, 0)
  | _ => let g := formFmt form; let r := cvtPair f32 g lo hi; (r.lo + r.hi * 2 ^ g.width, convStat r.fl)
/-- An entry as MLOADC reads it (R295). -/
def loadEntry (form v : Nat) : Word × Nat :=
  if form = 4 then (BitVec.ofNat 64 v, 0)
  else
    let r := match form with
      | 0 => cvtPair f32 f32 (v % 2 ^ 32) (v / 2 ^ 32)
      | 3 => loadMrw f32 v
      | _ => let g := formFmt form; cvtPair g f32 (v % 2 ^ g.width) (v / 2 ^ g.width)
    (accWord r.lo r.hi, if isNanF32 r.lo || r.fl &&& fIV != 0 then mINV else 0)

/-- Size of the array image (R396). -/
def imgBytes : Nat := 1114112
/-- MSTAT as it stands: status bits and OUTCNT (R297). -/
def mstatBits (a : MArray) : Nat := a.mstat % 32 + 2 ^ 16 * (a.outcnt % 2 ^ 16)
/-- A doubleword of the tail of the image. -/
def imgTail (a : MArray) (i : Nat) : Nat :=
  let cb := fun (l : List (BitVec 16)) k => ((List.range 4).map fun j => (nth 0 l (4 * k + j)).toNat * 2 ^ (16 * j)).sum
  if i = 0 then match a.resB with
    | none => 0xF
    | some r => r.kind + 2 ^ 4 * r.w + 2 ^ 8 * r.n + 2 ^ 21 * r.imode.toNat
  else if i = 1 then mstatBits a
  else if i < 6 then cb a.acb (i - 2)
  else if i < 10 then cb a.bcb (i - 6)
  else 0
/-- One byte of the array image (R396). -/
def imgByte (a : MArray) (o : Nat) : Byte :=
  BitVec.ofNat 8 (
    if o < 0xC0000 then bits (tget 0 a.acc (o / 8)).toNat (8 * (o % 8)) 8
    else if 0x10C000 ≤ o then bits (imgTail a ((o - 0x10C000) / 8)) (8 * (o % 8)) 8
    else match a.resB with
      | none => 0
      | some r =>
        if o < 0x100000 then
          ((List.range 8).map fun b =>
            let p := 8 * (o - 0xC0000) + b
            let v := (tget 0 r.beta (p / max 1 r.w) % 2 ^ r.w).toNat
            if p / max 1 r.w < 512 * r.n && v.testBit (p % max 1 r.w) then 2 ^ b else 0).sum
        else if o < 0x108000 then
          let j := (o - 0x100000) / 8
          if j < r.n then bits ((tget 0 r.rowScale j).toNat + 2 ^ 8 * (r.sat.contains j).toNat + 2 ^ 9 * (r.nai.contains j).toNat)
            (8 * (o % 8)) 8 else 0
        else
          let key := (o - 0x108000) / 2
          if r.kind ≤ 5 && decide (key / 8 < r.n) then
            bits ((tget 0 r.xb key % 256).toNat + 2 ^ 8 * (r.eb.contains key).toNat + 2 ^ 9 * (r.zero.contains key).toNat)
              (8 * (o % 2)) 8 else 0)
/-- What an image restores (R396): entries, resident B, codebooks, MSTAT. -/
structure Image where
  acc : List (Nat × Word)
  resB : Option ResB
  acb : List (BitVec 16)
  bcb : List (BitVec 16)
  mstat : Nat
  deriving DecidableEq, Repr
/-- A block of zeros is found from its β; of an NP kind, whose D_j stands in no field of a block, every block counts with its
column's (R110, R396; DESIGN CHOICE, log 100). -/
def readImage (rd : Nat → Nat → Nat) : Image :=
  let h := rd 0x10C000 8
  let kind := bits h 0 4
  let w := bits h 4 4
  let n := bits h 8 13
  let cb := fun o => (List.range 16).map fun i => BitVec.ofNat 16 (rd (o + 2 * i) 2)
  let field := fun p => bits (rd (0xC0000 + p * w / 8) 2) (p * w % 8) w
  let cols := List.range n
  let keys := List.range (8 * n)
  let xw := fun k => rd (0x108000 + 2 * k) 2
  { acc := (List.range Config.accEntries).map fun i => (i, BitVec.ofNat 64 (rd (8 * i) 8)),
    resB := if 8 < kind then none else some {
      kind := kind, w := w, n := n, imode := bits h 21 1 == 1,
      beta := (List.range (512 * n)).foldl (fun m p => tset 0 m p (if kind = 8 then (field p : Int) else sextN w (field p))) [],
      rowScale := cols.foldl (fun m j => tset 0 m j (BitVec.ofNat 8 (rd (0x100000 + 8 * j) 1))) [],
      sat := cols.filter fun j => bits (rd (0x100000 + 8 * j) 2) 8 1 == 1,
      nai := cols.filter fun j => bits (rd (0x100000 + 8 * j) 2) 9 1 == 1,
      xb := if kind ≤ 5 then keys.foldl (fun m k => tset 0 m k (sextN 8 (xw k % 256))) [] else [],
      eb := if kind ≤ 5 then keys.filter fun k => bits (xw k) 8 1 == 1 else [],
      zero := if kind = 6 then [] else keys.filter fun k => (List.range 64).all fun i => field ((64 * (k % 8) + i) * n + k / 8) == 0 },
    acb := cb 0x10C010, bcb := cb 0x10C030, mstat := rd 0x10C008 8 }

end Sys2Proof.Machine
end

