-- ==== Sys2Proof/Machine/Matrix.lean ====
section
/-! DEFINITION. The matrix instructions, and what an operation of an array reads, computes and leaves (R35, R36, R148, R164, R279 to
R298). -/
namespace Sys2Proof.Machine

/-- The array of a core, and its change. -/
def arrOf (s : State) (core : Nat) : MArray := (s.core core).arr
def modArr (s : State) (core : Nat) (f : MArray → MArray) : State := let x := s.core core; s.setCore core { x with arr := f x.arr }
/-- The team is the holder of its core's array (R279). -/
def holdsArray (s : State) (tk : Nat) : Bool := let a := arrOf s (teamCore s tk); a.holder == some tk && !a.follower
/-- Releases an array, or both of a pair (R284). -/
def releaseArray (s : State) (core : Nat) : State :=
  let a := arrOf s core
  let free := fun (a : MArray) => { a with holder := none, paired := false, follower := false, issued := [] }
  let s := modArr s core free
  if a.paired then modArr s (core ^^^ 1) free else s
/-- What an array is before a team of another context gets it (R283). -/
def scrubArray (a : MArray) (ctx : Nat) : MArray :=
  let a := if a.lastCtx == none || a.lastCtx == some ctx then a
    else { a with acc := [], resB := none, acb := List.replicate 16 0, bcb := List.replicate 16 0, mstat := 0, outcnt := 0 }
  { a with lastCtx := some ctx }

/-- The record in a slot of the team's group (R279). -/
def slotOf (s : State) (tk n : Nat) : Option (List Nat) := (teamGroup s tk).bind fun g => (tget? g.slots n).map fun l => l.map (·.toNat)
/-- Checks the bytes a word will read or write; the first fault traps at the word (R251, R291, R316). -/
def checkReads (s : State) (tk : Nat) (stash : Bool) (l : List (Nat × Nat)) : Option WRes :=
  (readFault (engRead s (teamCore s tk) (teamAs s tk) (s.team tk).gid stash) l).map fun x => .trap s x.1 (BitVec.ofNat 64 x.2) 0 0 3
def checkWrites (s : State) (tk : Nat) (stash : Bool) : List (Nat × Nat) → Option WRes
  | [] => none
  | (a, n) :: r =>
    let bad := if stash then
        match teamGroup s tk with
        | some g =>
          if g.progBytes < a + n then some (cSTASH, a)
          else if g.maps.isEmpty then none
          else match stashReach s tk a n .write with | .fault c v => some (c, v) | _ => none
        | none => some (cSTASH, a)
      else match xlateN s (teamCore s tk) (teamAs s tk) a n .write true with | .fault c v => some (c, v) | .ok _ => none
    match bad with
    | some (c, v) => some (.trap s c (BitVec.ofNat 64 v) 0 0 1)
    | none => checkWrites s tk stash r

/-- SEAL (R281, R116). -/
def execSeal (f : FL) (s : State) : Host.Outcome State Fault Refusal :=
  word (.seal f) s [f.a] fun s tk c =>
    let t := s.team tk
    let va := (readReg t c 0 f.a).toNat
    if tokBusy t f.k then .hold s
    else match commitWait s tk with
      | some r => r
      | none =>
        let s := closedFor s tk
        if va % 64 ≠ 0 then .trap s cSEAL (BitVec.ofNat 64 va) 0x01 0 0
        else match xlateN s (teamCore s tk) (teamAs s tk) va 64 .read with
          | .fault ca a => .trap s ca (BitVec.ofNat 64 a) 0 0 3
          | .ok ps =>
            let lines := (distinct (ps.map fun x => lineOf x.1)).map fun l => (l, counterCoh s (l * 128) 0)
            match gates s tk lines false with
            | some s => .hold s
            | none =>
              let b := ps.map fun x => readLoc s tk x.1
              let l := (List.range 8).map fun i => leVal ((b.drop (8 * i)).take 8)
              let s := groupReads (dropReplies s tk lines) tk (lines.map (·.1))
              match sealReason va l with
              | 0 =>
                let n := f.d.toNat % 16
                once (entryAfter (s.modGroup t.gid fun g => { g with slots := tput g.slots n (l.map (BitVec.ofNat 64)) }) tk) c 1 1
              | r => .trap s cSEAL (BitVec.ofNat 64 va) r 0 0
/-- UNSEAL (R282). -/
def execUnseal (f : FA) (s : State) : Host.Outcome State Fault Refusal :=
  word (.unseal f) s [] fun s tk c =>
    match commitWait s tk with
    | some r => r
    | none => once (entryAfter ((closedFor s tk).modGroup (s.team tk).gid fun g => { g with slots := tdel g.slots (f.b.toNat % 16) }) tk) c 1 1
/-- MACQ (R283). -/
def execMacq (f : FA) (s : State) : Host.Outcome State Fault Refusal :=
  word (.macq f) s [] fun s tk c =>
    match commitWait s tk with
    | some r => r
    | none =>
      let s := closedFor s tk
      let core := teamCore s tk
      let ctx := teamCtx s tk
      let pair := f.b.getLsbD 0
      let a := arrOf s core
      let o := arrOf s (core ^^^ 1)
      let mine := holdsArray s tk && (!pair || a.paired)
      let free := a.holder == none && (!pair || o.holder == none)
      let s := if mine || !free then s
        else
          let s := modArr s core fun a => { scrubArray a ctx with holder := some tk, paired := pair, issued := [] }
          if pair then modArr s (core ^^^ 1) fun a => { scrubArray a ctx with holder := some tk, paired := true, follower := true, issued := [] } else s
      let ok := mine || free
      let s := s.modTeam tk fun t =>
        { writeRegs t (regW t 0 f.d (if ok then 1 else 0)) with cc := { CC.zero with z := !ok } }
      once (entryAfter s tk) c 1 1
/-- MREL (R284). -/
def execMrel (f : FA) (s : State) : Host.Outcome State Fault Refusal :=
  word (.mrel f) s [] fun s tk c =>
    if !holdsArray s tk then trapAt s tk cILLEGAL
    else match commitWait s tk with
      | some r => r
      | none =>
        let s := closedFor s tk
        if (arrOf s (teamCore s tk)).ops.any fun o => o.stage != .retired then .hold s
        else once (entryAfter (releaseArray s (teamCore s tk)) tk) c 1 1

/-- The waits of a word that enters the operation queue: the queue, and four shadows held (R290, R291). -/
def queueGate (s : State) (tk : Nat) : Option WRes :=
  let a := arrOf s (teamCore s tk)
  if a.ops.any fun o => o.stage == .queued then some (.hold s)
  else if (a.ops.filter fun o => o.shadow.isSome).length < 4 then none
  else if (s.team tk).irrev then some (.hold s)
  else
    let s := closeOpen s tk
    if 4 ≤ (s.team tk).regions.length then some (.park s .commit ⟨0, 3⟩)
    else some (.hold (s.modTeam tk fun t => { enterRegion t t.wordPc with irrev := true }))
/-- An operation before its fields are set. -/
def newOp (s : State) (tk c : Nat) (i : Instr) (ra rb rd re : Nat) : MOp :=
  let t := s.team tk
  { mid := (arrOf s (teamCore s tk)).nextMid, tk := tk, gid := t.gid,
    rid := (t.regions.reverse.head?.map (·.rid)).getD (t.nextRid - 1), ctx := teamAs s tk, ins := i, ra := ra, rb := rb, rd := rd,
    re := re, lrec := [], issue := c, beginC := 0, occ := 0, lat := 0, stage := .queued, reads := (0, 0), writes := (0, 0),
    usesB := 0, setsB := 0, mem := false, committed := t.regions.isEmpty, shadow := none, results := [], resB := none, acb := none,
    bcb := none, mstat := 0, outcnt := 0, mset := none, data := [], spages := [], ulines := [],
    toScratch := false, slines := [], slinesIn := [], release := c, token := none }
/-- Operations that MDEP may bind to (R298). -/
def bindable : Instr → Bool
  | .mma _ | .mmar _ | .mmaPair _ | .mmarPair _ | .mstore _ => true
  | _ => false
/-- Queues an operation; with a token it is outstanding until the operation ends. -/
def enqueue (s : State) (tk : Nat) (o : MOp) (tok : Option Nat) : State :=
  let core := teamCore s tk
  let o := { o with token := tok.map fun _ => (s.team tk).nextId }
  let s := modArr s core fun a => { a with
    ops := a.ops ++ [o], nextMid := a.nextMid + 1,
    issued := if bindable o.ins then a.issued ++ [⟨o.mid, o.rid, o.committed, false⟩] else a.issued }
  let s := if o.committed && !o.slines.isEmpty then s.modGroup o.gid fun g => makeAbsent g o.slines else s
  match tok with
  | some k => s.modTeam tk fun t => putInflight t (some k) (.matrix core o.mid) false [] [] [] none
  | none => s
/-- Even register A and its odd one. -/
def regPair (t : Team) (c : Nat) (r : Reg) : Nat × Nat := ((readReg t c 0 r).toNat, (readReg t c 0 (nextReg r)).toNat)

/-- MCBK (R285). -/
def execMcbk (f : FL) (s : State) : Host.Outcome State Fault Refusal :=
  word (.mcbk f) s [f.a] fun s tk c =>
    let t := s.team tk
    let va := (readReg t c 0 f.a).toNat
    if tokBusy t f.k then .hold s
    else if !holdsArray s tk || va % 32 ≠ 0 then trapAt s tk cILLEGAL
    else match commitWait s tk with
      | some r => r
      | none =>
        let s := closedFor s tk
        match checkReads s tk false [(va, 32)] with
        | some r => r
        | none => match queueGate s tk with
          | some r => r
          | none =>
            let o := { newOp s tk c (.mcbk f) va 0 0 0 with mem := true, committed := true }
            once (entryAfter (enqueue s tk o (some f.k.toNat)) tk) c 1 1
/-- MLDB (R286). -/
def execMldb (f : FL) (s : State) : Host.Outcome State Fault Refusal :=
  word (.mldb f) s [f.a, nextReg f.a] fun s tk c =>
    let t := s.team tk
    let (ra, rb) := regPair t c f.a
    let col0 := ra % 2 ^ 32
    let korg := rb % 2 ^ 32
    let stash := f.sz.getLsbD 0
    let follow := f.sz.getLsbD 1
    if tokBusy t f.k then .hold s
    else if !holdsArray s tk || (follow && !(arrOf s (teamCore s tk)).paired) || korg % 64 ≠ 0 then trapAt s tk cILLEGAL
    else match slotOf s tk (f.d.toNat % 16) with
      | none => trapAt s tk cILLEGAL
      | some l =>
        if !srRoleB l then trapAt s tk cILLEGAL
        else match commitWait s tk with
          | some r => r
          | none =>
            let s := closedFor s tk
            match checkReads s tk stash (tileReads l col0 korg) with
            | some r => r
            | none => match queueGate s tk with
              | some r => r
              | none =>
                let o := { newOp s tk c (.mldb f) ra rb 0 0 with
                  lrec := l, mem := true, committed := true, setsB := if follow then 2 else 1,
                  occ := ceilDiv (tileBytes l col0 korg) 512, lat := 24 }
                once (entryAfter (enqueue s tk o (some f.k.toNat)) tk) c 1 1
/-- What the resident B of an array is or will be: kind, N, and mode (R287). -/
def residentB (s : State) (core : Nat) (bit : Nat) : Option (Nat × Nat × Bool) :=
  match ((arrOf s core).ops.filter fun o => o.stage != .retired && o.setsB.testBit bit).getLast? with
  | some o => match o.ins with
    | .mldb _ => some (srKind o.lrec, tileN (srW o.lrec), srImode o.lrec)
    | _ => (arrOf s (core ^^^ bit)).resB.map fun r => (r.kind, r.n, r.imode)
  | none => (arrOf s (core ^^^ bit)).resB.map fun r => (r.kind, r.n, r.imode)
/-- The four multiplies (R287, R288). -/
def mulBody (i : Instr) (f : FL) (pair radius : Bool) : State → Nat → Nat → WRes := fun s tk c =>
  let t := s.team tk
  let core := teamCore s tk
  let (ra, rb) := regPair t c f.a
  let row0 := ra % 2 ^ 32
  let m := ra / 2 ^ 32
  let acc0 := rb % 2 ^ 32
  let korg := rb / 2 ^ 32
  let nblk := if pair then 16 else 8
  if tokBusy t f.k then .hold s
  else if !holdsArray s tk || (pair && !(arrOf s core).paired) || korg % 64 ≠ 0 then trapAt s tk cILLEGAL
  else match slotOf s tk (f.d.toNat % 16), residentB s core 0, residentB s core 1 with
    | some l, some b, b2 =>
      let n := b.2.1
      if srRoleB l || (radius && !srRad l) || srImode l != b.2.2 || (pair && b2 != some b) || m = 0 ||
        decide (Config.accEntries / n < m) || decide (Config.accEntries < acc0 + m * n) then trapAt s tk cILLEGAL
      else match checkReads s tk (f.sz.getLsbD 0) (mulReads l radius row0 m korg nblk) with
        | some r => r
        | none => match queueGate s tk with
          | some r => r
          | none =>
            let o := { newOp s tk c i ra rb 0 0 with
              lrec := l, mem := true, reads := (acc0, m * n), writes := (acc0, m * n), usesB := if pair then 3 else 1,
              occ := m * srW l + m * srOslots l, lat := if pair then 16 else 12 }
            once (enqueue s tk o (some f.k.toNat)) c 1 1
    | _, _, _ => trapAt s tk cILLEGAL
/-- MMA (R287). -/
def execMma (f : FL) (s : State) : Host.Outcome State Fault Refusal :=
  word (.mma f) s [f.a, nextReg f.a] fun s tk c => mulBody (.mma f) f false false s tk c
/-- MMAR (R287). -/
def execMmar (f : FL) (s : State) : Host.Outcome State Fault Refusal :=
  word (.mmar f) s [f.a, nextReg f.a] fun s tk c => mulBody (.mmar f) f false true s tk c
/-- MMA.PAIR (R287). -/
def execMmaPair (f : FL) (s : State) : Host.Outcome State Fault Refusal :=
  word (.mmaPair f) s [f.a, nextReg f.a] fun s tk c => mulBody (.mmaPair f) f true false s tk c
/-- MMAR.PAIR (R287). -/
def execMmarPair (f : FL) (s : State) : Host.Outcome State Fault Refusal :=
  word (.mmarPair f) s [f.a, nextReg f.a] fun s tk c => mulBody (.mmarPair f) f true true s tk c
/-- MZERO (R293). -/
def execMzero (f : FA) (s : State) : Host.Outcome State Fault Refusal :=
  word (.mzero f) s [f.a] fun s tk c =>
    let ra := (readReg (s.team tk) c 0 f.a).toNat
    let acc0 := ra % 2 ^ 32
    let n := ra / 2 ^ 32
    if !holdsArray s tk || n = 0 || decide (Config.accEntries < acc0 + n) then trapAt s tk cILLEGAL
    else match queueGate s tk with
      | some r => r
      | none =>
        let o := { newOp s tk c (.mzero f) ra 0 0 0 with writes := (acc0, n), occ := ceilDiv n 512, lat := 4 }
        once (enqueue s tk o none) c 1 1
/-- The rectangle of MSTORE and MLOADC: entry and address of each element (R294). -/
structure Rect where
  acc0 : Nat
  rows : Nat
  cols : Nat
  pitch : Nat
  base : Nat
  stride : Int
  form : Nat
  deriving DecidableEq, Repr
def rectOf (rd re ra rb form : Nat) : Rect :=
  { acc0 := bits rd 0 32, rows := bits rd 32 16, cols := bits rd 48 16, pitch := bits re 0 32, base := ra,
    stride := sextN 32 rb, form := form }
def Rect.last (r : Rect) : Nat := r.acc0 + (r.rows - 1) * r.pitch + r.cols - 1
def Rect.bad (r : Rect) : Bool := r.rows == 0 || r.cols == 0 || decide (4096 < r.cols) || decide (Config.accEntries ≤ r.last)
def Rect.elems (r : Rect) : List (Nat × Nat) :=
  (List.range r.rows).flatMap fun i => (List.range r.cols).map fun j =>
    (r.acc0 + i * r.pitch + j, (((r.base + j * formBytes r.form : Nat) + i * r.stride : Int) % 2 ^ 64).toNat)
/-- The bytes of a rectangle, row by row. -/
def Rect.parts (r : Rect) : List (Nat × Nat) :=
  (List.range r.rows).map fun i => (((r.base + i * r.stride : Int) % 2 ^ 64).toNat, r.cols * formBytes r.form)
def Rect.lines (r : Rect) : List Nat := distinct (r.elems.flatMap fun e => [e.2 / 128, (e.2 + formBytes r.form - 1) / 128])
/-- MSTORE (R294). -/
def execMstore (f : FL) (s : State) : Host.Outcome State Fault Refusal :=
  word (.mstore f) s [f.d, nextReg f.d, f.a, nextReg f.a] fun s tk c =>
    let t := s.team tk
    let (ra, rb) := regPair t c f.a
    let (rd, re) := regPair t c f.d
    let stash := f.sz.getLsbD 3
    let r := rectOf rd re ra rb (f.sz.toNat % 8)
    if tokBusy t f.k then .hold s
    else if !holdsArray s tk || r.bad then trapAt s tk cILLEGAL
    else match checkWrites s tk stash r.parts with
      | some x => x
      | none => match queueGate s tk with
        | some x => x
        | none =>
          let o := { newOp s tk c (.mstore f) ra rb rd re with
            reads := (r.acc0, r.last + 1 - r.acc0), mem := !stash, toScratch := stash, slines := if stash then r.lines else [],
            occ := ceilDiv (r.rows * r.cols * formBytes r.form) 512, lat := 8 }
          once (enqueue s tk o (some f.k.toNat)) c 1 1
/-- MLOADC (R295). -/
def execMloadc (f : FL) (s : State) : Host.Outcome State Fault Refusal :=
  word (.mloadc f) s [f.d, nextReg f.d, f.a, nextReg f.a] fun s tk c =>
    let t := s.team tk
    let (ra, rb) := regPair t c f.a
    let (rd, re) := regPair t c f.d
    let stash := f.sz.getLsbD 3
    let r := rectOf rd re ra rb (f.sz.toNat % 8)
    if tokBusy t f.k then .hold s
    else if !holdsArray s tk || r.bad then trapAt s tk cILLEGAL
    else match checkReads s tk stash r.parts with
      | some x => x
      | none =>
        match (if stash then r.lines.find? fun ln => ((teamGroup s tk).map fun g => g.absent.contains ln).getD false else none) with
        | some ln => .park s .presence ⟨0, ln⟩
        | none => match queueGate s tk with
          | some x => x
          | none =>
            let o := { newOp s tk c (.mloadc f) ra rb rd re with
              writes := (r.acc0, r.last + 1 - r.acc0), mem := true,
              occ := ceilDiv (r.rows * r.cols * formBytes r.form) 512, lat := 8 }
            once (enqueue s tk o (some f.k.toNat)) c 1 1
/-- What MSAVE and MRST move: first entry and count of .ENT, or the image (R296). -/
def entRange (rd : Nat) (img : Bool) : Nat × Nat := if img then (0, Config.accEntries) else (rd % 2 ^ 32, rd / 2 ^ 32)
def entBad (r : Nat × Nat) (va : Nat) (img : Bool) : Bool :=
  decide (Config.accEntries < r.1 + r.2) || va % (if img then 4096 else 8) != 0
/-- MSAVE (R296). -/
def execMsave (f : FL) (s : State) : Host.Outcome State Fault Refusal :=
  word (.msave f) s (if f.sz == 0 then [f.a, f.d] else [f.a]) fun s tk c =>
    let t := s.team tk
    let img := f.sz.getLsbD 0
    let ra := (readReg t c 0 f.a).toNat
    let rd := (readReg t c 0 f.d).toNat
    let r := entRange rd img
    if tokBusy t f.k then .hold s
    else if !holdsArray s tk || entBad r ra img then trapAt s tk cILLEGAL
    else match checkWrites s tk false [(ra, if img then imgBytes else 8 * r.2)] with
      | some x => x
      | none => match queueGate s tk with
        | some x => x
        | none =>
          let o := { newOp s tk c (.msave f) ra 0 rd 0 with reads := r, usesB := if img then 1 else 0, mem := true }
          once (enqueue s tk o (some f.k.toNat)) c 1 1
/-- MRST (R296). -/
def execMrst (f : FL) (s : State) : Host.Outcome State Fault Refusal :=
  word (.mrst f) s (if f.sz == 0 then [f.a, f.d] else [f.a]) fun s tk c =>
    let t := s.team tk
    let img := f.sz.getLsbD 0
    let ra := (readReg t c 0 f.a).toNat
    let rd := (readReg t c 0 f.d).toNat
    let r := entRange rd img
    if tokBusy t f.k then .hold s
    else if !holdsArray s tk || entBad r ra img then trapAt s tk cILLEGAL
    else match checkReads s tk false [(ra, if img then imgBytes else 8 * r.2)] with
      | some x => x
      | none => match queueGate s tk with
        | some x => x
        | none =>
          let o := { newOp s tk c (.mrst f) ra 0 rd 0 with writes := r, setsB := if img then 1 else 0, mem := true }
          once (enqueue s tk o (some f.k.toNat)) c 1 1
/-- MSTAT (R297). -/
def execMstat (f : FA) (s : State) : Host.Outcome State Fault Refusal :=
  word (.mstat f) s [] fun s tk c =>
    let core := teamCore s tk
    let a := arrOf s core
    let h := holdsArray s tk
    let q := (a.ops.filter fun o => o.stage == .queued || o.stage == .running).length
    let v := if h then mstatBits a + 2 ^ 8 + 2 ^ 9 * a.paired.toNat + 2 ^ 10 * (q % 4) else 0
    let s := if h && f.b.getLsbD 0 then modArr s core fun a => { a with mstat := 0, outcnt := 0 } else s
    once (s.modTeam tk fun t => writeRegs t (regW t 0 f.d (BitVec.ofNat 64 v))) c 1 1
/-- A binding of MDEP by a team (R298). -/
def newBind (s : State) (tk mid va : Nat) : MBind :=
  let t := s.team tk
  { mid := mid, va := va, ctx := teamAs s tk, tk := tk, gid := t.gid,
    rid := (t.regions.reverse.head?.map (·.rid)).getD (t.nextRid - 1), committed := t.regions.isEmpty, made := false,
    sent := false }
/-- The bindings after MDEP: a new one, or the one that an MDEP executed again after a rollback made before and whose
decrement stands (R298, log 67). -/
def bindAdd (l : List MBind) (m : MBind) : List MBind :=
  if l.any fun x => x.mid == m.mid && x.made && x.va == m.va then
    l.map fun x => if x.mid == m.mid && x.made && x.va == m.va then { m with made := true } else x
  else l ++ [m]
/-- MDEP (R298). -/
def execMdep (f : FA) (s : State) : Host.Outcome State Fault Refusal :=
  word (.mdep f) s [f.a] fun s tk c =>
    let core := teamCore s tk
    let va := (readReg (s.team tk) c 0 f.a).toNat
    if !holdsArray s tk || va % 8 ≠ 0 then trapAt s tk cILLEGAL
    else match (arrOf s core).issued.getLast? with
      | none => trapAt s tk cILLEGAL
      | some i =>
        if i.bound then trapAt s tk cILLEGAL
        else once (modArr s core fun a => { a with
          issued := a.issued.map fun x => if x.mid == i.mid then { x with bound := true } else x,
          mdeps := bindAdd a.mdeps (newBind s tk i.mid va) }) c 1 1

/-- Two ranges of entries meet. -/
def rangesMeet (a b : Nat × Nat) : Bool := a.2 != 0 && b.2 != 0 && overlaps a.1 a.2 b.1 b.2
/-- Operation o begins after operation e retires: their accumulator entries meet, one of them writing, or o reads or
replaces the resident B that e sets, or replaces the one that e reads (R290). -/
def opNeeds (o e : MOp) : Bool :=
  rangesMeet o.reads e.writes || rangesMeet o.writes e.writes || rangesMeet o.writes e.reads ||
  (o.usesB ||| o.setsB) &&& e.setsB != 0 || (o.setsB &&& e.usesB) != 0
/-- The byte reader of an operation. -/
def opRd (s : State) (core : Nat) (o : MOp) (stash : Bool) : Nat → Nat → ERead := engRead s core o.ctx o.gid stash
/-- The memory an operation reads: whether scratch, and where (R285 to R288, R295, R296). -/
def opReads (o : MOp) : Bool × List (Nat × Nat) :=
  let mul := fun (f : FL) (nblk : Nat) (radius : Bool) =>
    (f.sz.getLsbD 0, mulReads o.lrec radius (o.ra % 2 ^ 32) (o.ra / 2 ^ 32) (o.rb / 2 ^ 32) nblk)
  match o.ins with
  | .mcbk _ => (false, [(o.ra, 32)])
  | .mldb f => (f.sz.getLsbD 0, tileReads o.lrec (o.ra % 2 ^ 32) (o.rb % 2 ^ 32))
  | .mma f => mul f 8 false
  | .mmar f => mul f 8 true
  | .mmaPair f => mul f 16 false
  | .mmarPair f => mul f 16 true
  | .mloadc f => (f.sz.getLsbD 3, (rectOf o.rd o.re o.ra o.rb (f.sz.toNat % 8)).parts)
  | .mrst f => (false, [(o.ra, if f.sz.getLsbD 0 then imgBytes else 8 * o.writes.2)])
  | _ => (false, [])
/-- Scratch lines an operation reads, but for mapped ones, and the global memory it reads, those of mapped lines among it
(R135, R137). -/
def opScratchLines (s : State) (o : MOp) : List Nat :=
  let r := opReads o
  if r.1 then (distinct (r.2.flatMap fun x => [x.1 / 128, (x.1 + x.2 - 1) / 128])).filter fun l => (mappedVa (s.group? o.gid) (128 * l)).isNone
  else []
def opGlobal (s : State) (o : MOp) : List (Nat × Nat) :=
  let r := opReads o
  let g := s.group? o.gid
  if !r.1 then r.2
  else if (g.map fun g => g.maps.isEmpty).getD true then []
  else r.2.flatMap fun x => (List.range x.2).filterMap fun i => (mappedVa g (x.1 + i)).map fun va => (va, 1)
/-- Where a store's bytes go: scratch offsets, or locations with their S pages, the far lines under U, and virtual
addresses of far lines; or a fault. -/
inductive Placed where
  | ok (cells : List (Nat × Byte)) (spages : List (Nat × Nat)) (ulines : List Nat) (vas : Tab Nat)
  | fault (cause va : Nat)
def placeBytes (s : State) (core : Nat) (o : MOp) (l : List (Nat × List Byte)) : Placed :=
  if o.toScratch then
    match l.findSome? fun x => mappedFault s core o.ctx o.gid x.1 x.2.length with
    | some (c, v) => .fault c v
    | none => .ok (l.flatMap fun x => x.2.zipIdx.map fun b => (x.1 + b.2, b.1)) [] [] []
  else l.foldl (fun r x => match r with
    | .fault c v => .fault c v
    | .ok cs sp ul va => match xlateN s core o.ctx x.1 x.2.length .write true with
      | .fault c v => .fault c v
      | .ok ps => .ok (cs ++ (ps.map fun y => y.1).zip x.2)
          ((sPagesOf ps).foldl (fun l p => if l.contains p then l else l ++ [p]) sp) ((uLinesOf ps).foldl nins ul)
          (tputAll va (farVas x.1 ps))) (.ok [] [] [] [])
/-- What an operation that begins becomes: its fields, or a fault. -/
inductive OpRes where
  | ok (o : MOp)
  | fault (cause va : Nat)
  deriving DecidableEq, Repr
/-- A store with its bytes placed. -/
def placedOp (o : MOp) (p : Placed) (mstat : Nat) : OpRes :=
  match p with
  | .ok d sp ul va => .ok { o with data := d, spages := sp, ulines := ul, vas := va, mstat := mstat }
  | .fault c v => .fault c v
/-- Operations that read the elements of a poisoned line as NaI; in the others its read faults (R434). -/
def readsPoison : Instr → Bool
  | .mldb _ | .mma _ | .mmar _ | .mmaPair _ | .mmarPair _ => true
  | _ => false
/-- What an operation does, computed when it begins (R288, R291, R293 to R296). A FOLLOW load of CB4 elements forms them with
the codebook of the holder's own core (R279 and R286 do not say: DESIGN CHOICE, log 99). -/
def opRun (s : State) (core : Nat) (o : MOp) : OpRes :=
  let a := arrOf s core
  let st := (opReads o).1
  let rd := opRd s core o
  let po := readPoison (rd st) (opReads o).2
  match (readFault (rd st) (opReads o).2).orElse fun _ => if readsPoison o.ins then none else po.map fun v => (cPOISON, v) with
  | some (c, v) => .fault c v
  | none =>
    let inv := if po.isSome then mINV else 0
    let word8 := fun (b : List Byte) k => BitVec.ofNat 64 (leVal ((b.drop (8 * k)).take 8))
    let mul := fun (pair radius : Bool) =>
      let bs := a.resB.toList ++ (if pair then (arrOf s (core ^^^ 1)).resB.toList else [])
      let (r, x, n) := mulAll (rd st) o.lrec a.acb radius bs a.acc (o.ra % 2 ^ 32) (o.ra / 2 ^ 32) (o.rb % 2 ^ 32) (o.rb / 2 ^ 32)
      OpRes.ok { o with results := r, mstat := x ||| inv, outcnt := n }
    match o.ins with
    | .mcbk f =>
      let t := cbEntries (((rd false) o.ra 32).bytes.map (·.1))
      .ok (if f.sz.getLsbD 0 then { o with bcb := some t } else { o with acb := some t })
    | .mldb _ => .ok { o with mstat := inv, resB := some (formB (rd st) o.lrec a.bcb (o.ra % 2 ^ 32) (o.rb % 2 ^ 32)) }
    | .mma _ => mul false false
    | .mmar _ => mul false true
    | .mmaPair _ => mul true false
    | .mmarPair _ => mul true true
    | .mzero f => .ok { o with results := (List.range o.writes.2).map fun i =>
        (o.writes.1 + i, if f.b.getLsbD 0 then 0 else 0x80000000) }
    | .mstore f =>
      let r := rectOf o.rd o.re o.ra o.rb (f.sz.toNat % 8)
      let es := r.elems.map fun e => let x := storeEntry r.form (tget 0 a.acc e.1); (e.2, leBytes (formBytes r.form) x.1, x.2)
      placedOp o (placeBytes s core o (es.map fun e => (e.1, e.2.1))) (orAll (es.map fun e => e.2.2))
    | .mloadc f =>
      let r := rectOf o.rd o.re o.ra o.rb (f.sz.toNat % 8)
      let es := r.elems.map fun e => (e.1, loadEntry r.form (eVal ((rd st) e.2 (formBytes r.form)).bytes))
      .ok { o with results := es.map fun e => (e.1, e.2.1), mstat := orAll (es.map fun e => e.2.2) }
    | .msave f =>
      let b := if f.sz.getLsbD 0 then (List.range imgBytes).map (imgByte a)
        else (List.range o.reads.2).flatMap fun i => leBytes 8 (tget 0 a.acc (o.reads.1 + i)).toNat
      placedOp o (placeBytes s core o [(o.ra, b)]) o.mstat
    | .mrst f =>
      if f.sz.getLsbD 0 then
        let b := ((rd false) o.ra imgBytes).bytes.map (·.1)
        let i := readImage fun x n => leVal ((b.drop x).take n)
        .ok { o with results := i.acc, resB := i.resB, acb := some i.acb, bcb := some i.bcb, mset := some i.mstat }
      else
        let b := ((rd false) o.ra (8 * o.writes.2)).bytes.map (·.1)
        .ok { o with results := (List.range o.writes.2).map fun k => (o.writes.1 + k, word8 b k) }
    | _ => .ok o
/-- A fault that an engine of a group meets when its team can no longer take it: a group that drains reports it to the
journal, and its grid fails (R36). -/
def drainFault (s : State) (gid cause va : Nat) : State :=
  match s.group? gid with
  | none => s
  | some g =>
    if g.st == .draining then
      failGrid (journalEvent s (s.grid? g.seq) true cause (g.idx % 2 ^ 32) 0 0 (BitVec.ofNat 64 va)) g.seq cause (g.idx % 2 ^ 32)
        (BitVec.ofNat 64 va)
    else s
/-- A fault of an engine that works for a team is reported to it, or with its group draining to the journal; a parked team
that takes it in its handler stays parked with the cause FAULT until the entry (R30, R36, R291). -/
def engFault (s : State) (gid tk cause va : Nat) : State :=
  match s.group? gid with
  | none => s
  | some g =>
    let t := s.team tk
    if g.st == .draining then drainFault s gid cause va
    else if t.st == .parked && !t.lvl && t.hvec != 0 && !isDriverCause cause then faultParked s tk cause (BitVec.ofNat 64 va)
    else trapEntry s tk cause (BitVec.ofNat 64 va) 0 0 3
/-- A fault of an operation, which is dropped; the bytes that the array has asked other E9s for are of no more use. -/
def opFault (s : State) (core : Nat) (o : MOp) (cause va : Nat) : State :=
  let s := dropAsks s (arrayAgent core)
  let s := modArr s core fun a => { a with ops := a.ops.filter fun x => x.mid != o.mid }
  let s := match o.token with | some id => arrive s o.tk id (max (teamCyc s o.tk) (s.team o.tk).clk) | none => s
  engFault s o.gid o.tk cause va
/-- An operation's global lines are read for good by a group without the ticket (R169). -/
def opMark (s : State) (o : MOp) (lines : List (Nat × Nat)) : State :=
  if restartable s o.gid then markGroup s o.gid (lines.map (·.1)) else s
/-- The entries an operation will write, as they stand (R291). -/
def opShadow (a : MArray) (o : MOp) : Option (List (Nat × Word)) :=
  match o.ins with
  | .mma _ | .mmar _ | .mmaPair _ | .mmarPair _ | .mzero _ | .mloadc _ | .mrst _ =>
    some (o.results.map fun x => (x.1, tget 0 a.acc x.1))
  | _ => none
/-- A store's bytes on their way to one sluice step (R159, R294). -/
def storeChain (s : State) (core : Nat) (o : MOp) : State :=
  let c := { newChain s core 4 o.ctx 0 with
    tk := some o.tk, gid := some o.gid, rid := o.rid, inflightId := o.token, committed := o.committed,
    shadow := tputAll [] o.data, spages := o.spages, ulines := o.ulines, vas := o.vas, stepDue := true, ended := true }
  { s.setChain c with nextCid := s.nextCid + 1 }
/-- What an operation that retires at a cycle leaves in the array, and in the follower's. -/
def retireArr (s : State) (core : Nat) (o : MOp) (t : Nat) : State :=
  let s := accWrite s core o.results
  let setB := fun (a : MArray) => { a with resB := o.resB }
  let s := if o.setsB.testBit 0 then modArr s core setB else s
  let s := if o.setsB.testBit 1 then modArr s (core ^^^ 1) setB else s
  modArr s core fun a => { a with
    acb := o.acb.getD a.acb, bcb := o.bcb.getD a.bcb,
    mstat := match o.mset with | some m => m % 32 | none => a.mstat ||| o.mstat,
    outcnt := match o.mset with | some m => bits m 16 16 | none => min 0xFFFF (a.outcnt + o.outcnt),
    ops := (a.ops.filter fun x => !(x.mid == o.mid && o.committed)).map fun x =>
      if x.mid == o.mid then { x with stage := .retired, results := [], data := [], resB := none }
      else if x.stage == .queued && opNeeds x o then { x with issue := max x.issue t } else x }

/-- The cycles of an operation are exact: its operands are none, or present scratch lines (R292). -/
def exactOp (s : State) (o : MOp) : Bool :=
  match o.ins with
  | .mzero _ => true
  | .mldb _ | .mma _ | .mmar _ | .mmaPair _ | .mmarPair _ | .mloadc _ => (opReads o).1 && (opGlobal s o).isEmpty
  | .mstore f => f.sz.getLsbD 3 && !(o.slines.any fun l => (mappedVa (s.group? o.gid) (128 * l)).isSome)
  | _ => false
/-- The queued operation of an array that may begin, and the earliest cycle for it (R290, R294); presence is awaited. -/
def nextBegin (s : State) (core : Nat) : Option (MOp × Nat) :=
  let a := arrOf s core
  match a.ops.find? fun o => o.stage == .queued with
  | none => none
  | some o =>
    let ls := opScratchLines s o
    let g := s.group? o.gid
    let gone := (g.map fun g => ls.any fun l => g.absent.contains l).getD false
    if (a.ops.any fun e => e.stage == .running) || (a.ops.any fun e => e.mid < o.mid && e.stage != .retired && opNeeds o e) || gone then none
    else some (o, ls.foldl (fun m l => max m ((g.map fun g => tget 0 g.present l).getD 0)) (max o.issue a.freeAt))
/-- The cycle from which a store's bytes leave: one to scratch waits for its release (R294). -/
def leaveAt (o : MOp) : Nat := if o.toScratch then max o.beginC o.release else o.beginC
def retireAt (o : MOp) : Nat := leaveAt o + o.occ + o.lat
/-- The cycle of the last byte of a scratch line of a store (R294). -/
def lineAt (o : MOp) (ln : Nat) : Nat :=
  match o.ins with
  | .mstore f =>
    let r := rectOf o.rd o.re o.ra o.rb (f.sz.toNat % 8)
    let fb := formBytes r.form
    let k := (r.elems.zipIdx.filter fun e => e.1.2 / 128 == ln || (e.1.2 + fb - 1) / 128 == ln).foldl (fun m e => max m (e.2 + 1)) 0
    leaveAt o + o.lat + ceilDiv (k * fb) 512
  | _ => retireAt o
/-- The next thing a released store delivers: the scratch lines whose last byte comes first, and its cycle; none once all
that is left ends with its retirement. -/
def nextLines (o : MOp) : Option (List Nat × Nat) :=
  let l := (o.slines.filter fun ln => !o.slinesIn.contains ln).map fun ln => (ln, lineAt o ln)
  match l with
  | [] => none
  | x :: r =>
    let c := r.foldl (fun m y => min m y.2) x.2
    if c < retireAt o then some ((l.filter fun y => y.2 == c).map (·.1), c) else none
/-- What the array of a core does next: it delivers lines of an operation, or one retires (R290, R294). -/
inductive ArrNext where
  | lines (o : MOp) (ls : List Nat) (c : Nat)
  | retire (o : MOp) (c : Nat)
def ArrNext.at : ArrNext → Nat
  | .lines _ _ c => c
  | .retire _ c => c
def ArrNext.op : ArrNext → MOp
  | .lines o _ _ => o
  | .retire o _ => o
def arrOuts (s : State) (core : Nat) : List ArrNext :=
  let one := fun (o : MOp) =>
    if o.toScratch && !o.committed then none
    else match (if o.toScratch && (o.stage == .running || o.stage == .latency) then nextLines o else none) with
      | some (ls, c) => some (ArrNext.lines o ls c)
      | none => if o.stage == .latency then some (ArrNext.retire o (retireAt o)) else none
  (arrOf s core).ops.filterMap one
def nextOut (s : State) (core : Nat) : Option ArrNext :=
  (arrOuts s core).foldl (fun b x => match b with
    | none => some x
    | some y => if x.at < y.at then some x else b) none
/-- A binding is due: its operation has retired, and the operation's region has committed. -/
def bindDue (a : MArray) (m : MBind) : Bool := !m.made && !a.ops.any fun o => o.mid == m.mid
/-- The key of a binding's decrement at another E9. -/
def bindKey (core mid : Nat) : Nat := core * 2 ^ 32 + mid
/-- The decrement of a binding at another E9 has answered (R35, R36, R298). -/
def bindReply (s : State) (key : Nat) (cause : Option Nat) : State :=
  let core := key / 2 ^ 32
  match (arrOf s core).mdeps.find? fun m => m.sent && bindKey core m.mid == key with
  | none => s
  | some m =>
    let s := modArr s core fun a => { a with mdeps :=
      (a.mdeps.map fun x => if x == m then { x with sent := false } else x).filter fun x => !(x.made && x.committed && !x.sent) }
    match cause with | some c => drainFault s m.gid c m.va | none => s

end Sys2Proof.Machine
end

