-- ==== Sys2Proof/Machine/Order.lean ====
section
/-! DEFINITION. The order of the cycles of a pair: what is due when, the cycle in which a pipe selects, and whether a word,
a selection or an event is the next (R21, R38, R45, R149, R182, R291, R313, R346 to R350). Of one cycle, events come first,
then selections, then words; what has no exact cycle takes place as CYC stands, at any time. -/
namespace Sys2Proof.Machine

/-- Ready teams of a core that may be selected. -/
def readyTeams (s : State) (c : Nat) : List Nat :=
  teamsWhere s fun k t => t.st == .ready && !isCtl k && teamCore s k == c && !saveDecided s k && !uBusy t && !groupReleasing s t.gid
/-- The cycle a pipe selects in, if it is free and a team is ready (R21, R350). -/
def selectAt (s : State) (c p : Nat) : Option Nat :=
  let x := s.core c
  if tget 0 x.pipes p ≠ 0 then none
  else match readyTeams s c with
    | [] => none
    | k :: ks => some (max (max (tget 0 x.pipes (2 + p)) (s.pair (pairOfCore c)).cyc)
        (ks.foldl (fun m k => min m ((s.team k).readyAt + 1)) ((s.team k).readyAt + 1)))
/-- The open region of a parked team holds work that only its commit releases (R154, R274, R294, R298). -/
def holdsDeferred (s : State) (tk rid : Nat) : Bool :=
  (s.chains.any fun c => c.2.tk == some tk && c.2.rid == rid && !c.2.committed) || !(regionOps s tk rid).isEmpty ||
  ((teamGroup s tk).map fun g => g.hamper.any fun e =>
    (e.spec && e.pusher == tk && e.pushRid == rid) || (e.taken && e.drawer == tk && e.drawRid == rid)).getD false
/-- The oldest region of a team may commit: it is closed, or the open one of a parked team that holds work only its commit
releases, and its accesses have been performed (R149, R298; log 11). -/
def mayCommit (s : State) (tk : Nat) : Option Region :=
  let t := s.team tk
  match t.regions with
  | [] => none
  | r :: _ =>
    if groupReleasing s t.gid || t.st == .swapped || t.park == .fault || !accessesDone s tk r.rid then none
    else if !r.closed && !(t.st == .parked && holdsDeferred s tk r.rid) then none
    else some r
/-- The events of a U region that stand before the first one at another E9, and that one (R145, R152). -/
def uSplit (r : Region) : List (List (Nat × Byte)) × Option (List (Nat × Byte)) :=
  let far := fun (e : List (Nat × Byte)) => e.any fun c => isRemote c.1
  if r.uacc then (r.evts.takeWhile fun e => !far e, r.evts.find? far) else ([], none)
/-- Some first events of a team's oldest region have been performed. -/
def dropEvents (s : State) (tk n : Nat) : State :=
  s.modTeam tk fun t => match t.regions with
    | [] => t
    | r :: rest => { t with regions := { r with evts := r.evts.drop n, stores := (r.evts.drop n).foldl tputAll [], begun := true } :: rest }
/-- A line that a region stored to has been refused by its home E9 (R409). -/
def refusedStore (s : State) (r : Region) : Bool := r.stores.any fun c => isRemote c.1 && (tget? s.nacks (lineOf c.1)).isSome
/-- What a region must do before its stores can be performed: reach their lines, and under U perform in order the events up
to the last one at another E9; none: it commits now. A store that its home has refused takes the team back, and its word
faults when it issues again, with its address (log 85; R123, R145, R152, R403, R410, R411). -/
def commitGate (s : State) (tk : Nat) (r : Region) : Option State :=
  if unticketed s (s.team tk).gid then none
  else if refusedStore s r then some (rollbackTo s tk 0)
  else
    let lines := fun (cs : List (Nat × Byte)) => (distinct (cs.map fun c => lineOf c.1)).map fun l => (l, if r.uacc then 2 else 0)
    match uSplit r with
    | (_, none) => gates s tk (lines (r.stores.map fun c => (c.1, c.2))) true
    | ([], some e) => match wrlGate s tk e with
      | some s => some (dropEvents s tk 0)
      | none => some (dropEvents (wrlDone s tk e) tk 1)
    | (pre, some _) => match gates s tk (lines pre.flatten) true with
      | some s => some s
      | none => some (dropEvents (writeEvents s (some tk) pre (tputAll [] pre.flatten) r.spages) tk pre.length)
/-- A region whose commit releases a store to scratch, and that can commit now: it commits in this cycle (R294, R298). -/
def commitDue (s : State) (tk : Nat) : Bool :=
  match mayCommit s tk with
  | none => false
  | some r => (regionOps s tk r.rid).any (·.toScratch) && (commitGate s tk r).isNone &&
      !groupClash s tk (distinct (r.stores.map fun c => lineOf c.1))

/-- The teams of a pair, one for each pipe, whose word is the next of its pipe. -/
def nextWords (s : State) (q : Nat) : List Nat :=
  teamsWhere s fun k t => t.st == .issuing && !isCtl k && !uBusy t && !groupReleasing s t.gid && pairOfCore (teamCore s k) == q && coTurn s k == k
/-- The cycle of a team's next word, with the teams that it is joined with (R24). -/
def wordAt (s : State) (tk : Nat) : Nat := ((coSync s tk).team tk).clk
/-- Cycles in which something that is exact is due on a core's array (R292). -/
def arrayDue (s : State) (core : Nat) : List Nat :=
  let ops := (arrOf s core).ops
  ((ops.find? fun o => o.stage == .running && exactOp s o).map fun o => o.beginC + o.occ).toList ++
  ((nextBegin s core).bind fun x => if exactOp s x.1 then some x.2 else none).toList ++
  ((arrOuts s core).filter fun x => exactOp s x.op).map (·.at)
/-- Cycles in which something is due on a pair: results, CYC waits, array work and the commits that release it. -/
def dueAt (s : State) (q : Nat) : List Nat :=
  let now := (s.pair q).cyc
  let teams := teamsWhere s fun k t => !isCtl k && t.st != .swapped && pairOfCore (teamCore s k) == q
  (teams.flatMap fun k =>
    let t := s.team k
    ((t.inflight.filter fun f => f.wait == .arrival && !f.arrived && f.due != 0).map (·.due)) ++
    (if t.st == .parked && t.park == .cycle && !saveDecided s k then [max now t.wait.val] else []) ++
    (if commitDue s k then [now] else [])) ++
  arrayDue s (2 * q) ++ arrayDue s (2 * q + 1)
/-- A core runs teams of a replayed grid, whose selection may have to wait for the log (R61). -/
def replaysOn (s : State) (c : Nat) : Bool :=
  (readyTeams s c).any fun k => ((teamGrid s k).map fun g => g.det && g.replay).getD false
/-- Cycles in which the pipes of a pair select. -/
def selectsAt (s : State) (q : Nat) : List Nat :=
  [2 * q, 2 * q + 1].flatMap fun c => if replaysOn s c then [] else [0, 1].filterMap fun p => selectAt s c p
/-- A team's next word goes to the hamper unit (R45). -/
def nextIsHamper (s : State) (tk : Nat) : Bool :=
  match fetchInstr s tk (s.team tk).pc.toNat with
  | .ok i _ => isHamperWord i
  | _ => false
/-- Of two words of a core in one cycle, the first: of two for the hamper unit that of pipe 0, else that of the older run
(R21, R45, R229). -/
def tieFirst (s : State) (a b : Nat) : Bool :=
  let x := s.team a
  let y := s.team b
  if nextIsHamper s a && nextIsHamper s b then decide (x.pipe.getD 0 ≤ y.pipe.getD 0)
  else decide (x.runAt < y.runAt) || (x.runAt == y.runAt && decide (x.pipe.getD 0 ≤ y.pipe.getD 0))
/-- A team's next word is the next thing of its pair. -/
def wordFirst (s : State) (tk : Nat) : Bool :=
  let core := teamCore s tk
  let q := pairOfCore core
  let c := wordAt s tk
  ((nextWords s q).all fun k => k == tk || decide (c < wordAt s k) ||
    (c == wordAt s k && (teamCore s k != core || tieFirst s tk k))) &&
  (dueAt s q).all (fun e => decide (c < e)) && (selectsAt s q).all fun e => decide (c < e)
/-- An event of a pair at a cycle stands before every word, and no other exact one before it. -/
def eventFirst (s : State) (q e : Nat) : Bool :=
  ((nextWords s q).all fun k => decide (e ≤ wordAt s k)) && (dueAt s q).all (fun x => decide (e ≤ x)) &&
  (selectsAt s q).all fun x => decide (e ≤ x)
/-- A selection in a cycle stands before every word, and after the events of the cycle. -/
def selectFirst (s : State) (q at_ : Nat) : Bool :=
  ((nextWords s q).all fun k => decide (at_ ≤ wordAt s k)) && (dueAt s q).all (fun x => decide (at_ < x)) &&
  (selectsAt s q).all fun x => decide (at_ ≤ x)
/-- CYC of a pair reaches a cycle. -/
def cycTo (s : State) (q c : Nat) : State := let p := s.pair q; s.setPair q { p with cyc := max p.cyc c }

end Sys2Proof.Machine
end

