-- ==== Sys2Proof/Machine/Engine.lean ====
section
/-! DEFINITION. The events of an array: an operation begins, leaves the array, delivers and retires, and the decrements
bound to it (R35, R36, R164, R290 to R298). -/
namespace Sys2Proof.Machine

/-- The cycle of an event of an operation on a core: its own where it is exact, otherwise no earlier than CYC (R292). -/
def opCycle (s : State) (core : Nat) (o : MOp) (c : Nat) : Nat :=
  if exactOp s o then c else max c (s.pair (pairOfCore core)).cyc
/-- MATRIX_OP_BEGIN: the queued operation of a core begins where it may (R290, R291, R294); its lines of another E9 and
those that a host holds are reached first (R161). -/
def execMatrixOpBegin (core : Nat) (s : State) : Host.Outcome State Fault Refusal :=
  event (
    match nextBegin s core with
    | none => s
    | some (o, at_) =>
      let q := pairOfCore core
      let c := opCycle s core o at_
      if !clockRuns s core || !eventFirst s q c then s
      else
        let lines := engLines s core o.ctx (opGlobal s o)
        match gates s (arrayAgent core) lines false with
        | some s => s
        | none =>
          match opRun s core o with
          | .fault ca v => if uBusy (s.team o.tk) then s else opFault (cycTo s q c) core o ca v
          | .ok o =>
            let o := { o with shadow := opShadow (arrOf s core) o, stage := .running, beginC := c }
            modArr (opMark (dropReplies (cycTo s q c) (arrayAgent core) lines) o lines) core fun a =>
              { a with ops := a.ops.map fun x => if x.mid == o.mid then o else x })
/-- MATRIX_OCCUPANCY_END: the running operation leaves the array; its operand reads are performed (R290, R291). -/
def execMatrixOccupancyEnd (core : Nat) (s : State) : Host.Outcome State Fault Refusal :=
  event (match (arrOf s core).ops.find? fun o => o.stage == .running with
    | none => s
    | some o =>
      let q := pairOfCore core
      let c := opCycle s core o (o.beginC + o.occ)
      if !clockRuns s core || !eventFirst s q c then s
      else modArr (cycTo s q c) core fun a => { a with
        freeAt := c, ops := a.ops.map fun x => if x.mid == o.mid then { x with stage := .latency, occ := c - x.beginC } else x })
/-- The token of an operation frees. -/
def opArrive (s : State) (o : MOp) (c : Nat) : State :=
  match o.token with | some id => arrive s o.tk id c | none => s
/-- MATRIX_OP_RETIRE: the next operation in its latency retires, or a released store to scratch delivers the lines whose
last byte is due; a store to scratch is held to the commit of its region (R290, R294). -/
def execMatrixOpRetire (core : Nat) (s : State) : Host.Outcome State Fault Refusal :=
  event (match nextOut s core with
    | none => s
    | some x =>
      let o := x.op
      let q := pairOfCore core
      let c := opCycle s core o x.at
      if !clockRuns s core || !eventFirst s q c then s
      else
        let ls := match x with | .lines _ ls _ => ls | .retire _ _ => o.slines.filter fun l => !o.slinesIn.contains l
        let cells := o.data.filter fun y => ls.contains (y.1 / 128)
        match (if o.toScratch then scratchGate s core o.ctx o.gid cells else none) with
        | some s => s
        | none =>
          let s := cycTo s q c
          let s := if o.toScratch then linesIn (scratchPut s core o.ctx o.gid cells) o.gid ls c else s
          match x with
          | .lines _ _ _ => modArr s core fun a => { a with
              ops := a.ops.map fun y => if y.mid == o.mid then { y with slinesIn := y.slinesIn ++ ls } else y }
          | .retire _ _ =>
            let s := retireArr s core o c
            match o.ins with
            | .mstore _ | .msave _ => if o.toScratch then opArrive s o c else storeChain s core o
            | _ => opArrive s o c)
/-- A line of a step that its home E9 has refused, with a virtual address in it and the cause (R36, R409). -/
def refusedLine (s : State) (c : Chain) : Option (Nat × Nat × Nat) :=
  c.vas.findSome? fun x => (tget? s.nacks x.1).map fun ca => (x.1, x.2, ca)
/-- A write of an engine that its home E9 refuses is a fault of the destination: nothing more is written to the refused
lines, a copy chain ends with this step as stopped, and a store's fault goes to its team (R36, R272, R409, log 73). -/
def refuseStep (s : State) (c : Chain) (va cause : Nat) : State :=
  let bad := fun (l : Nat) => (tget? s.nacks l).isSome
  let s := ({ s with nacks := [] }).setChain { c with
    shadow := c.shadow.filter fun x => !bad (lineOf x.1), ulines := c.ulines.filter fun l => !bad l, vas := c.vas.filter fun x => !bad x.1,
    poisonLines := c.poisonLines.filter fun l => !bad l, stop := if c.stop = 0 then xferStatus cause true else c.stop, ended := true,
    fcause := if c.fcause = 0 then cause else c.fcause, faddr := if c.fcause = 0 then va else c.faddr }
  match c.gid, c.tk with
  | some gid, some tk =>
    if 4 ≤ c.ch && !((s.group? gid).map fun g => g.st == .draining).getD true then engFault s gid tk cause va else s
  | _, _ => s
/-- SLUICE_STEP: the shadow of a chain is published as one event (R159, R160, R163, R168). Lines of another E9 under D
are borrowed first and change in it; those under U are written at their homes before (log 73), after the order log has
taken the step. -/
def execSluiceStep (cid : Nat) (s : State) : Host.Outcome State Fault Refusal :=
  event (match s.chain? cid with
  | none => s
  | some c =>
    if !clockRuns s c.core || !c.stepDue || !c.committed || (match c.gid with | some g => unticketed s g | none => false) then s
    else match refusedLine s c with
    | some (_, va, ca) => refuseStep s c va ca
    | none =>
      let far := c.shadow.filter fun x => c.ulines.contains (lineOf x.1)
      let near := c.shadow.filter fun x => !c.ulines.contains (lineOf x.1)
      let lines := distinct (near.map fun (x : Nat × Byte) => lineOf x.1)
      match gates s noTeam (lines.map fun l => (l, 0)) true with
      | some s => s
      | none =>
        match (if c.logged then .ok s else stepLog s c (distinct (c.shadow.map fun (x : Nat × Byte) => lineOf x.1))) with
        | .wait => s
        | .stopped s => s
        | .ok s =>
          let c := { c with logged := true }
          match wrlGate (s.setChain c) (chainAgent c.cid) far with
          | some s => s
          | none =>
            let s := writeEvent (wrlDone s (chainAgent c.cid) far) none near c.spages
            let s := { s with poison := c.poisonLines.foldl nins s.poison }
            let c := { c with shadow := [], spages := [], ulines := [], vas := [], poisonLines := [], stepDue := false, logged := false }
            if c.ended then endChain s c else s.setChain c)
/-- MDEP_DECREMENT: the first due binding decrements its counter; one of an ordered group waits for its ticket, and a
counter at another E9 is answered for later (R35, R164, R168, R298). -/
def execMdepDecrement (core : Nat) (s : State) : Host.Outcome State Fault Refusal :=
  event (
    let a := arrOf s core
    match a.mdeps.find? fun m => bindDue a m && !unticketed s m.gid with
    | none => s
    | some m =>
      if !clockRuns s core then s else
        let keep := fun (x : MBind) => !(x.made && x.committed && !x.sent)
        let made := fun (s : State) (sent : Bool) => modArr s core fun a => { a with
          mdeps := (a.mdeps.map fun x => if x == m then { x with made := true, sent := sent } else x).filter keep }
        match decCounter s m.ctx m.va 7 (bindKey core m.mid) with
        | .made s => made s false
        | .asked s => made s true
        | .wait s => s
        | .fault c => drainFault (made s false) m.gid c m.va)

end Sys2Proof.Machine
end

