-- ==== Sys2Proof/Machine/Tasks.lean ====
section
/-! DEFINITION. Forks, the hamper and the cistern as words meet them, and device launches: SPLIT, FORK, TAKE, HSTAT,
LAUNCH, LSTAT (R42 to R61, R299 to R305). -/
namespace Sys2Proof.Machine

/-- An entry that is committed and not TAKEN (R46). -/
def HEntry.stands (e : HEntry) : Bool := !e.spec && !e.taken
/-- Entries of a bin of a group's hamper. -/
def Group.inBin (g : Group) (b : Nat) : List HEntry := g.hamper.filter fun e => e.bin == b
/-- A bin of a die's cistern, oldest entry first (R50). -/
def Grid.cist (q : Grid) (die b : Nat) : List HEntry := tget [] q.cistern (die * 8 + b)
def Grid.setCist (q : Grid) (die b : Nat) (l : List HEntry) : Grid := { q with cistern := tset [] q.cistern (die * 8 + b) l }
/-- Entries of a bin that a die has given and that have not arrived: they count at the donor (R58). -/
def Grid.given (q : Grid) (die b : Nat) : Nat :=
  ((q.forage.filter fun f => !f.2.resting && f.2.donor == some die && f.2.bin == b).map fun f => f.2.moving.length).sum
def Grid.cistCount (q : Grid) (die b : Nat) : Nat := (q.cist die b).length + q.given die b
/-- Entries in the cisterns of a grid on a die. -/
def Grid.cistTotal (q : Grid) (die : Nat) : Nat := ((List.range 8).map fun b => q.cistCount die b).sum
/-- The change counter of a grid on a die advances (R59). -/
def bumpChange (s : State) (seq die : Nat) : State :=
  s.modGrid seq fun q => { q with change := tput q.change die (tget 0 q.change die + 1) }
/-- The bin that holds the most entries, the lowest-numbered among equals, with one bin left out or none (R51, R52). -/
def fullestBin (g : Group) (but : Option Nat) : Nat :=
  ((List.range 8).foldl (fun (b : Option Nat) i =>
    if but == some i then b
    else match b with
      | none => some i
      | some k => if (g.inBin k).length < (g.inBin i).length then some i else b) none).getD 0
/-- A spill: the oldest half of the fullest bin's committed entries goes to the top of the cistern's bin; none where
nothing can move (R51). An unticketed group's spill is staged (R56). -/
def spill (s : State) (gid : Nat) (but : Option Nat) : Option State :=
  match s.group? gid with
  | none => none
  | some g =>
    match s.grid? g.seq with
    | none => none
    | some q =>
      let b := fullestBin g but
      let c := (g.inBin b).filter (·.stands)
      let k := (c.length + 1) / 2
      let die := dieOfCore g.core
      if k = 0 || decide (lrCistern q.lrec / 64 < q.cistTotal die + k) then none
      else
        let mv := c.take k
        let slots := mv.map (·.slot)
        let owner := if unticketed s gid then gid + 1 else 0
        let s := s.setGroup { g with hamper := g.hamper.filter fun e => !slots.contains e.slot }
        let s := s.setGrid (q.setCist die b (q.cist die b ++ mv.map fun e => { e with drawer := owner, slot := 0 }))
        some (bumpChange s g.seq die)
/-- A team's open region stands alone and has made no access: what it does is committed at once (R149, R317). -/
def loneClean (s : State) (tk : Nat) : Bool :=
  let t := s.team tk
  match t.regions with
  | [] => true
  | [r] => !r.closed && r.reads.isEmpty && r.stores.isEmpty && r.sstores.isEmpty &&
      !(s.chains.any fun c => c.2.tk == some tk && c.2.rid == r.rid && !c.2.committed) &&
      !((s.core (teamCore s tk)).arr.ops.any fun o => o.tk == tk && o.rid == r.rid && !o.committed) &&
      ((teamGroup s tk).map fun g => g.hamper.all fun e =>
        !(e.spec && e.pusher == tk) && !(e.taken && e.drawer == tk)).getD true
  | _ => false
/-- The lowest free slot of a hamper. -/
def freeSlot (g : Group) : Nat := ((List.range (g.hamper.length + 1)).find? fun i => !g.hamper.any fun e => e.slot == i).getD 0
/-- A push, with a spill where the hamper is full; none where no slot can be obtained (R45, R49, R51, R55). -/
def pushEntry (s : State) (tk bin : Nat) (pay : List Word) : Option State :=
  match teamGroup s tk with
  | none => none
  | some g =>
    let det := ((s.grid? g.seq).map (·.det)).getD false
    if det && decide (2 ^ 22 ≤ g.pushno) then none
    else
      match (if g.hamper.length < g.hamperN then some s else if g.st == .resident then spill s g.gid none else none) with
      | none => none
      | some s =>
        match s.group? g.gid with
        | none => none
        | some g =>
          let t := s.team tk
          let spec := !loneClean s tk
          let rid := (t.regions.reverse.head?.map (·.rid)).getD 0
          let e : HEntry := { bin := bin, spec := spec, rtag := if spec then rid % 4 else 0, taken := false,
                              nreg := g.frame.length, pushno := g.pushno % 2 ^ 22, group := g.idx % 2 ^ 32, pay := pay,
                              pusher := tk, pushRid := rid, drawer := 0, drawRid := 0, slot := freeSlot g }
          let s := s.setGroup { g with hamper := g.hamper ++ [e], pushno := g.pushno + 1 }
          some (bumpChange s g.seq (dieOfCore g.core))
/-- The frame registers of a lane as a pushing word reads them (R43, R44). -/
def framePay (t : Team) (g : Group) (c l : Nat) : List Word := g.frame.map fun r => readReg t c l (BitVec.ofNat 7 r)
/-- What a lane offers to push: the payload and the registers it keeps when it has pushed, or nothing (R47, R48). -/
structure Offer where
  pay : List Word
  keep : LaneRes
/-- Serves a pushing word lane by lane (R17, R45, R47, R48, R299, R300). -/
def pushWord (d : Reg) (bin : Nat) (offer : Team → Group → Nat → Nat → Option Offer) : State → Nat → Nat → WRes :=
  fun s tk c =>
  let t := s.team tk
  let p := passesOf t c fun j _ => max 1 ((activeLanes t).filter fun l => l / 32 == j).length
  let clean := loneClean s tk
  let (s, rs) := (activeLanes t).foldl (fun (a : State × List (Nat × LaneRes)) l =>
    let no : LaneRes := { p := [(d.toNat, .f)] }
    if !t.live.getLsbD l then (a.1, a.2 ++ [(l, no)])
    else match (teamGroup a.1 tk).bind fun g => offer t g (passCycle p l) l with
      | none => (a.1, a.2 ++ [(l, no)])
      | some o => match pushEntry a.1 tk bin o.pay with
        | none => (a.1, a.2 ++ [(l, { p := [(d.toNat, Tri.u)] : LaneRes })])
        | some s => (s, a.2 ++ [(l, { o.keep with p := [(d.toNat, Tri.t)] })])) (s, [])
  let s := s.modTeam tk fun t => applyLanes t rs
  let s := if clean && rs.any (fun r => r.2.p.any fun x => x.2 == .t) then
      wakeTake (s.modTeam tk fun t => modOpen t fun r => { r with wm := snapWaymark t t.nextPc }) t.gid
    else s
  .done s (p.fin - 1) p.fin (p.ready 4)
/-- The register values of an interval: one for F32, two for F64 (R70). -/
def ivVals (w : Bool) (r : IvRes) : List Word :=
  if w then [BitVec.ofNat 64 r.lo, BitVec.ofNat 64 r.hi] else [BitVec.ofNat 64 (r.lo + r.hi * 2 ^ 32)]
/-- The payload with an interval in the places of its registers. -/
def patchPay (g : Group) (pay : List Word) (a : Nat) (vs : List Word) : List Word :=
  match g.frame.findIdx? fun r => r == a with
  | none => pay
  | some i => pay.take i ++ vs ++ pay.drop (i + vs.length)
/-- What SPLIT offers: the upper half to the child, the lower half to the lane (R47). -/
def splitOffer (f : FBW) (t : Team) (g : Group) (c l : Nat) : Option Offer :=
  match (readIvReg t c l f.w f.a).1 with
  | .iv lo hi => (splitPoint (fmtOf f.w) lo hi).map fun m =>
      ⟨patchPay g (framePay t g c l) f.a.toNat (ivVals f.w (writeIv (fmtOf f.w) (.iv m hi))),
       { w := ivW t l f.w f.a (writeIv (fmtOf f.w) (.iv lo m)) }⟩
  | _ => none
/-- SPLIT (R47, R299). -/
def execSplit (f : FBW) (s : State) : Host.Outcome State Fault Refusal :=
  word (.split f) s (pairRegs f.w f.a ++ frameRegs s) (pushWord f.d (f.i.toNat % 8) (splitOffer f))
/-- FORK (R48, R299). -/
def execFork (f : FB) (s : State) : Host.Outcome State Fault Refusal :=
  word (.fork f) s (frameRegs s) (pushWord f.d (f.i.toNat % 8) fun t g c l => some ⟨framePay t g c l, {}⟩)

/-- Lanes that are vacant (R15). -/
def vacantLanes (t : Team) : List Nat := (List.range t.width).filter fun l => !(occupied t).getLsbD l
/-- The mask of some lanes. -/
def maskOf (ls : List Nat) : Mask := ls.foldl (fun (m : Mask) l => m ||| (1 <<< l)) 0
/-- The team after TAKE has given entries to lanes (R53): `vac` are the lanes vacant after its first step. -/
def takeTeam (t : Team) (g : Group) (d : Reg) (vac : List Nat) (got : List (Nat × HEntry)) : Team :=
  let m := maskOf (got.map (·.1))
  let t := { t with live := t.live ||| m, mask := t.mask ||| m, stack := t.stack.map fun x => x ||| m }
  let w := got.foldl (fun (a : RegW) (x : Nat × HEntry) =>
    (g.frame.zip x.2.pay).foldl (fun (a : RegW) (y : Nat × Word) => a.append (regW t x.1 (BitVec.ofNat 7 y.1) y.2)) a) {}
  let lanes := vac ++ lanesOf t.width t.helper
  writePreds (writeRegs t w) (lanes.map fun l => (d.toNat, l, triBool (got.any fun x => x.1 == l)))
/-- Active live lanes become vacant, and the helpers keep their state (R53). -/
def vacateLive (t : Team) (m : Mask) : Team :=
  let live := t.live &&& ~~~m
  let occ := live ||| t.helper
  { t with live := live, mask := t.mask &&& occ, stack := t.stack.map fun x => x &&& occ }
/-- What a TAKE delivers: to vacant lanes in order, its bin's newest entries, or in replay those it logged, with the bytes
of their entry (R46, R53, R61). -/
inductive TakeGot where
  | got (l : List (Nat × HEntry)) (logged : Option Nat)
  | wait
  | diverge
/-- The values that a TAKE logs (R61). -/
def takeVals (g : Group) (teami b : Nat) (es : List HEntry) : List Nat :=
  [g.idx, teami, b, es.length] ++ es.flatMap fun e => [e.group, e.pushno]
/-- The ways to deliver up to some number of entries in an order. -/
def deliveries : Nat → List HEntry → List (List HEntry)
  | 0, _ => [[]]
  | n + 1, l => [] :: l.flatMap fun e => (deliveries n (l.erase e)).map (e :: ·)
def takeGot (s : State) (g : Group) (teami b : Nat) (vac : List Nat) : TakeGot :=
  let free := (g.inBin b).filter (·.stands)
  match logNext s g.seq 2 (dieOfCore g.core) with
  | .free => .got (vac.zip free.reverse) none
  | .wait => .wait
  | .diverge => .diverge
  | .entry pay n =>
    match (deliveries vac.length free).find? fun es => Config.logPayload (takeVals g teami b es) == pay with
    | some es => .got (vac.zip es) (some n)
    | none => .wait
/-- The entries that a TAKE has delivered: removed where nothing is uncommitted, remembered by a group without the ticket
(R55, R56, R169), and otherwise marked TAKEN for the region. -/
def takeDrawn (s : State) (tk : Nat) (g : Group) (es : List HEntry) : Group :=
  let t := s.team tk
  let slots := es.map (·.slot)
  let rest := g.hamper.filter fun e => !slots.contains e.slot
  if t.regions.isEmpty then { g with hamper := rest, drawn := if unticketed s g.gid then es.reverse ++ g.drawn else g.drawn }
  else
    let rid := (t.regions.reverse.head?.map (·.rid)).getD 0
    { g with hamper := g.hamper.map fun e => if slots.contains e.slot then { e with taken := true, drawer := tk, drawRid := rid } else e }
/-- TAKE (R53, R54, R60, R61, R299). -/
def execTake (f : FB) (s : State) : Host.Outcome State Fault Refusal :=
  word (.take f) s [] fun s tk c =>
    let b := f.i.toNat % 8
    match teamGroup s tk with
    | none => trapAt s tk cILLEGAL
    | some g =>
      if ((s.grid? g.seq).map (·.quiescent)).getD false then
        match irrevWait s tk with
        | some r => r
        | none =>
          let s := closedFor s tk
          let t := s.team tk
          if t.tok != 0 then .park s .tokens ⟨t.tok, 0⟩
          else match orderLog s g.seq 2 (dieOfCore g.core) (takeVals g t.teami b []) with
            | .wait => .park s .take ⟨1, b⟩
            | .stopped s => .gone s
            | .ok s =>
              let t := s.team tk
              let t := writePreds t ((List.range t.width).map fun l => (f.d.toNat, l, .u))
              .gone (exitTeam (s.setTeam tk (vacate t (occupied t))) tk)
      else
        let t := s.team tk
        let p := passesOf t c fun j _ => max 1 ((activeLanes t).filter fun l => l / 32 == j).length
        let t := vacateLive t (t.mask &&& t.live)
        let s := s.setTeam tk t
        let vac := vacantLanes t
        match takeGot s g t.teami b vac with
        | .wait => .park s .take ⟨1, b⟩
        | .diverge => .gone (match s.grid? g.seq with | some q => logStop s q 0xF1 0 | none => s)
        | .got got logged =>
          if got.isEmpty && t.live == 0 then .park s .take ⟨0, b⟩
          else
            let r := match logged with
              | some n => Logged.ok (logPassed s g.seq n)
              | none => orderLog s g.seq 2 (dieOfCore g.core) (takeVals g t.teami b (got.map Prod.snd))
            match r with
            | .wait => .park s .take ⟨1, b⟩
            | .stopped s => .gone s
            | .ok s =>
              let s := s.modGroup g.gid fun g => takeDrawn s tk g (got.map Prod.snd)
              let s := if got.isEmpty then s else bumpChange s g.seq (dieOfCore g.core)
              .done (s.modTeam tk fun t => takeTeam t g f.d vac got) (p.fin - 1) p.fin 4
/-- HSTAT (R301). -/
def execHstat (f : FA) (s : State) : Host.Outcome State Fault Refusal :=
  word (.hstat f) s [] fun s tk c =>
    let b := f.b.toNat % 8
    let v := match teamGroup s tk with
      | none => 0
      | some g =>
        if g.hlog = 0 then 0
        else if f.b.getLsbD 3 then
          match s.grid? g.seq with
          | none => 0
          | some q =>
            let die := dieOfCore g.core
            let flying := match tget? q.forage die with | some x => !x.resting | none => false
            q.cistCount die b % 2 ^ 32 + 2 ^ 32 * q.quiescent.toNat + 2 ^ 33 * flying.toNat
        else ((g.inBin b).filter (·.stands)).length % 2 ^ 14 + 2 ^ 16 * (g.hamper.length % 2 ^ 14)
    once (s.setTeam tk (writeRegs (s.team tk) (regW (s.team tk) 0 f.d (BitVec.ofNat 64 v)))) c 1 1

/-- The queued copy of a launch record (R302). -/
def childRecord (l : List Word) (counter prio : Nat) : List Word :=
  setNth (setNth l 12 (BitVec.ofNat 64 (lrDw l 12 / 2 ^ 57 * 2 ^ 57 + counter))) 13
    (BitVec.ofNat 64 ((lrDw l 13) / 2 ^ 34 * 2 ^ 34 + max (lrPrio l) prio * 2 ^ 32 + lrDw l 13 % 2 ^ 32))
/-- LAUNCH (R302). -/
def execLaunch (f : FL) (s : State) : Host.Outcome State Fault Refusal :=
  word (.launch f) s [f.a] fun s tk c =>
    let t := s.team tk
    let va := readReg t c 0 f.a
    if tokBusy t f.k then .hold s
    else if va.toNat % 64 ≠ 0 then trapAt s tk cILLEGAL
    else match (match t.placed with | some ((_, l) :: _) => Places.ok l | _ => xlateN s (teamCore s tk) (teamAs s tk) va.toNat 192 .read) with
      | .fault ca a => .trap s ca (BitVec.ofNat 64 a) 0 0 3
      | .ok ps =>
        let s := placedWait s tk [(0, ps)]
        match irrevWait s tk with
        | some r => r
        | none =>
          let s := closedFor s tk
          match teamGroup s tk with
          | none => trapAt s tk cILLEGAL
          | some g =>
            if 4 ≤ g.launchq.length then .park s .launchq ⟨0, 0⟩
            else
              let lines := (distinct (ps.map fun x => lineOf x.1)).map fun l => (l, counterCoh s (l * 128) 0)
              match gates s tk lines false with
              | some s => .hold s
              | none =>
                let b := ps.map fun x => readNow s tk x.1
                let s := dropReplies s tk lines
                let l := (List.range 24).map fun i => BitVec.ofNat 64 (leVal ((b.drop (8 * i)).take 8))
                let own := ((s.grid? g.seq).map fun q => lrCounter q.lrec).getD 0
                let s := s.modGroup g.gid fun g => { g with
                  launchq := g.launchq ++ [⟨childRecord l own t.prio, va, tk, t.nextId, none⟩], launchSeq := g.launchSeq + 1 }
                let s := s.modTeam tk fun t =>
                  putInflight { t with oiCount := 0 } (some f.k.toNat) (.launch g.gid g.launchSeq) false [] [] [] none
                once (entryAfter s tk) c 1 1
/-- LSTAT (R305). -/
def execLstat (f : FA) (s : State) : Host.Outcome State Fault Refusal :=
  word (.lstat f) s [] fun s tk c =>
    let v := ((teamGroup s tk).map fun g => (g.lstat.toNat / 8 * 8 + g.launchq.length)).getD 0
    once (s.setTeam tk (writeRegs (s.team tk) (regW (s.team tk) 0 f.d (BitVec.ofNat 64 v)))) c 1 1

end Sys2Proof.Machine
end

