-- ==== Sys2Proof/Machine/Sched.lean ====
section
/-! DEFINITION. The events of a core's scheduler and of regions: selection with co-issue, arrivals, refills, commits,
conflicts, the exclusive token, order inversion, ageing, and CYC waits (R21 to R25, R38, R67, R68, R76, R149 to R157,
R171, R216). -/
namespace Sys2Proof.Machine

/-- The effective priority of a team at a cycle: it rises by a level for each 1,024 cycles it has been ready (R38). -/
def effPrio (t : Team) (c : Nat) : Nat := t.prio - max t.age ((c - t.readyAt) / 1024)
/-- Whether a ready team goes before another at a cycle; of two packed teams of one slot that nothing else tells apart, the
one on the lower lanes does (R21, R38; DESIGN CHOICE, log 76). -/
def goesBefore (s : State) (c a b : Nat) : Bool :=
  let x := s.team a
  let y := s.team b
  decide (effPrio x c < effPrio y c) || (effPrio x c == effPrio y c && (decide (x.readyAt < y.readyAt) ||
    (x.readyAt == y.readyAt && (decide (x.slot < y.slot) || (x.slot == y.slot && decide (x.pos < y.pos))))))
/-- The team a pipe selects at a cycle. -/
def selected (s : State) (c at_ : Nat) : Option Nat :=
  ((readyTeams s c).filter fun k => decide ((s.team k).readyAt + 1 ≤ at_)).foldl (fun (b : Option Nat) k => match b with
    | none => some k
    | some j => if goesBefore s at_ k j then some k else b) none
/-- Ready teams of a team's slot, itself first. -/
def slotMates (s : State) (tk at_ : Nat) : List Nat :=
  let t := s.team tk
  tk :: (readyTeams s (teamCore s tk)).filter fun k =>
    let u := s.team k
    k != tk && u.gid == t.gid && u.slot == t.slot && decide (u.readyAt + 1 ≤ at_)
/-- Two teams stand at the start of the same run, or at the same word of it (R24). -/
def sameRun (a b : Team) : Bool :=
  a.pc == b.pc && a.susp == b.susp && (!a.susp || a.runWords == b.runWords) && a.pend.isNone && b.pend.isNone
/-- The team that issues first among the ready teams of a slot: where they stand at different addresses, the choice is
logged in a deterministic queue, and follows the log in replay (R25, R381). -/
def firstOfSlot (s : State) (seq die : Nat) (g : Group) : List Nat → Option (State × Nat)
  | [] => none
  | k :: r =>
    let t := s.team k
    match orderLog s seq 1 die [g.idx, t.slot, t.teami] with
    | .ok s => some (s, k)
    | .stopped s => some (s, k)
    | .wait => firstOfSlot s seq die g r
/-- PIPE_SELECT: pipe 0 goes first where both would select in one cycle (R21, R24). -/
def execPipeSelect (core pipe : Nat) (s : State) : Host.Outcome State Fault Refusal :=
  event (
    let pr := s.pair (pairOfCore core)
    if 2 ≤ pipe || pr.stopped || pr.switching then s
    else match selectAt s core pipe with
      | none => s
      | some at_ =>
        if !selectFirst s (pairOfCore core) at_ || (pipe = 1 && (match selectAt s core 0 with | some z => decide (z ≤ at_) | none => false)) then s
        else match selected s core at_ with
          | none => s
          | some tk =>
            match teamGroup s tk with
            | none => s
            | some g =>
              let mates := slotMates s tk at_
              let apart := mates.any fun k => k != tk && !sameRun (s.team tk) (s.team k)
              match (if apart then firstOfSlot s g.seq (dieOfCore core) g mates else some (s, tk)) with
              | none => s
              | some (s, tk) =>
                if (s.team tk).st != .ready then s
                else
                  let ks := tk :: (slotMates s tk at_).filter fun k => k != tk && sameRun (s.team tk) (s.team k)
                  let x := s.core core
                  let s := s.setCore core { x with pipes := tset 0 x.pipes pipe (tk + 1) }
                  let s := ks.foldl (fun s k => s.modTeam k fun t =>
                    { t with st := .issuing, pipe := some pipe, clk := at_, runAt := at_, age := 0 }) s
                  ks.foldl (fun s k => if (s.team k).st == .issuing then startRun s k else s) s)

/-- LONG_LATENCY_ARRIVAL: a result whose cycle is exact arrives in it (R76, R182, R183, R349). -/
def execLongLatencyArrival (tk id : Nat) (s : State) : Host.Outcome State Fault Refusal :=
  event (
    let t := s.team tk
    match t.inflight.find? fun f => f.id == id && !f.arrived && f.wait == .arrival with
    | none => s
    | some f =>
      if f.due = 0 || isCtl tk then arrive s tk id (max (teamCyc s tk) t.clk)
      else if clockRuns s (teamCore s tk) && eventFirst s (pairOfCore (teamCore s tk)) f.due then arrive (setCyc s tk f.due) tk id f.due
      else s)
/-- REGISTER_REFILL: the spilled register comes back; a fault of the spill region halts the context (R67, R68). -/
def execRegisterRefill (tk : Nat) (s : State) : Host.Outcome State Fault Refusal :=
  event (
    let t := s.team tk
    match t.refill with
    | none => s
    | some k =>
      let clear := fun (m : Tab PhysReg) (i : Nat) => match tget? m i with
        | some p => tput m i { p with ver := t.nextVer, stamp := t.clk, spilled := false }
        | none => m
      if 2 ^ 20 ≤ k then s.setTeam tk { t with salloc := clear t.salloc (k - 2 ^ 20), nextVer := t.nextVer + 1, refill := none }
      else
        let va := spillVa s t (k / 32) (k % 32 * 32)
        match xlateN s (teamCore s tk) (teamAs s tk) va (8 * min 32 t.width) .read with
        | .fault _ a => haltContext s (teamCtx s tk) (teamGrid s tk) cSPILL (((teamGroup s tk).map (·.idx)).getD 0 % 2 ^ 32) (BitVec.ofNat 64 a)
        | .ok ps =>
          let b := ps.map fun x => readMem s x.1
          let vals := (List.range (min 32 t.width)).map fun i =>
            (vKey (k / 32) (k % 32 * 32 + i), BitVec.ofNat 64 (leVal ((b.drop (8 * i)).take 8)))
          spillPressure (s.setTeam tk { t with
            v := tsetAll 0 t.v vals, alloc := clear t.alloc k, nextVer := t.nextVer + 1, refill := none }) (teamCore s tk))

/-- The region to which a restored team has returned stands again, without a further entry (R31, R394). -/
def reopen (t : Team) : Team := let r := t.regcnt; { enterRegion { t with regcnt := r - 1 } (if t.pend.isSome then t.pendPc else t.pc) false (t.pend.isNone && atStart t) with regcnt := r }
/-- REGION_COMMIT: a closed region, or the open one of a parked team that holds work only its commit releases; the team
then has no region until its next entry (R149; log 11). -/
def execRegionCommit (tk : Nat) (s : State) : Host.Outcome State Fault Refusal :=
  event (match mayCommit s tk with
    | none => s
    | some r =>
      match commitGate s tk r with
      | some s => s
      | none =>
        if groupClash s tk (distinct (r.stores.map fun c => lineOf c.1)) then restartGroup s (s.team tk).gid
        else commitOldest s tk)
/-- CONFLICT: a recall, a broadcast or a full set hits a region that marks lines, or takes the line that a team in careful
mode waits for (R129, R150, R156). -/
def execConflict (tk idx : Nat) (s : State) : Host.Outcome State Fault Refusal :=
  event (
    let t := s.team tk
    if t.st == .swapped || t.park == .fault then s
    else match (t.regions.drop idx).head? with
      | none => s
      | some r => if r.reads.isEmpty && r.stores.isEmpty && !(t.careful && !t.wantLines.isEmpty && idx + 1 == t.regions.length) then s
                  else conflictHit s tk idx)
/-- EXCL_DEFERRAL_EXPIRY: deferred requests of a die are served (R157). -/
def execExclDeferralExpiry (die : Nat) (s : State) : Host.Outcome State Fault Refusal :=
  event (let x := s.die die; s.setDie die { x with deferred := (x.deferred.map fun n => n / 2 * 2 + 1).foldl nins [] })
/-- ORDER_INVERSION: the spin detector traps at the load (R171). -/
def execOrderInversion (tk : Nat) (s : State) : Host.Outcome State Fault Refusal :=
  event (
    let t := s.team tk
    if t.st == .issuing && decide (Config.spinLimit ≤ t.oiCount) then
      let va := t.faultAddr
      trapEntry (s.setTeam tk { t with oiCount := 0, faultAddr := 0 }) tk cORDER va
    else s)
/-- PRIORITY_AGEING (R38). -/
def execPriorityAgeing (tk : Nat) (s : State) : Host.Outcome State Fault Refusal :=
  event (
    let t := s.team tk
    if t.st == .ready && decide (t.age < t.prio) && decide (t.readyAt + 1024 * (t.age + 1) ≤ teamCyc s tk) then
      s.setTeam tk { t with age := t.age + 1 }
    else s)
/-- CYCLE_REACHED: CYC reaches the value a team or controller waits for (R216, R350). -/
def execCycleReached (tk : Nat) (s : State) : Host.Outcome State Fault Refusal :=
  event (
    let t := s.team tk
    let q := pairOfCore (teamCore s tk)
    if t.st == .parked && t.park == .cycle &&
        (isCtl tk || (!(s.pair q).stopped && eventFirst s q (max (s.pair q).cyc t.wait.val))) then
      makeReadyAt (setCyc s tk t.wait.val) tk (if isCtl tk then t.wait.val else max (s.pair q).cyc t.wait.val)
    else s)

end Sys2Proof.Machine
end

