-- ==== Sys2Proof/Machine/Save.lean ====
section
/-! DEFINITION. The save records of teams and groups, written and read: the context switch (R31, R32, R284, R351, R386,
R393 to R396). -/
namespace Sys2Proof.Machine

/-- Bytes at some addresses of a save area: they are outside the memory order, as the spill region is (R67). -/
def savePut (s : State) (g : Group) (va : Nat) (b : List Byte) : State × Option Nat :=
  match xlateN s g.core g.as va b.length .write with
  | .fault _ a => (s, some a)
  | .ok ps => (memPut s ((ps.map (·.1)).zip b), none)
/-- The bytes of a save area, or the address that faults. -/
inductive SaveRd where
  | ok (b : List Byte)
  | fault (va : Nat)
def saveGet (s : State) (g : Group) (core va n : Nat) : SaveRd :=
  match xlateN s core g.as va n .read with
  | .fault _ a => .fault a
  | .ok ps => .ok (ps.map fun x => readMem s x.1)
/-- A field of n bytes at an offset of some bytes. -/
def fieldAt (b : List Byte) (o n : Nat) : Nat := leVal ((b.drop o).take n)

/-- The place of a team's save record, and of its group's (R386). -/
def teamSaveVa (g : Group) (t : Team) : Nat := bits (g.descDw 5) 0 57 + 320 * t.spillLane
def groupSaveVa (g : Group) : Nat := bits (g.descDw 6) 0 57 + 0x400000 * g.saveSlot
/-- Architectural vector registers a team has allocated. -/
def allocRegs (t : Team) : List Nat := distinct (t.alloc.map fun x => x.1 / 32)
/-- The code of a park cause (R30). -/
def parkCode : Park → Nat
  | .none => 0 | .trailer => 1 | .tokens => 2 | .barrier => 3 | .buffer => 4 | .presence => 5 | .launchq => 6
  | .counter => 7 | .cycle => 8 | .take => 9 | .commit => 10 | .excl => 11 | .ticket => 12 | .fault => 13
def parkOf (n : Nat) : Park :=
  nth .none [.none, .trailer, .tokens, .barrier, .buffer, .presence, .launchq, .counter, .cycle, .take, .commit, .excl,
    .ticket, .fault] n
/-- Sixteen-bit entries packed into doublewords. -/
def pack16 (l : List (BitVec 16)) (k : Nat) : Nat := ((List.range 4).map fun j => (nth 0 l (4 * k + j)).toNat * 2 ^ (16 * j)).sum
/-- A doubleword of the header of a team save record (R394). -/
def teamDw (t : Team) (hold pair : Bool) (i : Nat) : Nat :=
  if i = 0 then (tswBits t).toNat
  else if i = 1 then t.pc.toNat % 2 ^ 57
  else if i = 2 then parkCode t.park + 2 ^ 4 * t.susp.toNat + 2 ^ 5 * hold.toNat + 2 ^ 6 * (hold && pair).toNat + 2 ^ 16 * t.arrG.toNat + 2 ^ 32 * t.arrC.toNat
  else if i = 3 then ccBits t.cc
  else if i = 4 then t.plim.toNat
  else if i = 5 then t.cycrem
  else if i = 6 then (t.tag.getD 0) % 2 ^ 16 + 2 ^ 16 * t.tag.isSome.toNat
  else if 8 ≤ i && decide (i < 12) then pack16 t.cbt (i - 8)
  else if i = 12 then t.ssw.toNat
  else if i = 13 then t.spc.toNat
  else if i = 14 then t.scause.toNat
  else if i = 15 then t.saddr.toNat
  else if i = 16 then t.sinfo.toNat
  else if 17 ≤ i && decide (i < 21) then (tget 0 t.hs (i - 17)).toNat
  else if 24 ≤ i && decide (i < 40) then (tget 0 t.s (i - 24)).toNat
  else if 40 ≤ i && decide (i < 48) then (((allocRegs t).filter fun n => n / 64 == i - 40).map fun n => 2 ^ (n % 64)).sum
  else 0
/-- The 256 bytes of one lane (R71, R394). -/
def laneBytes (t : Team) (l : Nat) : List Byte :=
  let ps := ((List.range 32).map fun i => (match tget .f t.p (i * 1024 + l) with | .f => 0 | .t => 1 | .u => 2) * 4 ^ i).sum
  let kind := if t.live.getLsbD l then 1 else if t.helper.getLsbD l then 2 else 0
  let lv := t.mask :: t.stack.reverse
  let mk := (lv.zipIdx.map fun x => if x.1.getLsbD l then 2 ^ x.2 else 0).sum
  leBytes 8 ps ++ leBytes 4 (tget 0 t.fl l).toNat ++ leBytes 4 kind ++ leBytes 16 mk ++
    ((List.range 16).flatMap fun n => leBytes 8 (if t.susp then (tget 0 t.t (vKey n l)).toNat else 0)) ++ List.replicate 96 0
/-- A team save record (R394). -/
def teamImage (t : Team) (hold pair : Bool) : List Byte :=
  dwBytes ((List.range 64).map (teamDw t hold pair)) ++ (List.range t.width).flatMap (laneBytes t)
/-- The team a save record holds, over the team that was saved: what the record leaves out stays, and a barrier that was
released meanwhile is no longer arrived at; a tag is the team's for as long as it is held, and its scalar registers hold
storage as they did (R65, R268, R389, R394). -/
def readTeam (t : Team) (b : List Byte) : Team :=
  let dw := fun i => fieldAt b (8 * i) 8
  let ln := fun l o n => fieldAt b (512 + 256 * l + o) n
  let lanes := List.range t.width
  let depth := bits (dw 0) 0 7
  let pick := fun (f : Nat → Bool) => lanes.foldl (fun (m : Mask) l => if f l then m ||| (1 <<< l) else m) 0
  let susp := bits (dw 2) 4 1 == 1
  { t with
    lvl := bits (dw 0) 7 1 == 1, wb := bits (dw 0) 8 4, careful := bits (dw 0) 15 1 == 1,
    regcnt := BitVec.ofNat 16 (bits (dw 0) 16 16), ordered := bits (dw 0) 33 1 == 1, pev := bits (dw 0) 34 1 == 1,
    prio := bits (dw 0) 36 2, pc := BitVec.ofNat 64 (bits (dw 1) 0 57), park := parkOf (bits (dw 2) 0 4), susp := susp,
    arrG := t.arrG &&& BitVec.ofNat 16 (bits (dw 2) 16 16), arrC := t.arrC &&& BitVec.ofNat 16 (bits (dw 2) 32 16), cc := ccFrom (dw 3),
    plim := BitVec.ofNat 32 (dw 4), cycrem := dw 5,
    cbt := (List.range 16).map fun i => BitVec.ofNat 16 (bits (dw (8 + i / 4)) (16 * (i % 4)) 16),
    ssw := BitVec.ofNat 64 (dw 12), spc := BitVec.ofNat 64 (dw 13), scause := BitVec.ofNat 32 (dw 14),
    saddr := BitVec.ofNat 64 (dw 15), sinfo := BitVec.ofNat 64 (dw 16),
    hs := tsetAll 0 [] ((List.range 4).map fun i => (i, BitVec.ofNat 64 (dw (17 + i)))),
    s := tsetAll 0 [] ((List.range 16).map fun i => (i, BitVec.ofNat 64 (dw (24 + i)))),
    salloc := t.salloc.map fun x => (x.1, ⟨t.nextVer, 0, false⟩),
    alloc := ((List.range 512).filter fun n => bits (dw (40 + n / 64)) (n % 64) 1 == 1).flatMap fun n =>
      (List.range (max 1 (t.width / 32))).map fun j => (n * 32 + j, ⟨t.nextVer, 0, true⟩),
    nextVer := t.nextVer + 1,
    p := tsetAll .f [] ((List.range 32).flatMap fun i => lanes.map fun l =>
      (i * 1024 + l, match bits (ln l 0 8) (2 * i) 2 with | 0 => .f | 1 => .t | _ => .u)),
    fl := tsetAll 0 [] (lanes.map fun l => (l, BitVec.ofNat 5 (ln l 8 4))),
    live := pick fun l => bits (ln l 12 4) 0 2 == 1, helper := pick fun l => bits (ln l 12 4) 0 2 == 2,
    mask := pick fun l => bits (ln l 16 16) 0 1 == 1,
    stack := ((List.range depth).map fun k => pick fun l => bits (ln l 16 16) (k + 1) 1 == 1).reverse,
    t := if susp then tsetAll 0 [] ((List.range 16).flatMap fun n => lanes.map fun l =>
      (vKey n l, BitVec.ofNat 64 (ln l (32 + 8 * n) 8))) else [] }

/-- The header of a hamper entry (R44). -/
def entryDw (e : HEntry) : Nat :=
  e.bin % 8 + 2 ^ 3 * e.spec.toNat + 2 ^ 4 * (e.rtag % 4) + 2 ^ 6 * e.taken.toNat + 2 ^ 7 * (e.nreg % 8) +
    2 ^ 10 * (e.pushno % 2 ^ 22) + 2 ^ 32 * (e.group % 2 ^ 32)
def entryBytes (e : HEntry) : List Byte := dwBytes (entryDw e :: (List.range 7).map fun i => (nth 0 e.pay i).toNat)
def readEntry (b : List Byte) (slot : Nat) : HEntry :=
  let d := fieldAt b 0 8
  { bin := bits d 0 3, spec := bits d 3 1 == 1, rtag := bits d 4 2, taken := bits d 6 1 == 1, nreg := bits d 7 3,
    pushno := bits d 10 22, group := bits d 32 32,
    pay := (List.range (bits d 7 3)).map fun i => BitVec.ofNat 64 (fieldAt b (8 + 8 * i) 8),
    pusher := 0, pushRid := 0, drawer := 0, drawRid := 0, slot := slot }
/-- The states of a buffer handle (R395). -/
def hstateCode : HState → Nat
  | .free => 0 | .filling => 1 | .full => 2 | .draining => 3 | .error => 4
def hstateOf (n : Nat) : HState := nth .free [.free, .filling, .full, .draining, .error] n
/-- The array whose holder is a team of a group, if one is. -/
def heldArray (s : State) (g : Group) : Option MArray :=
  let a := arrOf s g.core
  match a.holder with
  | some k => if k / 16 == g.gid && !a.follower then some a else none
  | none => none
/-- The parts of a group save record, by offset; every other byte is 0 (R395). -/
def groupParts (s : State) (g : Group) : List (Nat × List Byte) :=
  let order := (List.range 8).flatMap fun b => ((g.inBin b).reverse.map fun e => e.slot) ++ [0xFFFF]
  let img := fun (a : MArray) => (List.range imgBytes).map (imgByte a)
  [(0, dwBytes [g.gx, g.gy, g.gz, g.seq % 2 ^ 32, g.nteam % 16 + 2 ^ 4 * g.clpos]),
   (0x40, (List.range 64).flatMap fun h => let x := tget Handle.reset g.handles h
     dwBytes [hstateCode x.st + 2 ^ 32 * x.off, x.cnt + 2 ^ 32 * x.count0]),
   (0x440, (List.range 8).flatMap fun i => match (g.maps.drop i).head? with
     | some m => dwBytes [m.off + 2 ^ 32 * m.len, m.addr]
     | none => dwBytes [0, 0]),
   (0x4C0, (List.range 16).flatMap fun n => dwBytes ((List.range 8).map fun i => (nth 0 (tget [] g.slots n) i).toNat)),
   (0x8C0, g.launchq.flatMap fun q => dwBytes (q.lrec.map (·.toNat))),
   (0xBC0, leBytes 8 g.pushno),
   (0x1000, order.flatMap (leBytes 2)),
   (0x10000, (List.range g.stashSize).map fun o =>
     if o < g.progBytes then tget 0 g.scratch o
     else match g.hamper.find? fun e => e.slot == (o - g.progBytes) / 64 with
       | some e => nth 0 (entryBytes e) ((o - g.progBytes) % 64)
       | none => 0)] ++
  (match heldArray s g with
   | some a => (0x110000, img a) :: (if a.paired then [(0x220000, img (arrOf s (g.core ^^^ 1)))] else [])
   | none => [])
def groupBytes (s : State) (g : Group) : List Byte :=
  let ps := groupParts s g
  (List.range (if g.hold.isSome then 0x110000 else 0x330000)).map fun o =>
    match ps.find? fun p => decide (p.1 ≤ o) && decide (o < p.1 + p.2.length) with
    | some p => nth 0 p.2 (o - p.1)
    | none => 0
/-- A group as its save record gives it (R395). -/
def readGroup (g : Group) (b : List Byte) : Group :=
  let f := fieldAt b
  let order := (List.range 8200).map fun i => f (0x1000 + 2 * i) 2
  let bins := order.foldl (fun (a : List (List Nat)) n =>
    if n = 0xFFFF then a ++ [[]] else match a.reverse with
      | [] => [[n]]
      | l :: r => ((l ++ [n]) :: r).reverse) [[]]
  let slots := (bins.take 8).flatMap List.reverse
  { g with
    handles := (List.range 64).foldl (fun m h =>
      tset Handle.reset m h ⟨hstateOf (f (0x40 + 16 * h) 1 % 8), f (0x44 + 16 * h) 4, f (0x4C + 16 * h) 4, f (0x48 + 16 * h) 4⟩) [],
    maps := (List.range 8).filterMap fun i =>
      let d := f (0x440 + 16 * i) 8
      if bits d 32 21 = 0 then none else some ⟨bits d 0 32, bits d 32 21, f (0x448 + 16 * i) 8⟩,
    slots := (List.range 16).foldl (fun m n =>
      let l := (List.range 8).map fun i => BitVec.ofNat 64 (f (0x4C0 + 64 * n + 8 * i) 8)
      if l.all (· == 0) then m else tput m n l) [],
    pushno := f 0xBC0 8, absent := [],
    scratch := tsetAll 0 [] ((List.range g.progBytes).map fun o => (o, nth 0 b (0x10000 + o))),
    hamper := slots.map fun n => readEntry ((b.drop (0x10000 + g.progBytes + 64 * n)).take 64) n }
/-- The array an image gives. -/
def readArr (a : MArray) (b : List Byte) : MArray :=
  let i := readImage fun o n => fieldAt b o n
  { a with acc := tsetAll 0 [] i.acc, resB := i.resB, acb := i.acb, bcb := i.bcb, mstat := i.mstat % 32, outcnt := bits i.mstat 16 16 }

/-- Whether a save of a team can be made: it does not issue, its tokens are free, and its operations have retired
(R31, R76, R393). -/
def saveReady (s : State) (g : Group) (tk : Nat) : Bool :=
  let t := s.team tk
  t.st == .swapped || t.st == .free || (t.st != .issuing && !g.releasing && !uBusy t && t.tok == 0 && t.inflight.all (fun f => f.arrived) &&
    !((arrOf s g.core).ops.any fun o => o.tk == tk && o.stage != .retired) && !((arrOf s g.core).mdeps.any fun m => m.tk == tk && !m.made))
/-- Scratch records of a group are in flight (R269, R393). -/
def scratchBusy (s : State) (gid : Nat) : Bool :=
  s.chains.any fun c => c.2.gid == some gid && ((c.2.busy && !c.2.arrivals.isEmpty) || ((c.2.busy || c.2.committed) && !c.2.slines.isEmpty) ||
    (!c.2.ended && c.2.committed && (chainRecords s c.2.gid c.2.core c.2.ctx recordFuel c.2.cur).any fun l => bits (nth 0 l 0) 3 1 == 1))
/-- A team is ready where a rollback to its one region has left it (R31). -/
def atMark (s : State) (tk : Nat) : Bool :=
  let t := s.team tk
  t.st == .ready && loneClean s tk && (t.regions.all fun r => r.wm.pc == t.pc && r.wm.regcnt == t.regcnt)
/-- A team stands at the waymark of its oldest region before it is saved, if it has one (R31, R55). -/
def backToWaymark (s : State) (tk : Nat) : State :=
  let t := s.team tk
  if t.st == .swapped || t.st == .free || t.st == .issuing || t.park == .fault || t.regions.isEmpty || uBusy t || atMark s tk then s
  else rollbackTo s tk 0
/-- The waymark of a group without its ticket is its start: what it has staged is in no save record (R169, R394, R395). -/
def backToStart (s : State) (g : Group) (ks : List Nat) : State :=
  if ks.any fun k => (s.team k).st == .issuing then s else restartGroup s g.gid
/-- Saves one team into memory; the address where it faults (R393). -/
def saveTeam (s : State) (g : Group) (hold paired : Bool) (tk : Nat) : State × Option Nat :=
  let t := s.team tk
  if t.st == .swapped || t.st == .free then (s, none)
  else
    let rem := if t.park == .cycle then t.wait.val - teamCyc s tk else 0
    let t := (t.inflight.filter fun f => f.arrived && !f.applied).foldl applyInflight t
    let t := { t with cycrem := rem, park := if t.st == .parked then t.park else .none }
    let t := if t.park == .fault && t.tag.isNone then { t with satisfied := true } else t
    let s := { s with faultWait := s.faultWait.filter fun f => !(f.tk == tk && f.tag.isNone) }
    let s := s.setTeam tk t
    let (s, e) := (allocRegs t).foldl (fun (r : State × Option Nat) n =>
      if r.2.isSome then r
      else savePut r.1 g (spillVa r.1 t n 0) ((List.range t.width).flatMap fun l => leBytes 8 (tget 0 t.v (vKey n l)).toNat)) (s, none)
    match e with
    | some a => (s, some a)
    | none =>
      let (s, e) := savePut s g (teamSaveVa g t) (teamImage t hold paired)
      match e with
      | some a => (s, some a)
      | none =>
        let ready := t.st == .ready
        let s := releaseExcl s tk
        (s.modTeam tk fun t => { t with st := .swapped, satisfied := t.satisfied || ready, regions := [], inflight := [] }, none)
/-- The array images of a team that holds an array and leaves its core (R284). -/
def saveArray (s : State) (g : Group) (tk : Nat) : State × Option Nat :=
  let a := arrOf s g.core
  if a.holder != some tk || a.follower then (s, none)
  else
    let img := fun (a : MArray) => (List.range imgBytes).map (imgByte a)
    let (s, e) := savePut s g (groupSaveVa g + 0x110000) (img a)
    let (s, e) := if e.isSome || !a.paired then (s, e) else savePut s g (groupSaveVa g + 0x220000) (img (arrOf s (g.core ^^^ 1)))
    (if e.isSome then s else (releaseArray s g.core).modGroup g.gid fun x => { x with hold := some a.paired, issued := a.issued }, e)
/-- A fault of the save regions halts the context (R68, R386). -/
def saveFault (s : State) (g : Group) (a : Nat) : State :=
  haltContext s g.ctx (s.grid? g.seq) cSPILL (g.idx % 2 ^ 32) (BitVec.ofNat 64 a)
/-- A team of a group holds the array of the group's core. -/
def holdsNow (s : State) (g : Group) (tk : Nat) : Bool := (arrOf s g.core).holder == some tk && !(arrOf s g.core).follower
/-- The save of a whole group (R31, R393). -/
def saveGroup (s : State) (g : Group) : State :=
  let ks := g.teamKeys
  let s := if restartable s g.gid then backToStart s g ks else ks.foldl backToWaymark s
  let g := (s.group? g.gid).getD g
  if !ks.all (saveReady s g) || scratchBusy s g.gid || g.launchq.any (·.acc.isSome) then s
  else
    let (s, e) := savePut s g (groupSaveVa g) (groupBytes s g)
    let (s, e) := ks.foldl (fun (r : State × Option Nat) k => if r.2.isSome then r else saveTeam r.1 g (holdsNow s g k) (arrOf s g.core).paired k) (s, e)
    match e with
    | some a => saveFault s g a
    | none =>
      let held := heldArray s g
      let s := if held.isSome then releaseArray s g.core else s
      let s := s.modGroup g.gid fun x => match held with
        | some a => { x with st := .swapped, hold := some a.paired, issued := a.issued }
        | none => { x with st := .swapped }
      { s with saveBusy := s.saveBusy.filter fun x => x.1 != g.gid }

/-- The save of a team alone: an eviction; a group none of whose teams stays resident is saved with it (R34, R392, R393). -/
def evictTeam (s : State) (g : Group) (tk : Nat) : State :=
  let s := if restartable s g.gid then backToStart s g [tk] else backToWaymark s tk
  let g := (s.group? g.gid).getD g
  if !saveReady s g tk || scratchBusy s g.gid then s
  else
    let hold := holdsNow s g tk
    let pair := (arrOf s g.core).paired
    let (s, e) := saveArray s g tk
    match e with
    | some a => saveFault s g a
    | none =>
      let (s, e) := saveTeam s g hold pair tk
      match e with
      | some a => saveFault s g a
      | none =>
        let ti := (s.team tk).teami
        let s := { s with saveBusy := s.saveBusy.filter fun x => x != (g.gid, ti) }
        match s.group? g.gid with
        | some g => if g.teamKeys.any fun k => (s.team k).resident then s else saveGroup s g
        | none => s

/-- A restored team is ready where its event came or its cause is satisfied, and parked otherwise; its next run is checked
against the map unless it stands at a waymark or in mid-run (R32, R179, R351). -/
def wakeRestored (s : State) (tk at_ : Nat) (desc : List Word) : State :=
  let t := s.team tk
  let up := t.pev || t.satisfied
  s.setTeam tk { t with
    st := if up then .ready else .parked, park := if up then .none else t.park, pev := false, satisfied := false,
    readyAt := at_, clk := at_, age := 0, parkedAt := at_,
    wait := if t.park == .cycle then { t.wait with val := teamCyc s tk + t.cycrem } else t.wait,
    metered := (nth 0 desc 0).getLsbD 1, hvec := BitVec.ofNat 64 (bits (nth 0 desc 2).toNat 0 57) }
/-- One team is read back from its save record (R393, R394). -/
def restoreTeam (s : State) (g : Group) (slot pos at_ : Nat) (tk : Nat) : State × Option Nat :=
  let t := s.team tk
  match saveGet s g g.core (teamSaveVa g t) (512 + 256 * t.width) with
  | .fault a => (s, some a)
  | .ok b =>
    let hadRegion := bits (fieldAt b 0 8) 12 3 != 0
    let s := s.setTeam tk { readTeam t b with slot := slot, pos := pos }
    let s := wakeRestored s tk at_ g.desc
    (if hadRegion then s.modTeam tk reopen else s, none)

end Sys2Proof.Machine
end

