-- ==== Sys2Proof/Machine/Groups.lean ====
section
/-! DEFINITION. Groups and grids: acceptance of launch records, placement, admission, pre-emption, swap and restore,
draining (R13 to R16, R26 to R37, R131, R138, R302 to R305, R377 to R380, R385, R386, R391 to R396). -/
namespace Sys2Proof.Machine

/-- The RES0 fields of a launch record hold 0; NEXT counts for a device LAUNCH (R303). -/
def lrReserved (l : List Word) (dev : Bool) : Bool :=
  let z := fun i lo n => bits (lrDw l i) lo n == 0
  z 0 1 5 && z 0 57 7 && (!dev || z 0 6 51) && z 1 4 4 && z 1 19 5 && z 2 57 7 && z 3 57 7 && z 6 45 19 && z 7 36 28 &&
    z 8 52 12 && z 9 57 7 && z 10 21 11 && z 10 53 11 && z 11 57 7 && z 12 57 7 && z 13 34 30 && z 14 0 64 && z 15 0 64
def isPow2 (n : Nat) : Bool := n != 0 && n == 2 ^ Nat.log2 n
/-- Groups a record asks for. -/
def lrGroups (l : List Word) : Nat := lrGdimx l * lrGdimy l * lrGdimz l
/-- The status of a launch record at acceptance: the lowest code that applies (R304). A K-split grid's groups are counted
with the GDIMZ it was launched with (R49; DESIGN CHOICE, log 79). -/
def launchStatus (s : State) (l : List Word) (ctx : Nat) (det dev : Bool) : Nat :=
  let w := lrWidth l
  let t := lrNteam l
  let a := lrStash l
  let hn := if lrHlog l = 0 then 0 else 2 ^ lrHlog l
  let cap := 1024 * stashCapKib s
  if lrKind l ≠ 1 || !lrReserved l dev || t = 0 || decide (16 < t) || decide (4096 < t * w) || decide (lrPmax l < lrPlim0 l) ||
     (lrKsplit l && !isPow2 (lrGdimz l)) || descDw s ctx 0 % 2 = 0 then 0x01
  else if (decide (cap < a) && decide (a ≤ 0x100000)) || (lrHlog l = 13 && decide (hlogMax s < 13)) then 0x02
  else if lrKsplit l && !lrKexact l && det then 0x03
  else if lrCl2 l && lrGdimx l % 2 = 1 then 0x04
  else if lrGroups l = 0 then 0x05
  else if lrLanes l ≤ w * (t - 1) || decide (w * t < lrLanes l) then 0x06
  else if lrPbase l % 128 ≠ 0 || decide (2 ^ 20 < lrPmax l) || decide (2 ^ 57 < lrPbase l + lrGroups l * t * lrSeg l) then 0x07
  else if lrHlog l = 1 || lrHlog l = 2 || decide (13 < lrHlog l) || (hn != 0 && decide (a ≤ 64 * hn)) ||
     (det && hn != 0 && decide (2 ^ 32 < lrGroups l)) then 0x08
  else if a < 4096 || a % 4096 ≠ 0 || decide (0x100000 < a) then 0x09
  else 0

/-- Team slots that the teams of a group take (R23, R26). -/
def slotsNeed (w t : Nat) : Nat := if w = 8 then ceilDiv t 4 else if w = 16 then ceilDiv t 2 else t
/-- Teams of a group in one slot. -/
def perSlot (w : Nat) : Nat := if w = 8 then 4 else if w = 16 then 2 else 1
/-- Slots of a core that hold a team, and those that do not. -/
def usedSlots (s : State) (c : Nat) : List Nat :=
  distinct ((teamsWhere s fun k t => t.resident && !isCtl k && teamCore s k == c).map fun k => (s.team k).slot)
def freeSlots (s : State) (c : Nat) : List Nat := (List.range Config.slotsPerCore).filter fun i => !(usedSlots s c).contains i
/-- Stash bytes allocated on a core: a draining group keeps its own (R35, R132). -/
def stashUsed (s : State) (c : Nat) : Nat :=
  ((s.groups.filter fun x => x.2.core == c && (x.2.st == .resident || x.2.st == .draining)).map fun x => x.2.stashSize).sum
/-- What a group asks of a core. -/
structure Need where
  slots : Nat
  stash : Nat
  metered : Bool
  /-- An array that must be free, or two. -/
  arr : Option Bool
/-- The clock mode of a core's pair matches, and its clock is not relocking (R377, R432). -/
def modeOk (s : State) (c : Nat) (m : Bool) : Bool := let p := s.pair (pairOfCore c); p.metered == m && !p.switching
/-- A core is eligible and has room (R377). -/
def coreFits (s : State) (n : Need) (c : Nat) : Bool :=
  modeOk s c n.metered && decide (n.slots ≤ (freeSlots s c).length) && decide (stashUsed s c + n.stash ≤ 1024 * stashCapKib s) &&
  (match n.arr with
   | none => true
   | some p => (arrOf s c).holder.isNone && (!p || (arrOf s (c ^^^ 1)).holder.isNone))
/-- The keys of R377 for a core, and for a pair. -/
def coreKey (s : State) (c : Nat) : List Nat :=
  [(s.core c).hot.toNat, (s.pair (pairOfCore c)).drwin.toNat, (usedSlots s c).length, c]
def pairKey (s : State) (p : Nat) : List Nat :=
  [((s.core (2 * p)).hot || (s.core (2 * p + 1)).hot).toNat, 2 * (s.pair p).drwin.toNat,
   (usedSlots s (2 * p)).length + (usedSlots s (2 * p + 1)).length, p]
def lexLt : List Nat → List Nat → Bool
  | a :: r, b :: q => decide (a < b) || (a == b && lexLt r q)
  | _, _ => false
/-- The candidate with the least key. -/
def leastBy (key : Nat → List Nat) (l : List Nat) : Option Nat :=
  l.foldl (fun (b : Option Nat) i => match b with
    | none => some i
    | some j => if lexLt (key i) (key j) then some i else b) none
/-- The core for a group, or the first core of the pair for a cluster (R377). -/
def place (s : State) (n : Need) (cl2 : Bool) : Option Nat :=
  if cl2 then (leastBy (pairKey s) ((List.range Config.numPairs).filter fun p => coreFits s n (2 * p) && coreFits s n (2 * p + 1))).map (2 * ·)
  else leastBy (coreKey s) ((List.range Config.numCores).filter (coreFits s n))

/-- What a launch asks of a core for each of its groups (R26, R377). -/
def launchNeed (s : State) (l : List Word) (ctx : Nat) : Need :=
  ⟨slotsNeed (lrWidth l) (lrNteam l), lrStash l, bits (descDw s ctx 0) 1 1 == 1, none⟩
/-- The split of a K-split grid: its teams, packed as R23 packs them, fit in the free slots of the eligible cores (R377, R380). -/
def chosenSplit (s : State) (l : List Word) (ctx : Nat) : Nat :=
  let n := launchNeed s l ctx
  let may := fun c => coreFits s n c && (!lrCl2 l || coreFits s n (c ^^^ 1))
  let free := (((List.range Config.numCores).filter may).map fun c => (freeSlots s c).length).sum
  let ok := (List.range (Nat.log2 (lrGdimz l) + 1)).filter fun k => decide (lrGdimx l * lrGdimy l * 2 ^ k * n.slots ≤ free)
  2 ^ (ok.foldl max 0)
/-- The lines of code and run-start map that lie at another E9: they are read at their home before the launch (R131, R410). -/
def codeFar (s : State) (ctx : Nat) (l : List Word) : List (Nat × Nat) :=
  let seg := fun (b n : Nat) => (List.range (ceilDiv (b % 128 + n) 128)).filterMap fun i =>
    match xlate s 0 (ctxAs s ctx) (max b ((b / 128 + i) * 128)) .fetch with
    | .ok p => if isRemote p.loc then some (lineOf p.loc, 2) else none
    | .fault _ => none
  seg (lrCodeBase l) (lrCodeSz l) ++ seg (lrMapBase l) (lrCodeSz l / 32)
/-- The bytes of a grid's code and run-start map as they stand at its launch, and whether all could be copied (R131). -/
def codeImage (s : State) (who ctx : Nat) (l : List Word) : Tab Byte × Bool :=
  let seg := fun (b n : Nat) => (List.range n).filterMap fun i =>
    match xlate s 0 (ctxAs s ctx) (b + i) .fetch with | .ok p => some (b + i, readNow s who p.loc) | .fault _ => none
  let code := seg (lrCodeBase l) (lrCodeSz l)
  let map := seg (lrMapBase l) (lrCodeSz l / 32)
  (tputAll code map, code.length == lrCodeSz l && map.length == lrCodeSz l / 32)
/-- What a launch record is accepted under. -/
structure LaunchIn where
  lrec : List Word
  ctx : Nat
  queue : Nat
  det : Bool
  replay : Bool
  dev : Bool
  prio : Nat
  recAddr : Nat
  /-- The agent that has read code at other E9s. -/
  who : Nat
/-- The grid of an accepted or refused launch record. -/
def newGrid (s : State) (a : LaunchIn) (st : Nat) : Grid :=
  let z := if st = 0 && lrKsplit a.lrec then chosenSplit s a.lrec a.ctx else lrGdimz a.lrec
  let code := if st = 0 then codeImage s a.who a.ctx a.lrec else ([], true)
  { seq := s.sched.jseq, lrec := a.lrec, ctx := a.ctx, queue := a.queue, dev := a.dev, det := a.det, replay := a.replay,
    recAddr := a.recAddr, gdimz := z, ksplit := lrKsplit a.lrec && decide (1 < z), prio := a.prio, st := .accepted,
    cause := 0, info := 0, addr := 0, status := st, icache := code.1, image := if code.2 then none else some (s.mem, s.proxy),
    cistern := [], forage := [], change := [], lastSweep := none, quiescent := false, tick := 0, next := 0,
    left := if st = 0 then lrGdimx a.lrec * lrGdimy a.lrec * z else 0, counters := [] }
/-- Acceptance of a launch record with the next sequence number: the grid is queued, or refused and done, which decrements
its counters (R37, R304, R332, R383). -/
def acceptLaunch (s : State) (a : LaunchIn) : State × Nat :=
  let st := launchStatus s a.lrec a.ctx a.det a.dev
  let seq := s.sched.jseq
  let r : JRec := { seq := seq, queue := a.queue, dev := a.dev, noq := false, kind := 1, st := 0, status := st, cause := 0,
                    info := 0, recAddr := a.recAddr, addr := 0 }
  let s := dropReplies (s.setGrid (newGrid s a st)) a.who (if st = 0 then codeFar s a.ctx a.lrec else [])
  if st = 0 then (journalNew { s with handed := s.handed ++ [seq] } r, 0)
  else (finishGrid { s with journal := s.journal ++ [r], sched := { s.sched with jseq := seq + 1 } } seq, st)
/-- The agent of a group's pending launches. -/
def launchAgent (gid : Nat) : Nat := 2 ^ 61 + 2 ^ 60 + gid
/-- Accepts the record at the head of a group's pending launches; the write of its STATUS and SEQ is yet to be made. -/
def acceptHead (s : State) (g : Group) (q : Grid) (p : PendLaunch) : State :=
  let seq := s.sched.jseq
  let (s, st) := acceptLaunch s ⟨p.lrec, q.ctx, q.queue, q.det, q.replay, true, lrPrio p.lrec, p.addr.toNat, launchAgent g.gid⟩
  s.modGroup g.gid fun g => { g with
    launchq := match g.launchq with | h :: r => { h with acc := some (BitVec.ofNat 8 st :: leBytes 4 seq) } :: r | [] => [],
    lstat := BitVec.ofNat 64 ((if st = 0 then 0 else 8) + 2 ^ 8 * st + 2 ^ 32 * (seq % 2 ^ 32)) }
/-- The accepted record at the head leaves the queue: its token frees (R302, R305). -/
def headDone (s : State) (gid : Nat) (p : PendLaunch) : State :=
  let s := s.modGroup gid fun g => { g with launchq := g.launchq.drop 1 }
  let s := arrive s p.tk p.inflightId (max (teamCyc s p.tk) (s.team p.tk).clk)
  makeReadyAll s (teamsWhere s fun _ t => t.gid == gid && t.park == .launchq)
/-- Writes STATUS and SEQ into the record in memory as one event, once its line can be reached; at another E9 by a message
whose reply comes first (R302, R403, R410, R411). -/
def writeHead (s : State) (g : Group) (p : PendLaunch) (b : List Byte) : State :=
  let who := launchAgent g.gid
  match xlateN s g.core g.as (p.addr.toNat + 11) 5 .write with
  | .fault _ _ => headDone { s with nacks := [] } g.gid p
  | .ok ps =>
    let cells := (ps.map (·.1)).zip b
    let lines := (ps.map fun x => (lineOf x.1, x.2.coh)).eraseDups
    if ps.any fun x => isRemote x.1 && x.2.coh == 2 then
      match wrlGate s who cells with
      | some s => s
      | none => headDone (wrlDone s who cells) g.gid p
    else match gates s who lines true with
      | some s => s
      | none => headDone (writeEvent s none cells ((sPagesOf ps).take 1)) g.gid p
/-- LAUNCH_ACCEPTANCE: the oldest queued record of a group (R302, R304, R305). -/
def execLaunchAcceptance (gid : Nat) (s : State) : Host.Outcome State Fault Refusal :=
  event (match s.group? gid with
  | none => s
  | some g =>
    match g.launchq, s.grid? g.seq with
    | p :: _, some q =>
      match p.acc with
      | some b => writeHead s g p b
      | none =>
        match gates s (launchAgent gid) (codeFar s q.ctx p.lrec) false with
        | some s => s
        | none =>
          let s := acceptHead s g q p
          match s.group? gid with
          | none => s
          | some g => match g.launchq with
            | ⟨_, _, _, _, some b⟩ :: _ => writeHead s g p b
            | _ => s
    | _, _ => s)

/-- Units of admission of a grid: groups, or clusters of two (R27, R28). -/
def gridUnits (q : Grid) : Nat := if lrCl2 q.lrec then gridTotal q / 2 else gridTotal q
/-- The place in the grid of the first group of a unit (R28, R379). -/
def unitCoords (q : Grid) (n : Nat) : Nat × Nat × Nat :=
  let k := if lrCl2 q.lrec then 2 else 1
  let gx := lrGdimx q.lrec / k
  let gy := lrGdimy q.lrec
  if q.ksplit then (n / q.gdimz % gx * k, n / q.gdimz / gx, n % q.gdimz)
  else (n % gx * k, n / gx % gy, n / gx / gy)
def linearIdx (q : Grid) (x y z : Nat) : Nat := x + lrGdimx q.lrec * (y + lrGdimy q.lrec * z)
/-- The first group save slot of a context that is free (R386). -/
def freeSaveSlot (s : State) (ctx : Nat) (limit : Nat) : Option Nat :=
  let used := (s.groups.filter fun x => x.2.ctx == ctx).map fun x => x.2.saveSlot
  (List.range (min limit (used.length + 1))).find? fun i => !used.contains i
/-- Spill lanes for n teams of a width: the lowest free blocks (R386). -/
def freeLanes (s : State) (ctx w n limit : Nat) : Option (List Nat) :=
  let used := (s.groups.filter fun x => x.2.ctx == ctx).flatMap fun x => x.2.lanes.map fun l => (l, x.2.width)
  let most := (used.map fun u => u.2 / w + 2).sum + n
  let ok := (List.range (min (limit / w) most)).filter fun i => !used.any fun u => overlaps (i * w) w u.1 u.2
  if ok.length < n then none else some ((ok.take n).map (· * w))
/-- A group with its save slot and spill lanes, before its teams stand; none where the context has none free, or may not run
(R385, R386). -/
def newGroup (s : State) (q : Grid) (x y z core clpos : Nat) (mate : Option Nat) : Option Group :=
  let desc := (List.range 8).map fun i => BitVec.ofNat 64 (descDw s q.ctx i)
  let w := lrWidth q.lrec
  let n := lrNteam q.lrec
  if descDw s q.ctx 0 % 2 = 0 then none
  else match freeSaveSlot s q.ctx (bits (descDw s q.ctx 7) 0 16), freeLanes s q.ctx w n (bits (descDw s q.ctx 4) 0 32) with
  | some sl, some ls => some {
      gid := s.nextGid, seq := q.seq, idx := linearIdx q x y z, gx := x, gy := y, gz := z, clpos := clpos, mate := mate,
      st := .resident, core := core, nteam := n, width := w, ctx := q.ctx, desc := desc, stashSize := lrStash q.lrec,
      hlog := lrHlog q.lrec, frame := lrFrame q.lrec, scratch := [], absent := [], maps := [], mapLines := [], handles := [],
      present := [], slots := [], hamper := [], drawn := [], pushno := 0, launchq := [], launchSeq := 0, lstat := 0,
      saveSlot := sl, lanes := ls, hold := none, issued := [], ticket := q.det && linearIdx q x y z == q.tick, staged := [], stagedS := [], stagedE := [], rmarks := [] }
  | _, _ => none
/-- The teams of an admitted group, in the lowest free slots (R23, R78). -/
def startTeams (s : State) (q : Grid) (g : Group) : State :=
  let fr := freeSlots s g.core
  let per := perSlot g.width
  let at_ := (s.pair (pairOfCore g.core)).cyc
  (List.range g.nteam).foldl (fun s ti =>
    let old : Team := { Team.none with
      gid := g.gid, teami := ti, metered := (nth 0 g.desc 0).getLsbD 1, ordered := q.det, prio := q.prio,
      hvec := BitVec.ofNat 64 (bits (g.descDw 2) 0 57), slot := nth 0 fr (ti / per), pos := ti % per,
      spillLane := nth 0 g.lanes ti, readyAt := at_, clk := at_ }
    s.setTeam (teamKey g.gid ti) (startTeam old q.lrec)) s
/-- Adds a group to the machine with its teams. -/
def addGroup (s : State) (q : Grid) (g : Group) : State := startTeams ({ s with nextGid := s.nextGid + 1 }.setGroup g) q g
/-- What the next unit of a grid asks. -/
def unitNeed (s : State) (q : Grid) : Need := launchNeed s q.lrec q.ctx
/-- Admission of a grid's next unit on a core, or on the pair that begins there: both groups of a cluster or neither. -/
def admitAt (s : State) (q : Grid) (c : Nat) : Option State :=
  let (x, y, z) := unitCoords q q.next
  let cl2 := lrCl2 q.lrec
  let gid := s.nextGid
  let r := match newGroup s q x y z c 0 (if cl2 then some (gid + 1) else none) with
    | none => none
    | some g =>
      let s := addGroup s q g
      if !cl2 then some s
      else match newGroup s q (x + 1) y z (c + 1) 1 (some gid) with
        | none => none
        | some h => some (addGroup s q h)
  r.map fun s =>
    let s := s.modGrid q.seq fun q => { q with next := q.next + 1, st := .started }
    let s := if q.next + 1 < gridUnits q then s else { s with handed := s.handed.filter fun i => i != q.seq }
    journalStep s q.seq fun r => if r.st = 0 then { r with st := 1 } else r
/-- Grids with pending groups at a priority level, in the order they were handed over (R28). -/
def pendingAt (s : State) (level : Nat) : List Grid :=
  s.handed.filterMap fun i => (s.grid? i).bind fun q => if q.prio == level && q.next < gridUnits q then some q else none
/-- What the distributor does next: admit, or try to make room for each grid that found none. -/
inductive Pick where
  | admitted (s : State)
  | stuck (qs : List Grid)
  | idle
/-- Serves pending grids in order: a group that finds no core holds back all later ones, a cluster only later clusters
(R28). -/
def pickGrid (s : State) : List Grid → List Grid → Pick
  | [], [] => .idle
  | [], qs => .stuck qs
  | q :: r, qs =>
    let cl2 := lrCl2 q.lrec
    if cl2 && !qs.isEmpty then pickGrid s r qs
    else match (place s (unitNeed s q) cl2).bind (admitAt s q) with
      | some s => .admitted s
      | none => if cl2 then pickGrid s r [q] else .stuck (qs ++ [q])

/-- Teams of lower priority on a core in the order of R392. -/
def victims (s : State) (c prio : Nat) : List Nat :=
  let ks := teamsWhere s fun k t => t.resident && !isCtl k && teamCore s k == c && decide (prio < t.prio)
  let key := fun k => let t := s.team k
    [3 - t.prio, if t.st == .parked then 0 else 1, 2 ^ 64 - (if t.st == .parked then t.parkSeq else 0), 64 - t.slot, 4 - t.pos]
  ks.foldl (fun (l : List Nat) k =>
    let before := l.takeWhile fun j => !lexLt (key k) (key j)
    before ++ k :: l.drop before.length) []
/-- Slots and stash of a core once some saves are made. -/
def roomAfter (s : State) (c : Nat) (gone : List (Nat × Nat)) : Nat × Nat :=
  let here := (teamsWhere s fun k t => t.resident && !isCtl k && teamCore s k == c).map s.team
  let out := fun (t : Team) => gone.contains (t.gid, 16) || gone.contains (t.gid, t.teami)
  let stay := distinct ((here.filter fun t => !out t).map (·.slot))
  let st := ((s.groups.filter fun x => x.2.core == c && (x.2.st == .resident || x.2.st == .draining) && !gone.contains (x.1, 16)).map
    fun x => x.2.stashSize).sum
  (Config.slotsPerCore - stay.length, 1024 * stashCapKib s - st)
/-- Saves to be decided on a core until a group fits: teams, or whole groups where it also needs stash; none where no
set of victims suffices (R392). -/
def evictPlan (s : State) (n : Need) (c prio : Nat) : Option (List (Nat × Nat)) :=
  if !modeOk s c n.metered then none
  else
    let fits := fun gone => let r := roomAfter s c gone; decide (n.slots ≤ r.1) && decide (n.stash ≤ r.2)
    let whole := decide ((roomAfter s c s.saveBusy).2 < n.stash)
    let vs := (victims s c prio).map fun k => let t := s.team k; (t.gid, if whole then 16 else t.teami)
    let plan := vs.foldl (fun (l : List (Nat × Nat)) v => if fits (s.saveBusy ++ l) || l.contains v || s.saveBusy.contains v then l else l ++ [v]) []
    if fits (s.saveBusy ++ plan) then some plan else none
/-- No group stands on a pair. -/
def pairVacant (s : State) (p : Nat) : Bool := s.groups.all fun x => x.2.st == .swapped || pairOfCore x.2.core != p
/-- The distributor asks the die steward of an empty pair of the other clock mode for the mode that a group needs, if none is
being asked already; the request names the pair (R377, R418, R432). -/
def askMode (s : State) (metered : Bool) : State :=
  let asked := s.dies.any fun d => d.2.modeReq.any fun r => r.2 == metered
  match (if asked then none else (List.range Config.numPairs).find? fun p =>
      (s.pair p).metered != metered && !(s.pair p).switching && pairVacant s p) with
  | some p =>
    let d := p / 48
    ctlSignal (s.setDie d { s.die d with modeReq := some (p, metered) }) (1 + d)
  | none => s
/-- Requests for pairs that are no longer empty are refused (R432). -/
def settleModes (s : State) : State :=
  { s with dies := s.dies.map fun d => (d.1, { d.2 with modeReq := d.2.modeReq.filter fun r => pairVacant s r.1 }) }
/-- Pre-emption for a group that finds no room on any core: a pair is asked for its clock mode, and one core is chosen by the
keys of R377 and its victims' saves are decided (R377, R392, R432). -/
def makeRoom (s : State) (q : Grid) : State :=
  let n := unitNeed s q
  let cl2 := lrCl2 q.lrec
  let plan := fun c => if cl2 then (evictPlan s n (2 * c) q.prio).bind fun a => (evictPlan s n (2 * c + 1) q.prio).map (a ++ ·)
                       else evictPlan s n c q.prio
  let cands := (List.range (if cl2 then Config.numPairs else Config.numCores)).filter fun c => (plan c).isSome
  if (place s n cl2).isSome then s
  else
    let s := askMode s n.metered
    match leastBy (if cl2 then pairKey s else coreKey s) cands with
    | some c => { s with saveBusy := s.saveBusy ++ (plan c).getD [] }
    | none => s
/-- GROUP_ADMIT (R26 to R28, R377, R392). -/
def execGroupAdmit (s : State) : Host.Outcome State Fault Refusal :=
  event (match pickGrid s ((List.range 4).flatMap (pendingAt s)) [] with
  | .admitted s => s
  | .stuck qs => if s.saveBusy.isEmpty then qs.foldl makeRoom s else s
  | .idle => s)

/-- The groups of a cluster. -/
def clusterOf (s : State) (g : Group) : List Group := g :: (g.mate.bind s.group?).toList
/-- SWAPWAIT_EXPIRY: every team of a group, or of a cluster, has been parked for longer than SWAPWAIT (R31). -/
def execSwapwaitExpiry (gid : Nat) (s : State) : Host.Outcome State Fault Refusal :=
  event (match s.group? gid with
  | none => s
  | some g =>
    let gs := (clusterOf s g).filter fun g => g.st == .resident
    let ts := (gs.flatMap fun g => g.teamKeys).filter fun k => (s.team k).st != .free && (s.team k).st != .swapped
    if g.st != .resident || ts.isEmpty || !(ts.all fun k => (s.team k).st == .parked) || s.saveBusy.contains (gid, 16) then s
    else
      let q := pairOfCore g.core
      let c := max (s.pair q).cyc (ts.foldl (fun m k => max m (s.team k).parkedAt) 0 + s.sched.swapwait.toNat + 1)
      if !clockRuns s g.core || !eventFirst s q c then s
      else
        let s := ts.foldl (fun s k => setCyc s k c) s
        { s with saveBusy := s.saveBusy ++ gs.map fun g => (g.gid, 16) })
/-- GROUP_SAVE: the saves decided for a group are made as far as they can be (R31, R393). -/
def execGroupSave (gid : Nat) (s : State) : Host.Outcome State Fault Refusal :=
  event (match s.group? gid with
  | none => s
  | some g =>
    if g.st != .resident then { s with saveBusy := s.saveBusy.filter fun x => x.1 != gid }
    else if s.saveBusy.contains (gid, 16) then saveGroup s g
    else ((s.saveBusy.filter fun x => x.1 == gid).map (·.2)).foldl (fun s ti =>
      match s.group? gid with
      | some g => if (s.team (teamKey gid ti)).resident then evictTeam s g (teamKey gid ti)
                  else { s with saveBusy := s.saveBusy.filter fun x => x != (gid, ti) }
      | none => s) s)
/-- A saved team may run again (R391). -/
def wantsBack (t : Team) : Bool := t.st == .swapped && (t.satisfied || t.pev)
/-- Restores the teams of a group that are saved, on its core: the free slots go to them in order of team index. -/
def restoreTeams (s : State) (g : Group) (ks : List Nat) : State :=
  let at_ := (s.pair (pairOfCore g.core)).cyc
  let per := perSlot g.width
  let (s, e) := ks.foldl (fun (r : State × Option Nat) k =>
    let ti := k % 16
    let mate := (g.teamKeys.find? fun j => j != k && j % 16 / per == ti / per && (r.1.team j).resident).map fun j => (r.1.team j).slot
    match r.2, mate.orElse fun _ => (freeSlots r.1 g.core).head? with
    | none, some sl => restoreTeam r.1 g sl (ti % per) at_ k
    | _, _ => r) (s, none)
  match e with | some a => saveFault s g a | none => s
/-- The array of a restored team, or both of a pair; a fault of the save region halts the context (R68, R284, R298,
R386). -/
def restoreArray (s : State) (g : Group) (k : Nat) : State :=
  match g.hold with
  | none => s
  | some pair =>
    let get := fun (r : State × Option Nat) (c off : Nat) (fol : Bool) =>
      if r.2.isSome then r
      else match saveGet r.1 g g.core (groupSaveVa g + off) imgBytes with
      | .fault a => (r.1, some a)
      | .ok b => (modArr r.1 c fun a => { readArr a b with
          holder := some k, paired := pair, follower := fol, lastCtx := some g.ctx, nextMid := a.nextMid + 1,
          issued := if fol then [] else g.issued.getLast?.toList.map fun i => { i with mid := a.nextMid, committed := true } }, none)
    let r := get (s, none) g.core 0x110000 false
    let r := if pair then get r (g.core ^^^ 1) 0x220000 true else r
    match r.2 with
    | some a => saveFault r.1 g a
    | none => r.1.modGroup g.gid fun g => { g with hold := none, issued := [] }
/-- The array that a restored holder needs is free, or both of a pair (R284). -/
def arrayFree (s : State) (g : Group) : Bool :=
  (arrOf s g.core).holder.isNone && (!(g.hold.getD false) || (arrOf s (g.core ^^^ 1)).holder.isNone)
/-- The team whose record says that it holds an array (R394). -/
def heldBy (s : State) (g : Group) (ks : List Nat) : Option Nat :=
  ks.find? fun k => match saveGet s g g.core (teamSaveVa g (s.team k) + 16) 8 with
    | .ok b => bits (leVal b) 5 1 == 1
    | .fault _ => false
/-- A swapped group comes back on a core, if its context may run (R34, R385, R391). -/
def restoreGroup (s : State) (g : Group) (core : Nat) : State :=
  let g := { g with core := core, desc := (List.range 8).map fun i => BitVec.ofNat 64 (descDw s g.ctx i) }
  if g.descDw 0 % 2 = 0 then s
  else match saveGet s g core (groupSaveVa g) 0x110000 with
  | .fault a => saveFault s g a
  | .ok b =>
    let g := { readGroup g b with st := .resident }
    let ks := g.teamKeys.filter fun k => (s.team k).st == .swapped
    let holder := heldBy s g ks
    let s := restoreTeams (s.setGroup g) g ks
    match holder with | some k => restoreArray s g k | none => s
/-- GROUP_RESTORE: a swapped group, or a cluster, or the evicted teams of a resident group on its own core (R32, R34,
R391, R392). -/
def execGroupRestore (gid : Nat) (s : State) : Host.Outcome State Fault Refusal :=
  event (match s.group? gid with
  | none => s
  | some g =>
    let saved := fun (g : Group) => g.teamKeys.filter fun k => (s.team k).st == .swapped
    if g.st == .resident then
      let ks := (saved g).filter fun k => wantsBack (s.team k)
      let holder := heldBy s g ks
      let per := perSlot g.width
      let fresh := (distinct (ks.map fun k => k % 16 / per)).filter fun i => !g.teamKeys.any fun j => j % 16 / per == i && (s.team j).resident
      if ks.isEmpty || decide ((freeSlots s g.core).length < fresh.length) || (holder.isSome && !arrayFree s g) then s
      else
        let s := restoreTeams s g ks
        match holder with | some k => restoreArray s g k | none => s
    else if g.st != .swapped then s
    else
      let gs := (clusterOf s g).filter fun g => g.st == .swapped
      if !(gs.any fun g => (saved g).any fun k => wantsBack (s.team k)) then s
      else
        let need := fun (g : Group) => (⟨slotsNeed g.width g.nteam, g.stashSize, bits (descDw s g.ctx 0) 1 1 == 1, g.hold⟩ : Need)
        match g.mate with
        | none => match place s (need g) false with
          | some c => restoreGroup s g c
          | none => s
        | some m =>
          match gs with
          | [_, h] =>
            let (a, b) := if g.clpos = 0 then (g, h) else (h, g)
            match leastBy (pairKey s) ((List.range Config.numPairs).filter fun p => coreFits s (need a) (2 * p) && coreFits s (need b) (2 * p + 1)) with
            | some p => restoreGroup (restoreGroup s a (2 * p)) b (2 * p + 1)
            | none => s
          | _ =>
            match s.group? m with
            | some h => if h.st == .resident && coreFits s (need g) (h.core ^^^ 1) then restoreGroup s g (h.core ^^^ 1)
                        else if h.st == .resident then s
                        else match place s (need g) false with | some c => restoreGroup s g c | none => s
            | none => match place s (need g) false with | some c => restoreGroup s g c | none => s)

/-- Everything a draining group must have finished, the writes and atomics of its teams at other E9s among it (R35). -/
def drained (s : State) (g : Group) : Bool :=
  !(s.chains.any fun c => c.2.gid == some g.gid) && g.launchq.isEmpty &&
  !(s.remoteOut.any fun a => (a.2.what == 3 && g.teamKeys.contains (a.2.key / 4096)) ||
    (a.2.what == 2 && (g.teamKeys.contains (a.2.key / 2 ^ 66) || a.2.key / 2 ^ 66 == ticketAgent g.gid))) &&
  s.cores.all fun c => !(c.2.arr.ops.any fun o => o.gid == g.gid) &&
    !(c.2.arr.mdeps.any fun m => m.gid == g.gid && (!m.made || m.sent))
/-- GROUP_FREE (R34 to R37). -/
def execGroupFree (gid : Nat) (s : State) : Host.Outcome State Fault Refusal :=
  event (match s.group? gid with
  | none => s
  | some g =>
    if g.st != .draining || !drained s g then s
    else
      let mine := s.cores.filter fun c => (c.2.arr.holder.map (· / 16)) == some gid && !c.2.arr.follower
      let s := mine.foldl (fun s c => releaseArray s c.1) s
      let die := dieOfCore g.core
      let s := s.modGrid g.seq fun q => (List.range 8).foldl (fun (q : Grid) b =>
        q.setCist die b (q.cist die b ++ (g.inBin b).map fun e => { e with spec := false, taken := false, drawer := 0, slot := 0 })) q
      let s := { s with groups := tdel s.groups gid }
      let s := s.modGrid g.seq fun q => { q with left := q.left - 1 }
      match s.grid? g.seq with
      | some q => if q.left = 0 then finishGrid s g.seq else s
      | none => s)

end Sys2Proof.Machine
end

