-- ==== Sys2Proof/Machine/Hamper.lean ====
section
/-! DEFINITION. Refill, forage, lost ring paths and the quiescence sweep (R52, R54, R56 to R61). -/
namespace Sys2Proof.Machine

/-- A team of a grid on a die is parked in TAKE on a bin. -/
def waitsTake (s : State) (g : Group) (bin : Nat) : Bool :=
  g.teamKeys.any fun k => let t := s.team k; t.st == .parked && t.park == .take && t.wait.val == bin
/-- Groups of a grid resident on a die. -/
def dieGroups (s : State) (seq die : Nat) : List Group :=
  (gridGroups s seq).filter fun g => g.st == .resident && dieOfCore g.core == die
/-- Entries of a cistern bin that a group may draw: released ones, and its own (R56). -/
def drawable (gid : Nat) (e : HEntry) : Bool := e.drawer == 0 || e.drawer == gid + 1
/-- A refill of a group's bin can move something; `some` gives the state after its spill, if it needs one (R52). -/
def refillRoom (s : State) (g : Group) (bin : Nat) : Option State :=
  match s.grid? g.seq with
  | none => none
  | some q =>
    if !waitsTake s g bin || (g.inBin bin).any (·.stands) || !((q.cist (dieOfCore g.core) bin).any (drawable g.gid)) then none
    else if g.hamper.length < g.hamperN then some s
    else spill s g.gid (some bin)
/-- Slots for n more entries of a hamper. -/
def freeSlotsOf (g : Group) (n : Nat) : List Nat :=
  ((List.range (g.hamper.length + n)).filter fun i => !g.hamper.any fun e => e.slot == i).take n
/-- HAMPER_REFILL: the lowest waiting group of the grid on the die goes first; one whose own refill can move nothing yet holds
back no other (R52, which is silent on that: DESIGN CHOICE, log 90). -/
def execHamperRefill (gid bin : Nat) (s : State) : Host.Outcome State Fault Refusal :=
  event (match s.group? gid with
  | none => s
  | some g =>
    let die := dieOfCore g.core
    if 8 ≤ bin || g.st != .resident || (dieGroups s g.seq die).any (fun h => decide (h.idx < g.idx) && (refillRoom s h bin).isSome) then s
    else match refillRoom s g bin with
      | none => s
      | some s =>
        match s.group? gid, s.grid? g.seq with
        | some g, some q =>
          let all := q.cist die bin
          let ok := all.filter (drawable gid)
          let k := min ok.length (min (g.hamperN / 2) (g.hamperN - g.hamper.length))
          let mv := ok.drop (ok.length - k)
          let stay := all.filter fun e => !mv.contains e
          let s := s.setGrid (q.setCist die bin stay)
          let s := s.setGroup { g with hamper := g.hamper ++ (mv.zip (freeSlotsOf g k)).map fun (x : HEntry × Nat) =>
            { x.1 with spec := false, taken := false, drawer := 0, slot := x.2 } }
          wakeTake (bumpChange s g.seq die) gid
        | _, _ => s)

/-- A path joins two dies (R58). -/
def pathOk (s : State) (a b : Nat) : Bool := !s.ringDown.any fun x => x == (a, b) || x == (b, a)
/-- The conditions of a forage (R57). -/
def forageDue (s : State) (seq die bin : Nat) : Bool :=
  match s.grid? seq with
  | none => false
  | some q =>
    let gs := dieGroups s seq die
    let here := (gridGroups s seq).filter fun g => g.st != .swapped && dieOfCore g.core == die
    gs.any (fun g => waitsTake s g bin) && q.cistCount die bin = 0 && here.all fun g => !(g.inBin bin).any (·.stands)
/-- Donors in the order they are asked, and how many of c entries one gives (R57). -/
def donors (die : Nat) : List Nat := [(die + 1) % 8, (die + 7) % 8, (die + 4) % 8]
def forageShare (c : Nat) : Nat := max (c / 2) (min c 8)
/-- The released entries of a bin that a donor holds. -/
def released (q : Grid) (d bin : Nat) : List HEntry := (q.cist d bin).filter fun e => e.drawer == 0
/-- Asks the donors in turn: the first with entries answers with its oldest, and where all answer empty the forage rests
until its restart (R57, R58). -/
def askDonors (s : State) (q : Grid) (die bin : Nat) : State :=
  match (donors die).find? fun d => pathOk s die d && !(released q d bin).isEmpty with
  | none => s.setGrid { q with forage := tput q.forage die ⟨bin, none, [], true⟩ }
  | some d =>
    let mv := (released q d bin).take (forageShare (released q d bin).length)
    let q := q.setCist d bin ((q.cist d bin).filter fun e => !mv.contains e)
    s.setGrid { q with forage := tput q.forage die ⟨bin, some d, mv, false⟩ }
/-- The values that a forage logs (R61). -/
def forageVals (die donor seq bin n : Nat) : List Nat := [die, donor, seq, bin, n]
/-- In replay, the forage that the log says next, on the die that made it: a donor that a path joins with it gives as many
entries (R58, R61, R382). -/
def forageLogged (s : State) (q : Grid) (die bin : Nat) : State :=
  match logNext s q.seq 3 die with
  | .entry pay _ =>
    let may := ((donors die).filter (pathOk s die)).flatMap fun d => (List.range (released q d bin).length).map fun n => (d, n + 1)
    match may.find? fun x => Config.logPayload (forageVals die x.1 q.seq bin x.2) == pay with
    | none => s
    | some (donor, n) =>
      let mv := (released q donor bin).take n
      let q := q.setCist donor bin ((q.cist donor bin).filter fun e => !mv.contains e)
      bumpChange (s.setGrid { q with forage := tput q.forage die ⟨bin, some donor, mv, false⟩ }) q.seq die
  | _ => s
/-- FORAGE_REQUEST (R57, R61). -/
def execForageRequest (seq die bin : Nat) (s : State) : Host.Outcome State Fault Refusal :=
  event (match s.grid? seq with
  | none => s
  | some q =>
    if 8 ≤ bin || 8 ≤ die || (tget? q.forage die).any (fun f => !f.resting || f.bin == bin) then s
    else if q.det && q.replay then forageLogged s q die bin
    else if !forageDue s seq die bin then s
    else bumpChange (askDonors s q die bin) seq die)
/-- FORAGE_RESTART: a forage that ended empty is made again where its conditions still hold (R57). -/
def execForageRestart (seq die : Nat) (s : State) : Host.Outcome State Fault Refusal :=
  event (match s.grid? seq with
  | none => s
  | some q =>
    match tget? q.forage die with
    | some f =>
      if !f.resting then s
      else
        let q := { q with forage := tdel q.forage die }
        if forageDue s seq die f.bin then bumpChange (askDonors (s.setGrid q) q die f.bin) seq die else s.setGrid q
    | none => s)
/-- FORAGE_TRANSFER_ARRIVAL: the entries stand at the bottom of the requester's bin, whose capacity is not checked, nor is it
where a freed group hands over its hamper (R57, R58, R61; R50 is silent: DESIGN CHOICE, log 80). -/
def execForageTransferArrival (seq die : Nat) (s : State) : Host.Outcome State Fault Refusal :=
  event (match (s.grid? seq).bind fun q => tget? q.forage die with
  | none => s
  | some f =>
    if f.resting then s
    else match orderLog s seq 3 die (forageVals die (f.donor.getD 0) seq f.bin f.moving.length) with
      | .wait => s
      | .stopped s => s
      | .ok s =>
        let s := s.modGrid seq fun q =>
          { q.setCist die f.bin (f.moving ++ q.cist die f.bin) with forage := tdel q.forage die }
        bumpChange (bumpChange s seq die) seq (f.donor.getD die))
/-- The severity and the unit that a record of a lost path carries are not given: free values (R58, R435, log 5); it names
the die of the requester (DESIGN CHOICE, log 81). -/
def forageLost (s : State) (seq die n : Nat) : State :=
  let v := s.freeVal.toNat
  let s := rasEvent s.drawFree (rasMake 0x0C (v % 4) die (v / 4 % 128) none 0)
  stopGrid s seq 0xF2 n 0
/-- RING_PATH_LOST: no path joins two dies any more; entries between them are lost. Where that drops two transfers of one
grid, its record keeps the count of the first (R58, R383; DESIGN CHOICE, log 91). -/
def execRingPathLost (a b : Nat) (s : State) : Host.Outcome State Fault Refusal :=
  event (
    if 8 ≤ a || 8 ≤ b || a = b || !pathOk s a b then s
    else
      let s := { s with ringDown := (a, b) :: s.ringDown }
      let hit := s.grids.flatMap fun x => x.2.forage.filterMap fun f =>
        if !f.2.resting && (match f.2.donor with | some d => (f.1 == a && d == b) || (f.1 == b && d == a) | none => false) then
          some (x.1, f.1, f.2.moving.length) else none
      hit.foldl (fun s x => forageLost (s.modGrid x.1 fun q => { q with forage := tdel q.forage x.2.1 }) x.1 x.2.1 x.2.2) s)

/-- The counts of a grid over all dies: entries, work in flight, active teams, pending groups (R59). -/
def sweepCounts (s : State) (q : Grid) : List Nat :=
  let gs := gridGroups s q.seq
  let ts := gs.flatMap fun g => g.teamKeys.map s.team
  [(gs.map fun g => g.hamper.length).sum + (q.cistern.map fun x => x.2.length).sum + (q.forage.map fun f => f.2.moving.length).sum,
   (q.forage.filter fun f => !f.2.resting).length,
   (ts.filter fun t => (t.resident && t.live != 0) || (t.st == .swapped && t.park != .take)).length,
   gridUnits q - q.next]
/-- One grid of a sweep: quiescent when two consecutive sweeps find nothing, and no change between (R59, R60). -/
def sweepGrid (s : State) (seq : Nat) : State :=
  match s.grid? seq with
  | none => s
  | some q =>
    if q.quiescent || lrHlog q.lrec = 0 then s
    else if (sweepCounts s q).any (· != 0) then s.setGrid { q with lastSweep := none }
    else
      let ch := (List.range 8).map fun d => tget 0 q.change d
      if q.lastSweep == some ch then
        let s := s.setGrid { q with quiescent := true }
        makeReadyAll s (teamsWhere s fun _ t => t.park == .take && (t.st == .parked || t.st == .swapped) &&
          ((s.group? t.gid).map fun g => g.seq == seq).getD false)
      else s.setGrid { q with lastSweep := some ch }
/-- QUIESCENCE_SWEEP (R59, R60). -/
def execQuiescenceSweep (s : State) : Host.Outcome State Fault Refusal :=
  event ((s.grids.map (·.1)).foldl sweepGrid s)

end Sys2Proof.Machine
end

