-- ==== Sys2Proof/Machine/Queues.lean ====
section
/-! DEFINITION. Host queues and the command processor: the queue registers, LAUNCH, COPY, WAITC, SIGC and MARK records,
and the re-read of counters (R276, R303, R370 to R376, R383). -/
namespace Sys2Proof.Machine

/-- BUSY (R371). -/
def Queue.busy (q : Queue) : Bool := !q.running.isEmpty || !q.heads.isEmpty
/-- FREE (R371). -/
def Queue.free (q : Queue) : Nat := 16 - q.heads.length
/-- The record a queue serves or would serve next. -/
def Queue.at_ (q : Queue) : Option Nat := q.cur.orElse fun _ => q.heads.head?
/-- A write to QHEAD (R371, R372). -/
def qheadPut (s : State) (q : Nat) (v : Word) : State :=
  let x := s.queue q
  if x.free = 0 then s.setQueue q { x with ovf := true }
  else s.setQueue q { x with heads := x.heads ++ [bits v.toNat 6 51 * 64] }
/-- A write to QCTL: DET, REPLAY and CTX change only while the queue is idle (R371, R372). -/
def qctlPut (s : State) (q : Nat) (v : Word) : State :=
  let x := s.queue q
  let n := v.toNat
  let x := { x with en := n.testBit 0, prio := bits n 1 2, weight := bits n 4 4 }
  s.setQueue q (if x.busy then x else { x with det := n.testBit 8, replay := n.testBit 9, ctx := bits n 16 6 })
/-- Writing 1 to HALT clears it and the queue resumes; OVF clears by writing 1 to it (R371). -/
def qstatPut (s : State) (q : Nat) (v : Word) : State :=
  let x := s.queue q
  s.setQueue q { x with ovf := x.ovf && !v.getLsbD 6, halt := x.halt && !v.getLsbD 7 }
/-- A write to QLOG, while the queue is idle; a new base begins a new log. -/
def qlogPut (s : State) (q off : Nat) (v : Word) : State :=
  let x := s.queue q
  if x.busy then s
  else if off = 0x18 then s.setQueue q { x with logbase := v.toNat, logptr := 0 }
  else if off = 0x20 then s.setQueue q { x with logsize := v.toNat }
  else s
/-- QHEAD_WRITE: the host's; before HOSTEN it is discarded (R371, R425). -/
def execQheadWrite (q : Nat) (v : BitVec 64) (s : State) : Host.Outcome State Fault Refusal :=
  event (if 64 ≤ q || !s.lock.hosten then s else qheadPut s q v)
/-- QCTL_WRITE (R371, R425). -/
def execQctlWrite (q : Nat) (v : BitVec 64) (s : State) : Host.Outcome State Fault Refusal :=
  event (if 64 ≤ q || !s.lock.hosten then s else qctlPut s q v)
/-- QSTAT_HALT_CLEAR (R371, R425). -/
def execQstatHaltClear (q : Nat) (s : State) : Host.Outcome State Fault Refusal :=
  event (if 64 ≤ q || !s.lock.hosten then s else qstatPut s q 0x80)

/-- The doublewords of a command record, its own 8 or the 24 of a LAUNCH that the device owns; the address that cannot be
read; or what must happen before its lines can be (R157, R403, R410, R411). -/
inductive CmdRead where
  | ok (l : List Word)
  | bad (va : Nat)
  | wait (s : State)
def readCommand (s : State) (q as va : Nat) : CmdRead :=
  let get := fun n => match xlateN s 0 as va (8 * n) .read true with
    | .fault _ a => CmdRead.bad a
    | .ok ps => match gates s (queueKey q) (placeLines ps) false with
      | some s => .wait s
      | none =>
        let b := ps.map fun (x : Nat × Place) => readNow s (queueKey q) x.1
        .ok ((List.range n).map fun i => BitVec.ofNat 64 (leVal ((b.drop (8 * i)).take 8)))
  match get 8 with
  | .ok l => if lrKind l = 1 && lrDw l 0 % 2 = 1 then get 24 else .ok l
  | r => r
/-- A record has been read: the replies that carried it are used up. -/
def commandRead (s : State) (q as va n : Nat) : State :=
  match xlateN s 0 as va (8 * n) .read true with
  | .ok ps => dropReplies s (queueKey q) (placeLines ps)
  | .fault _ _ => s
/-- What stands at a queue's next record. -/
inductive NextRec where
  | none
  | bad (va at_ : Nat)
  | ends (va : Nat)
  | found (va : Nat) (l : List Word)
  | fetch (s : State)
def nextRec (s : State) (q : Nat) : NextRec :=
  let x := s.queue q
  match x.at_ with
  | Option.none => .none
  | some va => match readCommand s q (ctxAs s x.ctx) va with
    | .bad a => .bad va a
    | .wait s => .fetch s
    | .ok l => if lrDw l 0 % 2 = 0 then .ends va else .found va l
/-- The next record of a queue is acceptable: the queue runs, no WAITC is outstanding, and a fence holds (R373, R375). -/
def acceptable (s : State) (q : Nat) : Bool :=
  let x := s.queue q
  s.flr == .none && x.en && !x.halt && !(x.running.any fun a => a.kind == 3) &&
  match nextRec s q with
  | .none => false
  | .found _ l => lrKind l == 1 || bits (lrDw l 1) 8 1 == 0 || x.running.isEmpty
  | _ => true
/-- Records that a queue takes in a round, by its WEIGHT as it stands (R371, R372). -/
def Queue.perRound (x : Queue) : Nat := if x.weight = 0 then 16 else x.weight
/-- Queues of a level in the order of their turns: the one whose turn it is while it has records left, then the others in
rounds, the first of which begins at the lowest queue (R375). -/
def turnOrder (s : State) (level : Nat) : List Nat :=
  let qs := (List.range 64).filter fun i => (s.queue i).prio == level
  match tget? s.rrTurn level with
  | none => qs
  | some t =>
    let x := s.queue t
    (if x.prio == level && decide (x.served < x.perRound) then [t] else []) ++
      qs.filter (fun i => decide (t < i)) ++ qs.filter (fun i => decide (i ≤ t))
/-- The queue that the command processor serves next (R375). -/
def servedQueue (s : State) : Option Nat :=
  ((List.range 4).flatMap (turnOrder s)).find? (acceptable s)
/-- The turn of a served queue is spent by one record. -/
def spendTurn (s : State) (q : Nat) : State :=
  let x := s.queue q
  let n := if tget? s.rrTurn x.prio = some q ∧ x.served < x.perRound then x.served + 1 else 1
  { s.setQueue q { x with served := n } with rrTurn := tput s.rrTurn x.prio q }
/-- A chain ends; its head frees its slot (R372). -/
def endHead (s : State) (q : Nat) : State :=
  let x := s.queue q
  s.setQueue q { x with heads := x.heads.drop 1, cur := none }
/-- The queue goes on after an accepted or refused record (R372). -/
def advanceQueue (s : State) (q : Nat) (l : List Word) : State :=
  let nx := bits (lrDw l 0) 6 51 * 64
  if nx = 0 then endHead s q else s.setQueue q { s.queue q with cur := some nx }
/-- A record that cannot be read or accepted ends its chain (R372). -/
def unreadable (s : State) (q va a : Nat) : State :=
  let s := endHead s q
  let s := s.setQueue q { s.queue q with lastst := 0x0A }
  journalNew s { seq := 0, queue := q, dev := false, noq := false, kind := 0, st := 3, status := 0x0A, cause := 0, info := 0,
                 recAddr := va, addr := BitVec.ofNat 64 a }
/-- The reserved fields of a command record other than LAUNCH (R373, R374). -/
def cmdReserved (l : List Word) : Bool :=
  let z := fun i lo n => bits (lrDw l i) lo n == 0
  let last := z 5 0 64 && z 6 0 64 && z 7 0 64
  z 0 1 5 && z 0 57 7 && z 1 4 4 && z 1 9 15 && last &&
  match lrKind l with
  | 2 => z 2 57 7 && z 3 3 61 && z 4 0 64
  | 3 => z 4 3 61 && decide (bits (lrDw l 4) 0 3 < 6)
  | 4 => z 4 2 62 && decide (bits (lrDw l 4) 0 2 < 3)
  | 5 => z 3 0 64 && z 4 0 64
  | _ => false
/-- The status of a command record other than LAUNCH, and the address where its counter or chain head faults (R374, R383). -/
def cmdStatus (s : State) (as : Nat) (l : List Word) : Nat × Nat :=
  let a := lrDw l 2
  let at_ := fun n k => if a % n ≠ 0 then (0x0A, 0) else match xlateN s 0 as a n k true with
    | .ok _ => (0, 0)
    | .fault _ v => (0x0A, v)
  if !cmdReserved l then (0x01, 0)
  else match lrKind l with
    | 2 => at_ 64 .read
    | 3 => at_ 8 .read
    | 4 => at_ 8 .write
    | _ => (0, 0)
/-- The journal record of a host command at acceptance; a MARK gives its tag, and a refused one the faulting address. -/
def cmdRec (s : State) (q kind va : Nat) (l : List Word) (st status : Nat) (fault : Nat := 0) : JRec :=
  { seq := s.sched.jseq, queue := q, dev := false, noq := false, kind := kind, st := st, status := status, cause := 0,
    info := 0, recAddr := va, addr := if kind = 5 then nth 0 l 2 else BitVec.ofNat 64 fault }
/-- The first place of a counter. -/
def counterPlace (s : State) (as va : Nat) (k : AKind) : List (Nat × Place) :=
  match xlateN s 0 as va 8 k true with | .ok ps => ps | .fault _ _ => []
/-- SIGC on a counter in an address space: one atomic event; a counter of another E9 takes an ATOM (R277, R373, R413). -/
def sigcAt (s : State) (as va mode : Nat) (v : Word) : State :=
  match counterPlace s as va .write with
  | [] => s
  | (loc, pl) :: ps =>
    if isRemote loc then
      let (op, x) := sigcAtom mode v
      remoteAsk (sendBack s [lineOf loc]) 0x0A loc 8 (atomFlags op 5) (atomMsg x.toNat 0)
    else
      let n := sigcNew mode (BitVec.ofNat 64 (readMemN s loc 8)) v
      writeEvent s none ((loc :: ps.map (·.1)).zip (leBytes 8 n.toNat)) (if pl.coh = 1 then [(pl.base, pl.size)] else [])
/-- What must happen before a command reaches its counter, and a LAUNCH the code that it reads at other E9s; none: nothing
(R131, R403, R411). A SIGC to another E9 waits for a free TAG (R409). -/
def cmdGate (s : State) (q as : Nat) (l : List Word) : Option State :=
  let k := lrKind l
  if k = 1 then gates s (queueKey q) (codeFar s (s.queue q).ctx l) false
  else if k = 3 || k = 4 then
    match counterPlace s as (lrDw l 2) (if k = 4 then .write else .read) with
    | (loc, _) :: _ => if isRemote loc && k = 4 then (if 4096 ≤ freshTag s then some s else none)
                       else gates s (queueKey q) [(lineOf loc, counterCoh s loc 0)] (k == 4)
    | [] => none
  else none
/-- Marks a command as running. -/
def runCommand (s : State) (q kind va seq : Nat) : State :=
  let x := s.queue q
  s.setQueue q { x with running := x.running ++ [⟨va, kind, seq⟩] }
/-- What an accepted command does (R373). -/
def startCommand (s : State) (q va : Nat) (l : List Word) : State :=
  let x := s.queue q
  let as := ctxAs s x.ctx
  let seq := s.sched.jseq
  match lrKind l with
  | 1 =>
    let (s, st) := acceptLaunch s ⟨l, x.ctx, q, x.det, x.replay, false, x.prio, va, queueKey q⟩
    if st = 0 then runCommand s q 1 va seq else s.setQueue q { s.queue q with lastst := st }
  | 2 =>
    let s := journalNew s (cmdRec s q 2 va l 1 0)
    let ch := 16 + s.nextCid
    let c := { newChain s (96 * bits (lrDw l 3) 0 3) ch as (lrDw l 2) with committed := true, queueRec := some (q, seq) }
    runCommand (queueChain s c) q 2 va seq
  | 3 =>
    let loc := ((counterPlace s as (lrDw l 2) .read).head?.map (·.1)).getD 0
    let m := BitVec.ofNat 64 (leVal ((counterPlace s as (lrDw l 2) .read).map fun p => readNow s (queueKey q) p.1))
    let s := dropReplies s (queueKey q) [(lineOf loc, counterCoh s loc 0)]
    let cond := bits (lrDw l 4) 0 3
    if condMet cond m (nth 0 l 3) then journalNew s (cmdRec s q 3 va l 2 0)
    else watchCounter (runCommand (journalNew s (cmdRec s q 3 va l 1 0)) q 3 va seq) loc cond (nth 0 l 3) (.queue q seq)
  | 4 => sigcAt (journalNew s (cmdRec s q 4 va l 2 0)) as (lrDw l 2) (bits (lrDw l 4) 0 2) (nth 0 l 3)
  | k => journalNew s (cmdRec s q k va l 2 0)
/-- What must happen before STATUS, SEQ and OWN of a record are written, and their write; the write of a U line of another E9
is a message (R157, R403, R410, R411). -/
def recordGate (s : State) (q : Nat) (ps : List (Nat × Place)) : Option State :=
  match uLinesOf ps with
  | [] => gates s (queueKey q) (placeLines ps) true
  | ls => let s := sendBack s ls
          if stillHeld s ls || decide (4096 ≤ freshTag s) then some s else none
def recordPut (s : State) (ps : List (Nat × Place)) (cells : List (Nat × Byte)) : State :=
  match uLinesOf ps with
  | [] => writeEvent s none cells ((sPagesOf ps).take 1)
  | ls => ls.foldl (fun s l => remoteAsk (sendBack s [l]) 0x02 (l * 128) 6 0 (wrlBody cells l)) s
/-- Acceptance of the record that a queue's turn has reached: the write of STATUS, SEQ and OWN is one event (R372 to
R375). `kind` names the event; a refused kind is met by any. -/
def acceptRecord (s : State) (q kind : Nat) : State :=
  if 64 ≤ q || servedQueue s != some q then s
  else match nextRec s q with
    | .none => s
    | .fetch s => s
    | .ends va => endHead (commandRead s q (ctxAs s (s.queue q).ctx) va 8) q
    | .bad va a => unreadable s q va a
    | .found va l =>
      let k := lrKind l
      let x := s.queue q
      let as := ctxAs s x.ctx
      if 1 ≤ k && decide (k ≤ 5) && k != kind then s
      else match xlateN s 0 as va 16 .write true with
        | .fault _ a => unreadable s q va a
        | .ok ps =>
          let (st, fa) := if k = 1 then (launchStatus s l x.ctx x.det false, 0) else cmdStatus s as l
          match (recordGate s q ps).orElse fun _ => if st = 0 then cmdGate s q as l else none with
          | some s => s
          | none =>
            let seq := s.sched.jseq
            let locs := ps.map (·.1)
            let cells := (nth 0 locs 0, BitVec.ofNat 8 (lrDw l 0 % 256 / 2 * 2)) :: ((locs.drop 11).zip (BitVec.ofNat 8 st :: leBytes 4 seq))
            let s := spendTurn (recordPut (commandRead s q as va l.length) ps cells) q
            let s := advanceQueue s q l
            if st = 0 || k = 1 then startCommand s q va l
            else
              let s := journalNew s (cmdRec s q k va l 3 st fa)
              s.setQueue q { s.queue q with lastst := st }
/-- LAUNCH_COMMAND (R373). -/
def execLaunchCommand (q : Nat) (s : State) : Host.Outcome State Fault Refusal := event (acceptRecord s q 1)
/-- COPY_COMMAND (R373). -/
def execCopyCommand (q : Nat) (s : State) : Host.Outcome State Fault Refusal := event (acceptRecord s q 2)
/-- WAITC_COMMAND (R373). -/
def execWaitcCommand (q : Nat) (s : State) : Host.Outcome State Fault Refusal := event (acceptRecord s q 3)
/-- SIGC_COMMAND (R373). -/
def execSigcCommand (q : Nat) (s : State) : Host.Outcome State Fault Refusal := event (acceptRecord s q 4)
/-- MARK (R373). -/
def execMarkCmd (q : Nat) (s : State) : Host.Outcome State Fault Refusal := event (acceptRecord s q 5)

/-- WAITC records whose condition an event has met retire (R373, R376). -/
def settleQueues (s : State) : State :=
  let met := s.dies.flatMap fun d => d.2.watch.filterMap fun w => match w.who with
    | .queue q seq => if w.met then some (q, seq) else none
    | .team _ => none
  met.foldl (fun s x =>
    let s := dropWatch s (.queue x.1 x.2)
    retireCommand (journalStep s x.2 fun r => { r with st := 2 }) x.1 x.2 0 false) s
/-- COUNTER_REREAD: a waiter without an entry in the table reads its counter again (R276, R376). -/
def execCounterReread (tk : Nat) (s : State) : Host.Outcome State Fault Refusal :=
  event (
    let mine := fun (w : Watch) => !w.inTable && !w.met && match w.who with
      | .team k => k == tk
      | .queue q _ => queueKey q == tk
    match s.dies.findSome? fun d => d.2.watch.find? mine with
    | none => s
    | some w =>
      let line := (lineOf w.loc, counterCoh s w.loc 0)
      match gates s tk [line] false with
      | some s => s
      | none =>
        let m := BitVec.ofNat 64 (leVal ((List.range 8).map fun i => readNow s tk (w.loc + i)))
        let s := dropReplies s tk [line]
        if !condMet w.cond m w.val then s
        else match w.who with
          | .team k => makeReady (dropWatch s w.who) k
          | .queue _ _ => { s with dies := s.dies.map fun d => (d.1, { d.2 with
              watch := d.2.watch.map fun y => if y.who == w.who then { y with met := true } else y }) })

end Sys2Proof.Machine
end

