-- ==== Sys2Proof/Machine/Faults.lean ====
section
/-! DEFINITION. Faults for the driver: tags, the fault ring, the driver's answers; and the invalidation of translations
(R389, R390, R398, R399). -/
namespace Sys2Proof.Machine

/-- Frees a tag; the team that held it. -/
def takeTag (s : State) (tag : Nat) : Option (State × Nat) :=
  (s.tags.find? fun x => x.tag == tag).map fun x =>
    let s : State := { s with tags := s.tags.filter fun y => y.tag != tag }
    (s.modTeam x.tk fun t => if t.st == .free then t else { t with tag := none }, x.tk)
/-- The driver resumes a fault: its cause is satisfied (R390). -/
def tagResume (s : State) (tag : Nat) : State :=
  match takeTag s tag with
  | none => s
  | some (s, tk) => makeReady s tk
/-- The driver fails a fault: the team's grid stops with the fault's cause (R390). -/
def tagFail (s : State) (tag : Nat) : State :=
  match takeTag s tag with
  | none => s
  | some (s, tk) =>
    let t := s.team tk
    match s.group? t.gid with
    | none => s
    | some g => if t.st == .free then s else stopGrid s g.seq t.faultCause (g.idx % 2 ^ 32) t.faultAddr
/-- A write to TRESUME (R399). -/
def tresumePut (s : State) (v : Nat) : State :=
  match bits v 16 2 with
  | 0 => tagResume s (bits v 0 16)
  | 1 => tagFail s (bits v 0 16)
  | _ => s
/-- TRESUME_RESUME: the host's write, discarded before HOSTEN (R390, R425). -/
def execTresumeResume (tag : Nat) (s : State) : Host.Outcome State Fault Refusal := event (if s.lock.hosten then tagResume s tag else s)
/-- TRESUME_FAIL (R390). -/
def execTresumeFail (tag : Nat) (s : State) : Host.Outcome State Fault Refusal := event (if s.lock.hosten then tagFail s tag else s)

/-- A fault record's bytes (R389). -/
def faultBytes (f : FaultRep) : List Byte :=
  dwBytes [f.tag.getD 0 + 2 ^ 16 * (f.ctx % 64) + 2 ^ 22 * (f.die % 8) + 2 ^ 25 * (f.core % 128) + 2 ^ 32 * (f.cause % 256) +
    2 ^ 40 * (f.kind % 4), f.addr.toNat, f.regcnt.toNat + 2 ^ 32 * (f.group % 2 ^ 32), f.seq % 2 ^ 32 + 2 ^ 32 * (f.teami % 16)]
def faultFull (s : State) : Bool := decide (s.sched.frsize / 32 ≤ s.sched.frprod - s.sched.frcons)
/-- The first waiting fault without a tag receives a free one (R389). -/
def giveTag (s : State) : State :=
  match s.faultWait.find? fun f => f.tag.isNone with
  | none => s
  | some f =>
    match freeTag s with
    | none => s
    | some n =>
      { s.modTeam f.tk (fun (t : Team) => { t with tag := some n }) with
        tags := s.tags ++ [⟨n, f.tk⟩]
        faultWait := s.faultWait.map fun x => if x.tk == f.tk && x.tag.isNone then { x with tag := some n } else x }
/-- FAULT_RECORD_WRITE: the oldest waiting record enters the ring, if it has its tag and the ring has room (R389). -/
def execFaultRecordWrite (s : State) : Host.Outcome State Fault Refusal :=
  event (
    let s := giveTag s
    match s.faultWait with
    | [] => s
    | f :: rest =>
      if f.tag.isNone || faultFull s then s
      else
        let s := physWrite s (s.sched.frbase + 32 * (s.sched.frprod % max 1 (s.sched.frsize / 32))) (faultBytes f)
        { s with faultWait := rest, sched := { s.sched with frprod := s.sched.frprod + 1 } })

/-- A context lies in the scope of the invalidation under way (R399). -/
def tlbScope (s : State) (ctx : Nat) : Bool := decide (2 ≤ bits s.sched.tlbinv.toNat 6 2) || ctx == bits s.sched.tlbinv.toNat 0 6
/-- A held translation is of the scope. -/
def tlbHit (s : State) (e : TlbEntry) : Bool :=
  tlbScope s e.ctx && (bits s.sched.tlbinv.toNat 6 2 != 0 || e.vpn == s.sched.tlbPage / 2 ^ e.bits)
/-- Begins an invalidation. -/
def tlbBegin (s : State) (v : Word) : State :=
  { s with sched := { s.sched with tlbinv := v.setWidth 8, tlbBusy := true, tlbPage := s.sched.tlbva, tlbWait := none } }
/-- A write to TLBINV; it is held while another is under way (R399). -/
def tlbinvPut (s : State) (v : Word) : State :=
  if s.sched.tlbBusy then { s with sched := { s.sched with tlbHeld := s.sched.tlbHeld ++ [v] } } else tlbBegin s v
/-- The word that a team stands at, among all that it has issued. -/
def wordNo (t : Team) : Nat := t.run * 32 + t.runWords
/-- What holds accesses translated earlier in the scope: regions with stores, chains and matrix operations with bytes to
publish, groups with staged stores, and irrevocable words that wait with their places, as kind, name and mark. -/
def tlbHolders (s : State) : List (Nat × Nat × Nat) :=
  ((teamsWhere s fun k t => !isCtl k && tlbScope s (teamCtx s k) && t.regions.any fun r => !r.stores.isEmpty).map fun k =>
    (0, k, (s.team k).nextRid)) ++
  ((s.chains.filter fun c => tlbScope s (asCtx c.2.ctx) && !c.2.shadow.isEmpty).map fun c => (1, c.1, 0)) ++
  ((s.groups.filter fun g => tlbScope s g.2.ctx && !g.2.staged.isEmpty).map fun g => (2, g.1, 0)) ++
  ((teamsWhere s fun k t => !isCtl k && tlbScope s (teamCtx s k) && t.placed.isSome).map fun k => (4, k, wordNo (s.team k))) ++
  s.cores.flatMap fun c => (c.2.arr.ops.filter fun o => tlbScope s (asCtx o.ctx) && !o.data.isEmpty).map fun o => (3, c.1, o.mid)
/-- Such a holder still stands. -/
def tlbPending (s : State) (h : Nat × Nat × Nat) : Bool :=
  match h.1 with
  | 0 => (s.team h.2.1).regions.any fun r => decide (r.rid < h.2.2) && !r.stores.isEmpty
  | 1 => (s.chain? h.2.1).any fun c => !c.shadow.isEmpty
  | 2 => (s.group? h.2.1).any fun g => !g.staged.isEmpty
  | 4 => (s.team h.2.1).placed.isSome && wordNo (s.team h.2.1) == h.2.2
  | _ => (s.core h.2.1).arr.ops.any fun o => o.mid == h.2.2 && !o.data.isEmpty
/-- TLBINV_PAGE (R398, R399). -/
def execTlbinvPage (ctx va : Nat) (s : State) : Host.Outcome State Fault Refusal :=
  event (if s.lock.hosten then
    tlbinvPut { s with sched := { s.sched with tlbva := va % 2 ^ 57 / 4096 * 4096 } } (BitVec.ofNat 64 (ctx % 64)) else s)
/-- TLBINV_CONTEXT (R398, R399). -/
def execTlbinvContext (ctx : Nat) (s : State) : Host.Outcome State Fault Refusal :=
  event (if s.lock.hosten then tlbinvPut s (BitVec.ofNat 64 (ctx % 64 + 64)) else s)
/-- TLBINV_ALL (R398, R399). -/
def execTlbinvAll (s : State) : Host.Outcome State Fault Refusal := event (if s.lock.hosten then tlbinvPut s 128 else s)
/-- TLBINV_DONE: first the old translations go; then, when no access translated from them is outstanding, BUSY falls and
a held write takes effect (R398, R399). -/
def execTlbinvDone (s : State) : Host.Outcome State Fault Refusal :=
  event (
    if !s.sched.tlbBusy then s
    else
      let s := match s.sched.tlbWait with
        | some _ => s
        | none => { s with tlb := s.tlb.filter fun e => !tlbHit s e,
                           sched := { s.sched with tlbWait := some (tlbHolders s) } }
      let wait := (s.sched.tlbWait.getD []).filter (tlbPending s)
      if !wait.isEmpty then { s with sched := { s.sched with tlbWait := some wait } }
      else
        let s := { s with sched := { s.sched with tlbBusy := false, tlbWait := none } }
        match s.sched.tlbHeld with
        | [] => s
        | v :: r => tlbBegin { s with sched := { s.sched with tlbHeld := r } } v)

end Sys2Proof.Machine
end

