-- ==== Sys2Proof/Machine/Boot.lean ====
section
/-! DEFINITION. Controllers and the lockkeeper block: fuses, measured boot, measurement registers, power, controller
resets, doorbells, and the lockkeeper's service of SPDM (R415 to R425). -/
namespace Sys2Proof.Machine

/-- A controller's SRAM (R416). -/
def ctlSram (c : Nat) : Nat := sramBase + 0x100000 * c
/-- A doubleword of the image header at the base of a controller's SRAM (R419). -/
def imgDw (s : State) (c i : Nat) : Nat := readMemN s (ctlSram c + 8 * i) 8
/-- A controller runs from the ENTRY of the image in its SRAM (R415, R418, R419). -/
def startCtl (s : State) (c : Nat) : State :=
  let code := ctlSram c + 128
  let d2 := imgDw s c 2
  let d3 := imgDw s c 3
  let hv := bits d3 32 32
  let s := s.setCtl c { s.ctl c with
    st := .running, codebase := code, codesz := bits d2 0 32, mapbase := ctlSram c + bits d2 32 32, cyc := 0 }
  s.setTeam (ctlKey c) { Team.none with
    st := .ready, pc := BitVec.ofNat 64 (code + bits d3 0 32),
    hvec := if hv = 0xFFFFFFFF then 0 else BitVec.ofNat 64 (code + hv) }
/-- A controller is held in reset (R425). -/
def stopCtl (s : State) (c : Nat) : State :=
  let s := s.setCtl c { s.ctl c with st := .reset }
  { s with teams := tdel s.teams (ctlKey c) }
/-- KEYST (R420). -/
def keyst (l : Lock) : Nat := l.owner % 4 + 4 * (l.vendor % 4) + 2 ^ 16 * (l.svnmin % 256)
/-- The 32 bytes of a key slot; an empty slot reads as zeros. -/
def slotKey (k : List Byte) : List Byte := (List.range 32).map fun i => nth 0 k i
def otpOwner (s : State) : State :=
  let l := s.lock
  if l.owner ≠ 0 then s
  else { s with lock := { l with owner := 1, ownerKey := (List.range 32).map fun i => tget 0 l.otpkey i } }
def otpSvn (s : State) (v : Nat) : State :=
  if s.lock.svnmin < v % 256 then { s with lock := { s.lock with svnmin := v % 256 } } else s
/-- A write to OTPCMD (R420). -/
def otpPut (s : State) (v : Nat) : State :=
  match bits v 0 2 with
  | 1 => otpOwner s
  | 2 => { s with lock := { s.lock with owner := 2 } }
  | 3 => { s with lock := { s.lock with vendor := 2 } }
  | _ => otpSvn s (bits v 8 8)
/-- OTP_PROGRAM_OWNER (R420). -/
def execOtpProgramOwner (s : State) : Host.Outcome State Fault Refusal := event (otpPut s 1)
/-- OTP_REVOKE_OWNER (R420). -/
def execOtpRevokeOwner (s : State) : Host.Outcome State Fault Refusal := event (otpPut s 2)
/-- OTP_REVOKE_VENDOR (R420). -/
def execOtpRevokeVendor (s : State) : Host.Outcome State Fault Refusal := event (otpPut s 3)
/-- OTP_SVN_RAISE (R420). -/
def execOtpSvnRaise (v : Nat) (s : State) : Host.Outcome State Fault Refusal := event (otpPut s (2 ^ 8 * (v % 256)))

/-- A measurement register's 64 bytes, and a value of 64 bytes (R422). -/
def mregBytes (m : BitVec 512) : List Byte := leBytes 64 m.toNat
def mregOf (b : List Byte) : BitVec 512 := BitVec.ofNat 512 (leVal b)
/-- extend(M, d) (R422). -/
def mregExt (m : BitVec 512) (d : List Byte) : BitVec 512 := mregOf (sha512 (mregBytes m ++ d))
/-- An extend of register i; MREG0 to MREG4 refuse it after MLOCK. The images that MREG1 and MREG2 measure are those
loaded (R422, R424; log 14). -/
def extendMreg (s : State) (i : Nat) (d : List Byte) : State :=
  let l := s.lock
  if 8 ≤ i || (l.mlock && decide (i < 5)) then s
  else { s with lock := { l with mreg := tput l.mreg i (mregExt (tget 0 l.mreg i) d) },
                loaded := if i = 1 ∨ i = 2 then s.loaded ++ [mregOf d] else s.loaded }
/-- The digest that MEXTD holds. -/
def mextDigest (l : Lock) : List Byte := (List.range 64).map fun i => tget 0 l.mextd i
/-- The oldest request of the mailbox is done (R422). -/
def mailDone (s : State) : State :=
  let q := s.lock.mbQueue.drop 1
  { s with lock := { s.lock with mbQueue := q, mbStatus := if q.isEmpty then 0 else 2 } }
/-- A write of an index to MEXT; it answers the mailbox's oldest request when it carries that index and digest (R422). -/
def mextPut (s : State) (i : Nat) : State :=
  let d := mextDigest s.lock
  let s' := extendMreg s i d
  match s.lock.mbQueue with
  | (j, e) :: _ => if j = i ∧ e = d then mailDone s' else s'
  | [] => s'
/-- MREG_EXTEND: an extend of register i with MEXTD; where the mailbox's oldest request names the register, the
lockkeeper takes the digest from it (R422). -/
def execMregExtend (i : Nat) (s : State) : Host.Outcome State Fault Refusal :=
  event (match s.lock.mbQueue with
  | (j, d) :: _ =>
    if j = i then
      mextPut { s with lock := { s.lock with mextd := tsetAll 0 s.lock.mextd ((List.range 64).map fun k => (k, nth 0 d k)) } } i
    else mextPut s i
  | [] => mextPut s i)
/-- A write to MLOCK, which only module reset undoes (R422). -/
def mlockPut (s : State) (v : Nat) : State := if v % 2 = 1 then { s with lock := { s.lock with mlock := true } } else s
/-- MLOCK_WRITE (R422). -/
def execMlockWrite (v : BitVec 64) (s : State) : Host.Outcome State Fault Refusal := event (mlockPut s v.toNat)
/-- A host write of a doubleword of the mailbox: digest bytes, or the index, which starts a request (R422). -/
def mailPut (s : State) (off : Nat) (v : Word) : State :=
  let l := s.lock
  if off < 0x40 then
    { s with lock := { l with mbDigest := tsetAll 0 l.mbDigest ((List.range 8).zip (leBytes 8 v.toNat) |>.map fun x => (off / 8 * 8 + x.1, x.2)) } }
  else if off / 8 = 8 then
    if v.toNat < 5 || 8 ≤ v.toNat then { s with lock := { l with mbStatus := 1 } }
    else { s with lock := { l with mbStatus := 2, mbQueue := l.mbQueue ++ [(v.toNat, (List.range 64).map fun i => tget 0 l.mbDigest i)] } }
  else s
/-- MEASURE_MAILBOX_WRITE (R422, R425). -/
def execMeasureMailboxWrite (off : Nat) (v : BitVec 64) (s : State) : Host.Outcome State Fault Refusal :=
  event (if s.lock.hosten then mailPut s off v else s)

/-- The header checks of the ROM (R419, R421). -/
def imgOk (dw : Nat → Nat) : Bool :=
  let n := bits (dw 1) 32 32
  bits (dw 0) 0 32 == 0x46574B45 && bits (dw 0) 32 16 == 1 && bits (dw 0) 48 1 == 1 && bits (dw 0) 59 5 == 0 &&
  n % 128 == 0 && decide (128 ≤ n) && decide (n + 64 ≤ 0x80000) && (List.range 11).all fun i => dw (5 + i) == 0
/-- The ROM stops with a code in BOOTST (R421). -/
def romHalt (s : State) (code : Nat) : State :=
  (s.setCtl 0 { s.ctl 0 with st := .halted } ) |> fun s => { s with lock := { s.lock with bootCode := code, bootDetail := 0 } }
/-- The lockkeeper's ROM (R421, R423). -/
def bootRom (s : State) : State :=
  let fl := fun n => (List.range n).map fun i => nth 0 s.flash i
  let hd := fl 128
  let dw := fun i => leVal ((hd.drop (8 * i)).take 8)
  let n := bits (dw 1) 32 32
  let len := min (n + 64) 0x80000
  let img := s.flash.take len ++ List.replicate (len - s.flash.length) 0
  let s := memPut s ((List.range len).map (ctlSram 0 + ·) |>.zip img)
  if !imgOk dw then romHalt s 0x10
  else
    let d := sha512 (img.take n)
    let l := s.lock
    let key := if l.owner = 1 then some l.ownerKey else if l.owner = 0 ∧ l.vendor = 1 then some l.vendorKey else none
    match key with
    | none => romHalt s 0x11
    | some k =>
      if !edVerify (slotKey k) d (img.drop n) then romHalt s 0x12
      else if bits (dw 1) 0 32 < l.svnmin then romHalt s 0x13
      else
        let s := extendMreg s 3 (sha512 (leBytes 8 (keyst l) ++ slotKey l.ownerKey ++ slotKey l.vendorKey))
        let s := extendMreg s 0 d
        let uds := (List.range 32).map Config.uds
        let seed := (sha512 (uds ++ mregBytes (tget 0 s.lock.mreg 3))).take 32
        let s := { s with loaded := s.loaded ++ [mregOf d],
                          lock := { s.lock with seed := seed, idpub := edPublic seed, udslock := true } }
        startCtl s 0
/-- Module reset: fuses, flash, host memory and what waits outside stay; the ROM runs (R421, R422, R425). -/
def moduleReset (s : State) : State :=
  let l := s.lock
  bootRom { State.reset with
    variant := s.variant, silrev := s.silrev, devno := s.devno, flash := s.flash, mem := s.mem.filter fun c => isHost c.1,
    lock := { Lock.reset with owner := l.owner, vendor := l.vendor, svnmin := l.svnmin, ownerKey := l.ownerKey, vendorKey := l.vendorKey },
    hostOut := s.hostOut, aer := s.aer, free := s.free, agenda := s.agenda }
/-- MODULE_RESET (R421). -/
def execModuleReset (s : State) : Host.Outcome State Fault Refusal := event (moduleReset s)

/-- Modified host lines are written back (R404, R405). -/
def writeBackHost (s : State) (p : Nat → Bool) : State := { s with hostDirty := s.hostDirty.filter fun l => !p l }
/-- A write to PWRCTL; a die whose rails go down first writes back its modified host lines (R404, R425). -/
def pwrctlPut (s : State) (v : Nat) : State :=
  let off := fun d => !(v.testBit (2 + d) && v.testBit (10 + d)) && (s.lock.pwrctl.getLsbD (2 + d) && s.lock.pwrctl.getLsbD (10 + d))
  let s := writeBackHost s fun l => off (homeDie (l * 128))
  { s with lock := { s.lock with pwrctl := BitVec.ofNat 34 v } }
/-- PWRCTL_WRITE (R425). -/
def execPwrctlWrite (v : BitVec 64) (s : State) : Host.Outcome State Fault Refusal := event (pwrctlPut s v.toNat)
/-- POWER_GOOD_CHANGE: an enabled rail comes within tolerance or leaves it (R425). -/
def execPowerGoodChange (v : BitVec 64) (s : State) : Host.Outcome State Fault Refusal :=
  event { s with lock := { s.lock with pwrgood := v.setWidth 34 &&& s.lock.pwrctl } }
/-- The core set-point of a die in mV (R425). -/
def vcoreOf (s : State) (d : Nat) : Nat := tget 440 s.lock.vcore d
def vcorePut (s : State) (d v : Nat) : State :=
  { s with lock := { s.lock with vcore := tset 440 s.lock.vcore d (min 500 (max 400 (v % 1024))) } }
/-- VCORE_WRITE (R425). -/
def execVcoreWrite (die : Nat) (v : BitVec 64) (s : State) : Host.Outcome State Fault Refusal :=
  event (if 8 ≤ die then s else vcorePut s die v.toNat)
/-- A write to CTLRST (R418, R425). -/
def ctlrstPut (s : State) (v : Nat) : State :=
  let s := (List.range 11).foldl (fun s c =>
    if c = 0 || (c = 10 && s.variant = .noLink) then s
    else if v.testBit c then (if (s.ctl c).st == .reset then startCtl s c else s)
    else stopCtl s c) s
  let keep := if s.variant = .noLink then 0x3FE else 0x7FE
  { s with lock := { s.lock with ctlrst := BitVec.ofNat 11 v &&& BitVec.ofNat 11 keep } }
/-- CTLRST_WRITE (R425). -/
def execCtlrstWrite (v : BitVec 64) (s : State) : Host.Outcome State Fault Refusal := event (ctlrstPut s v.toNat)
/-- EVDB_WRITE (R418). -/
def execEvdbWrite (ctl : Nat) (s : State) : Host.Outcome State Fault Refusal := event (if 11 ≤ ctl then s else ctlSignal s ctl)
/-- HOSTEN_WRITE (R425). -/
def execHostenWrite (v : BitVec 64) (s : State) : Host.Outcome State Fault Refusal :=
  event { s with lock := { s.lock with hosten := v.getLsbD 0 } }

/-- The bytes of a range or of a BAR in the device interface report: its base and its bytes. -/
def rangeBytes (r : Nat × Nat) : List Byte := leBytes 8 r.1 ++ leBytes 8 r.2
/-- The device interface report: the BARs of R401, the shared ranges, and the firmware measurements (R406; their layout is
log 14). -/
def tdiReport (s : State) : List Byte :=
  [(0, 2 ^ 26), (2, 1536 * 2 ^ 30)].flatMap rangeBytes ++ s.shared.flatMap rangeBytes ++
    (List.range 8).flatMap fun i => mregBytes (tget 0 s.lock.mreg i)
/-- The requester messages that the lockkeeper answers, by the low byte of the code: 0 GET_VERSION, 1 GET_CAPABILITIES,
2 NEGOTIATE_ALGORITHMS, 3 GET_DIGESTS, 4 GET_CERTIFICATE, 5 GET_MEASUREMENTS, 6 CHALLENGE, 7 KEY_EXCHANGE, 8 FINISH,
9 KEY_UPDATE, 10 END_SESSION, 11 IDE_KM, and of TDISP 12 LOCK, 13 START, 14 STOP and 15 the device interface report (R406,
R424; log 14). Those from 8 on need a session, and from 9 on an open one. -/
def spdmServed (s : State) (m : Nat) : Bool :=
  decide (m ≤ 7) || (m == 8 && s.spdm == .opening) || (decide (9 ≤ m) && decide (m ≤ 15) && s.spdm == .open_)
/-- The lockkeeper's answer to a message to it over DOE (R406, R424; log 14); the rest of the code names what the message is
about. -/
def spdmAnswer (s : State) (code : Nat) : List Byte :=
  let i := code / 256
  match code % 256 with
  | 4 => Config.certChain s.flash ++ Config.certOf s.lock.idpub
  | 5 =>
    if 1 ≤ i && decide (i ≤ 8) then mregBytes (tget 0 s.lock.mreg (i - 1))
    else if i = 9 then s.loaded.flatMap mregBytes
    else Config.spdmContent code
  | 15 => tdiReport s
  | _ => Config.spdmContent code
/-- SPDM_REQUEST: KEY_EXCHANGE, FINISH and END_SESSION open and end the session, IDE_KM programs the keys of a stream of a
port, and TDISP locks, starts and stops the TDI (R401, R405, R406, R424). -/
def execSpdmRequest (code : Nat) (s : State) : Host.Outcome State Fault Refusal :=
  event (
    let k := s.ctl 0
    if k.st == .reset || k.st == .halted || !spdmServed s (code % 256) then s
    else
      let out := { s with hostOut := s.hostOut ++ [(true, spdmAnswer s code)] }
      match code % 256 with
      | 7 => { out with spdm := .opening }
      | 8 => { out with spdm := .open_ }
      | 10 => { out with spdm := .none }
      | 11 =>
        let k := (code / 256 % 2, (code / 512).testBit 0, code / 1024 % 4)
        { out with ide := if s.ide.contains k then s.ide else s.ide ++ [k] }
      | 12 => if s.tdi = .unlocked then
          { out.drawFree with tdi := .locked, shared := (Config.sharedRanges s.free).take 16 } else out
      | 13 => if s.tdi = .locked then { out with tdi := .run } else out
      | 14 => if s.tdi = .locked ∨ s.tdi = .run then { out with tdi := .unlocked, shared := [] } else out
      | _ => out)

end Sys2Proof.Machine
end

