-- ==== Sys2Proof/Machine/Swiust.lean ====
section
/-! DEFINITION. The Swiust link: flits, messages, the home's service of peers, borrowed pages, and lost ports (R407 to
R414, R428). -/
namespace Sys2Proof.Machine

/-- CRC-64 of bytes, most significant bit first, from 0 (R407; log 13). -/
def crcBit (c : Word) : Word := if c.getLsbD 63 then (c <<< 1) ^^^ Config.crcPoly else c <<< 1
def crcStep (c : Word) (b : Byte) : Word := (List.range 8).foldl (fun c _ => crcBit c) (c ^^^ (b.setWidth 64 <<< 56))
def crc64 (l : List Byte) : Word := l.foldl crcStep 0
/-- Every other element, from the first. -/
def evens {α : Type} : List α → List α
  | [] => []
  | [a] => [a]
  | a :: _ :: r => a :: evens r
def odds {α : Type} (l : List α) : List α := evens (l.drop 1)
def weave {α : Type} : List α → List α → List α
  | a :: r, b :: q => a :: b :: weave r q
  | r, [] => r
  | [], q => q
/-- The four parity bytes of a codeword's data (R407). -/
def fecBytes (b : List Byte) : List Byte := (List.range 4).map (Config.fecParity b)
/-- A flit with its CRC and its parity (R407). -/
def flitSeal (b : List Byte) : List Byte :=
  let c := b ++ leBytes 8 (crc64 b).toNat
  c ++ weave (fecBytes (evens c)) (fecBytes (odds c))
/-- A word is a codeword: 124 bytes and their parity. -/
def isCodeword (w : List Byte) : Bool := w.length == 128 && w.drop 124 == fecBytes (w.take 124)
/-- The words that differ from one in at most some bytes. -/
def near (n : Nat) (w : List Byte) : List (List Byte) :=
  match n with
  | 0 => [w]
  | n + 1 => w :: (List.range 128).flatMap fun i => (List.range 256).flatMap fun v => near n (w.set i (BitVec.ofNat 8 v))
/-- The data of the codeword that a received word is corrected to: one within 2 bytes of it (R407). -/
def fecCorrect (w : List Byte) : Option (List Byte) := ((near 2 w).find? isCodeword).map (·.take 124)
/-- The corrected bytes 0 to 239 of a flit, if its codewords can be corrected and its CRC holds (R407, R408). -/
def flitOpen (f : List Byte) : Option (List Byte) :=
  match fecCorrect (evens f), fecCorrect (odds f) with
  | some a, some b =>
    let c := weave a b
    if crc64 (c.take 240) = BitVec.ofNat 64 (leVal ((c.drop 240).take 8)) then some (c.take 240) else none
  | _, _ => none
/-- Bytes that follow the header of a message (R409). -/
def msgLen (op : Nat) : Nat := match op with | 2 => 144 | 3 => 128 | 10 => 32 | _ => 0
/-- The bytes of a message (R409). -/
def msgBytes (op : Nat) (m : Msg) : List Byte :=
  leBytes 8 (op % 256 + 2 ^ 8 * (m.src % 4096) + 2 ^ 20 * (m.tag % 4096) + 2 ^ 32 * m.flags.toNat) ++ leBytes 8 (m.off % 2 ^ 45) ++
    (m.body ++ List.replicate (msgLen op - m.body.length) 0).take (msgLen op)
/-- The messages of a payload; its zero bytes hold none. -/
def parseMsgs : Nat → List Byte → List (Nat × Msg)
  | 0, _ => []
  | n + 1, b =>
    if b.length < 16 then []
    else
      let d := leVal (b.take 8)
      let op := d % 256
      if leVal (b.take 4) = 0 then parseMsgs n (b.drop 4)
      else
        let k := 16 + msgLen op
        if b.length < k then []
        else (op, ⟨bits d 8 12, bits d 20 12, BitVec.ofNat 32 (bits d 32 32), bits (leVal ((b.drop 8).take 8)) 0 45,
          (b.take k).drop 16⟩) :: parseMsgs n (b.drop k)
/-- Hands a flit to the link: TYPE, SEQ, and the acknowledgement of what has been received (R407, R408). -/
def sendFlit (x : Port) (type seq : Nat) (payload : List Byte) : Port :=
  let head := seq % 256 + 2 ^ 8 * ((x.rxSeq + 255) % 256) + 2 ^ 16 * x.rxAny.toNat + 2 ^ 17 * type
  { x with tx := x.tx ++ [flitSeal (leBytes 4 head ++ (payload ++ List.replicate (236 - payload.length) 0).take 236)] }
def sendData (x : Port) (e : Nat × OutMsg) : Port := sendFlit x 0 e.1 (msgBytes e.2.op e.2.msg)
/-- Messages that wait leave in data flits while the replay buffer has room (R408). -/
def portDrain : Nat → Port → Port
  | 0, x => x
  | n + 1, x =>
    match x.out with
    | [] => x
    | m :: r =>
      if x.st ≠ 2 || 128 ≤ x.replay.length then x
      else
        let e := (x.txSeq, m)
        portDrain n (sendData { x with out := r, replay := x.replay ++ [e], txSeq := (x.txSeq + 1) % 256 } e)
def settlePorts (s : State) : State :=
  { s with ports := s.ports.map fun p => (p.1, portDrain p.2.out.length p.2) }

/-- The page entry a borrower left is rid of it (R410, R414). -/
def dropBorrower (e : PageEntry) (dev : Nat) : PageEntry :=
  { e with owner := if e.owner = some dev then none else e.owner, sharers := e.sharers.filter fun d => d != dev,
           recalls := e.recalls.filter fun x => x.1 != dev, offs := tdel e.offs dev }
/-- The copy of a page that a lost borrower held (R414). -/
def losePage (s : State) (page dev : Nat) : State :=
  let e := s.pageEntry page
  let s' := s.setPageEntry page (dropBorrower e dev)
  if e.owner = some dev then
    let s := { s' with poison := (List.range 32).foldl (fun l i => nins l (page * 32 + i)) s'.poison }
    let s := hitReaders s none fun l => l / 32 == page
    let s := rasEvent s (rasMake 0x0B 1 (homeDie (page * 4096)) (stackOf (page * 4096)) none (page * 4096))
    journalEvent s none false cPOISON 0 0 0 0
  else s'
/-- The port that carries a location of another E9. -/
def portOfLoc (s : State) (l : Nat) : Option Nat := routePort s (remDev l) (remOff l / 4096)
/-- A counter of a grid or of MDEP at another E9 has answered (R35, R37, R298). -/
def counterAnswer (s : State) (what key : Nat) (cause : Option Nat) : State :=
  if what = 5 then gridCounterReply s key cause else if what = 7 then bindReply s key cause else s
/-- The page that a request names, local or, in a RECALL, the sender's (R409). -/
def reqPage (op : Nat) (m : Msg) : Nat :=
  if op = 8 then (remoteBase + m.src * 2 ^ 45 + m.off) / 4096 else (physLoc m.off).getD m.off / 4096
/-- A Swiust port goes down with a cause (R408, R409, R414, R418, R428). Counters that were to be decremented over it are
taken as answered (DESIGN CHOICE, log 83). -/
def takePortDown (s : State) (p cause : Nat) : State :=
  let x := s.port p
  let mine := x.out ++ x.replay.map (·.2)
  let home := s.pages.flatMap fun e =>
    (distinct (e.2.sharers ++ e.2.owner.toList)).filterMap fun d =>
      let off := tget (e.1 * 4096) e.2.offs d
      if routePort s d (off / 4096) = some p &&
         ((e.2.recalls.any fun r => r.1 == d) || mine.any fun m => m.op == 7 && m.dev == d && m.msg.off / 4096 == off / 4096)
      then some (e.1, d) else none
  let far := s.borrowed.filterMap fun b =>
    if portOfLoc s (b.1 * 4096) = some p &&
       (!b.2.mod || !b.2.granted || (s.peerWait.any fun w => w.2.1 == 8 && reqPage 8 w.2.2 == b.1) || mine.any fun m => (m.op == 9 || m.op == 2) && m.dev == remDev (b.1 * 4096) && m.msg.off / 4096 == remOff (b.1 * 4096) / 4096)
    then some b.1 else none
  let lost := (s.remoteOut.filter fun a => portOfLoc s a.2.loc = some p).map (·.1)
  let asks := (s.remoteOut.filter fun a => lost.contains a.1).map (·.2)
  let routes := (s.route.filter fun r => r.2.getLsbD p).map (·.1)
  let s := s.setPort p { x with
    st := 0, downev := true, dcause := cause, out := [], replay := [], retryCnt := 0,
    heldRoutes := if x.st = 2 then routes else routes.foldl nins x.heldRoutes,
    heldPeer := if x.st = 2 then x.peer else x.heldPeer,
    tr := { x.tr with busy := false, last := 0 } }
  let s := { s with route := (s.route.map fun r => (r.1, r.2 &&& ~~~((1 : BitVec 18) <<< p))).filter fun r => r.2 != 0,
                    remoteOut := s.remoteOut.filter fun a => !lost.contains a.1 }
  let s := home.foldl (fun s h => losePage s h.1 h.2) s
  let s := far.foldl dropPage s
  let s := asks.foldl (fun s (a : Ask) => counterAnswer s a.what a.key none) s
  ctlSignal (if x.st = 2 then rasEvent s (rasMake 0x07 3 0 p none 0) else s) 10
/-- A host port goes down (R418, R435). -/
def hostPortDown (s : State) (p : Nat) : State :=
  if 2 ≤ p || !(s.hport p).up then s
  else ctlSignal (rasEvent (s.setHPort p { s.hport p with up := false }) (rasMake 0x08 3 0 p none 0)) 9
/-- PORT_DOWN of a Swiust port, or of a host port from 18 on (R408, R409, R414, R418). -/
def execPortDown (port cause : Nat) (s : State) : Host.Outcome State Fault Refusal :=
  event (if 18 ≤ port then hostPortDown s (port - 18) else if (s.port port).st = 0 then s else takePortDown s port (cause % 16))

/-- The OPs that exist (R409). -/
def knownOp (op : Nat) : Bool := decide (1 ≤ op) && decide (op ≤ 11)
/-- A cumulative acknowledgement empties the replay buffer up to its flit (R408). -/
def takeAck (x : Port) (seq : Nat) : Port :=
  match x.replay.findIdx? fun e => e.1 == seq with
  | some i =>
    let gone := (x.replay.take (i + 1)).any fun e => e.1 == x.retryOf
    { x with replay := x.replay.drop (i + 1), retryCnt := if gone then 0 else x.retryCnt }
  | none => x
/-- FLIT_RECEIVE (R407, R408): accepted messages are served next, in order. A flit out of its turn is discarded with its
acknowledgement, and a retry counts for a flit that the replay buffer holds. -/
def execFlitReceive (port : Nat) (flit : List Byte) (s : State) : Host.Outcome State Fault Refusal :=
  event (
    let x := s.port port
    if 18 ≤ port || x.st ≠ 2 then s
    else match flitOpen flit with
      | none => s.setPort port (sendFlit x 2 x.rxSeq [])
      | some b =>
        let h := leVal (b.take 4)
        let mine := bits h 17 2 != 0 || bits h 0 8 == x.rxSeq
        let x := if h.testBit 16 && mine then takeAck x (bits h 8 8) else x
        match bits h 17 2 with
        | 0 =>
          if !mine then s.setPort port x
          else
            let ms := parseMsgs 60 (b.drop 4)
            let bad := (ms.filter fun m => !knownOp m.1).length
            let x := sendFlit { x with rxSeq := (x.rxSeq + 1) % 256, rxAny := true, badop := min 255 (x.badop + bad) } 1 0 []
            let s := s.setPort port x
            { s with agenda := ((ms.filter fun m => knownOp m.1).map fun m => Move.msg port m.1 m.2) ++ s.agenda }
        | 2 =>
          let q := bits h 0 8
          let held := x.replay.any fun e => e.1 == q
          let n := if x.retryOf = q then x.retryCnt else 0
          let x := { x with retries := min (2 ^ 32 - 1) (x.retries + 1), retryOf := if held then q else x.retryOf,
                            retryCnt := if held then n + 1 else x.retryCnt }
          if held && decide (8 ≤ n) then takePortDown (s.setPort port x) port 1
          else
            let again := x.replay.drop ((x.replay.findIdx? fun e => e.1 == q).getD x.replay.length)
            s.setPort port (again.foldl sendData x)
        | _ => s.setPort port x)

/-- An answer to a message. -/
def reply (s : State) (op : Nat) (m : Msg) (flags : BitVec 32) (body : List Byte) : State :=
  sendMsg s op m.src ⟨ownDev s, m.tag, flags, m.off, body⟩
/-- Why a peer's access is refused, if it is (R120, R400, R405, R426). -/
def peerRefused (s : State) (m : Msg) (write : Bool) : Bool :=
  match physLoc m.off with
  | some l => !isDram l || s.flr = .zeroing || !(s.stack (stackOf l)).dmen || !accessOk s (stackOf l) ⟨3, m.src⟩ m.off write
  | none => true
/-- What must happen before a peer's access to a line; none: nothing (R157, R403, R410, R411). The owner of the page writes
back at once. -/
def peerGate (s : State) (line dev : Nat) (write : Bool) : Option State :=
  match (if (s.pageEntry (line / 32)).owner = some dev then none else exclGate s noTeam line) with
  | some s => some s
  | none => match hostGate s line write with
    | some s => some s
    | none => pageGate s (line / 32) dev write
/-- A negative answer. -/
def nackMsg (s : State) (m : Msg) (cause : Nat) : State := reply s 0x0B m (BitVec.ofNat 32 cause) []
/-- A page is granted (R410, R411). -/
def grantPage (s : State) (m : Msg) (page : Nat) (mod : Bool) : State :=
  let e := s.pageEntry page
  let e := { e with owner := if mod then some m.src else if e.owner = some m.src then none else e.owner,
                    sharers := if mod then [] else e.sharers.filter (fun d => d != m.src) ++ [m.src],
                    offs := tput e.offs m.src (m.off / 4096 * 4096) }
  reply (s.setPageEntry page e) 0x07 m (if mod then 1 else 0) []
/-- A line of a page that an exclusive holder makes others wait for; none: there is none (R157). -/
def pageHeld (s : State) (page : Nat) : Option State := (List.range 32).findSome? fun i => exclGate s noTeam (page * 32 + i)
/-- RECALL of a page that is held here, or not: done, or it waits until every dirty line could be written back (R412). -/
def recallServe (s : State) (m : Msg) : State × Bool :=
  let page := reqPage 8 m
  let b := tget ⟨false, false, false⟩ s.borrowed page
  let back := fun s => sendMsg s 0x09 m.src ⟨ownDev s, m.tag, 0, m.off, []⟩
  if !b.granted then (back s, true)
  else if m.flags.getLsbD 0 then
    let s := writeBackPage s page
    if pageDirty s page then (s, false)
    else
      let s := hitReaders s none fun l => l / 32 == page
      (back { s with borrowed := tput s.borrowed page { b with mod := false } }, true)
  else
    let s := returnPage s page m.tag
    (s, !pageGranted s page)
/-- RETN at the home; one that answers a RECALL which has been answered already changes nothing (R410, R412, R413, log 89). -/
def retnServe (s : State) (m : Msg) : State :=
  let page := reqPage 9 m
  let e := s.pageEntry page
  let asked := e.recalls.any fun r => r.1 == m.src
  if m.tag ≠ 0 && !(asked && tget 0 e.rtags m.src == m.tag) then s
  else
    let toS := (e.recalls.any fun r => r.1 == m.src && r.2) && e.owner == some m.src
    let n := dropBorrower e m.src
    s.setPageEntry page (if toS then { n with sharers := n.sharers ++ [m.src], offs := e.offs } else n)
/-- Serves one request of a peer, at the home or of a borrowed page: done, or what it waits for (R410, R411, R412, R414, R434). -/
def peerServe (s : State) (op : Nat) (m : Msg) : State × Bool :=
  let loc := (physLoc m.off).getD 0
  let line := lineOf loc
  let page := loc / 4096
  let wr := op == 2 || op == 6 || op == 10
  if op = 8 then (match pageHeld s (reqPage 8 m) with | some s => (s, false) | none => recallServe s m)
  else if op = 9 then (retnServe s m, true)
  else if peerRefused s m wr then (nackMsg s m cACCESS, true)
  else match op with
    | 1 =>
      match peerGate s line m.src false with
      | some s => (s, false)
      | none => if s.poison.contains line then (nackMsg s m cPOISON, true)
                else (reply s 0x03 m 0 ((List.range 128).map fun i => readMem s (line * 128 + i)), true)
    | 2 =>
      match peerGate s line m.src true with
      | some s => (s, false)
      | none =>
        let cells := ((List.range 128).filter fun i => (nth 0 m.body (i / 8)).getLsbD (i % 8)).map fun i =>
          (line * 128 + i, nth 0 m.body (16 + i))
        (reply (writeEvent s none cells (sPagesOn s [line])) 0x04 m 0 [], true)
    | 10 =>
      match peerGate s line m.src true with
      | some s => (s, false)
      | none =>
        if s.poison.contains line then (nackMsg s m cPOISON, true)
        else
          let a := (m.flags.toNat - 0x200) % 16
          let sz := bits m.flags.toNat 10 4
          let n := atomBytes a (sz / 4)
          let old := leVal ((List.range n).map fun i => readMem s (loc + i))
          let r := atomApply a (sz / 4) old (leVal (m.body.take 16)) (leVal (m.body.drop 16))
          let s := writeEvent s none ((List.range n).zip (leBytes n r.new) |>.map fun x => (loc + x.1, x.2)) (sPagesOn s [line])
          (if sz % 4 = 2 then reply s 0x04 m 0 [] else reply s 0x03 m 0 (leBytes 128 old), true)
    | 5 =>
      match pageGate s page m.src false with
      | some s => (s, false)
      | none =>
        let e := s.pageEntry page
        if e.recalls.any fun r => r.1 == m.src then (s, false)
        else if 4 ≤ e.sharers.length && !e.sharers.contains m.src then (recallPage s page (nth 0 e.sharers 0) false, false)
        else (grantPage s m page false, true)
    | _ =>
      match (pageHeld s page).orElse fun _ => pageGate s page m.src true with
      | some s => (s, false)
      | none =>
        if (s.pageEntry page).recalls.any fun r => r.1 == m.src then (s, false)
        else
          let held := (s.hostLines.filter fun h => h.line / 32 == page).map (·.line)
          if !held.isEmpty then (held.foldl (fun s l => (hostGate s l true).getD s) s, false)
          else (grantPage (hitReaders s none fun l => l / 32 == page) m page true, true)
/-- A request is held behind those of its page that wait; what the owner writes back, and a RETN, stand behind requests of
the same device alone, since the others wait for them (R410, R412). -/
def heldBehind (s : State) (held : List (Nat × Nat)) (op : Nat) (m : Msg) : Bool :=
  let page := reqPage op m
  let back := op == 9 || (op == 2 && (s.pageEntry page).owner == some m.src)
  held.any fun h => h.1 == page && (!back || h.2 == m.src)
/-- Waiting requests are tried in order (R410). -/
def peerTry : List (Nat × Nat × Msg) → List (Nat × Nat) → State → State
  | [], _, s => s
  | (p, op, m) :: r, held, s =>
    if heldBehind s held op m then peerTry r ((reqPage op m, m.src) :: held) { s with peerWait := s.peerWait ++ [(p, op, m)] }
    else match peerServe s op m with
      | (s, true) => peerTry r held s
      | (s, false) => peerTry r ((reqPage op m, m.src) :: held) { s with peerWait := s.peerWait ++ [(p, op, m)] }
def settlePeers (s : State) : State :=
  if s.peerWait.isEmpty then s else peerTry s.peerWait [] { s with peerWait := [] }
/-- A request arrives behind those that wait; LX-E9M-S has no port (R4). -/
def peerArrive (s : State) (p op : Nat) (m : Msg) : State :=
  if 18 ≤ p || s.variant = .noLink then s else settlePeers { s with peerWait := s.peerWait ++ [(p, op, m)] }
/-- RDL (R409, R410). -/
def execRdl (port : Nat) (m : Msg) (s : State) : Host.Outcome State Fault Refusal := event (peerArrive s port 1 m)
/-- WRL (R409, R410). -/
def execWrl (port : Nat) (m : Msg) (s : State) : Host.Outcome State Fault Refusal := event (peerArrive s port 2 m)
/-- ATOM (R266, R409, R410). -/
def execAtom (port : Nat) (m : Msg) (s : State) : Host.Outcome State Fault Refusal := event (peerArrive s port 10 m)
/-- PGS (R410, R411). -/
def execPgs (port : Nat) (m : Msg) (s : State) : Host.Outcome State Fault Refusal := event (peerArrive s port 5 m)
/-- PGM (R410, R411, R412). -/
def execPgm (port : Nat) (m : Msg) (s : State) : Host.Outcome State Fault Refusal := event (peerArrive s port 6 m)
/-- RETN at the home, behind what the borrower has written back before it (R410, R412, R413). -/
def execRetn (port : Nat) (m : Msg) (s : State) : Host.Outcome State Fault Refusal := event (peerArrive s port 9 m)
/-- RECALL_RETRANSMIT: each recall of a page that is outstanding is sent again while its port is up (R413). -/
def execRecallRetransmit (page : Nat) (s : State) : Host.Outcome State Fault Refusal :=
  event (
    let e := s.pageEntry page
    e.recalls.foldl (fun s r =>
      let off := tget (page * 4096) e.offs r.1
      if (routePort s r.1 (off / 4096)).any fun p => (s.port p).st == 2
      then sendMsg s 0x08 r.1 ⟨ownDev s, tget 0 e.rtags r.1, if r.2 then 1 else 0, off, []⟩ else s) s)

/-- The request that a reply answers. -/
def askOf (s : State) (m : Msg) : Option (Ask × State) :=
  (tget? s.remoteOut m.tag).map fun a => (a, { s with remoteOut := tdel s.remoteOut m.tag })
/-- DATA (R409): a line of a borrowed page, a line read at its home, or the old value of an atomic. -/
def execDataMsg (port : Nat) (m : Msg) (s : State) : Host.Outcome State Fault Refusal :=
  event (if 18 ≤ port then s else match askOf s m with
  | none => s
  | some (a, s) =>
    let line := lineOf a.loc
    match a.what with
    | 0 =>
      if (tget ⟨false, false, false⟩ s.borrowed (a.loc / 4096)).granted then
        { s with proxy := tputAll s.proxy ((List.range 128).map fun i => (line * 128 + i, nth 0 m.body i)),
                 proxyLines := nins s.proxyLines line }
      else s
    | 1 | 3 => { s with remoteIn := tput s.remoteIn a.key m.body }
    | w => counterAnswer s w a.key none)
/-- ACK (R409). -/
def execAck (port : Nat) (m : Msg) (s : State) : Host.Outcome State Fault Refusal :=
  event (if 18 ≤ port then s else match askOf s m with
  | none => s
  | some (a, s) =>
    match a.what with
    | 2 | 3 => { s with remoteIn := tput s.remoteIn a.key [] }
    | w => counterAnswer s w a.key none)
/-- NACK: the access that asked meets the cause (R400, R409, R414). -/
def execNack (port : Nat) (m : Msg) (s : State) : Host.Outcome State Fault Refusal :=
  event (if 18 ≤ port then s else match askOf s m with
  | none => s
  | some (a, s) =>
    let c := bits m.flags.toNat 0 8
    match a.what with
    | 4 =>
      let page := a.loc / 4096
      { dropPage s page with nacks := (List.range 32).foldl (fun n i => tput n (page * 32 + i) c) s.nacks }
    | 6 | 8 | 9 => s
    | 5 | 7 => counterAnswer s a.what a.key (some c)
    | _ => { s with nacks := tput s.nacks (lineOf a.loc) c })
/-- GRANT (R409, R411). -/
def execGrant (port : Nat) (m : Msg) (s : State) : Host.Outcome State Fault Refusal :=
  event (if 18 ≤ port then s else match askOf s m with
  | none => s
  | some (a, s) =>
    if a.what = 4 then
      { s with borrowed := tput s.borrowed (a.loc / 4096) ⟨m.flags.getLsbD 0, true, false⟩ } else s)
/-- RECALL at the borrower (R157, R412, R413). -/
def execRecallMsg (port : Nat) (m : Msg) (s : State) : Host.Outcome State Fault Refusal := event (peerArrive s port 8 m)
/-- A message that a flit has brought (R409). -/
def recvMsg (p op : Nat) (m : Msg) (s : State) : Host.Outcome State Fault Refusal :=
  match op with
  | 1 => execRdl p m s
  | 2 => execWrl p m s
  | 3 => execDataMsg p m s
  | 4 => execAck p m s
  | 5 => execPgs p m s
  | 6 => execPgm p m s
  | 7 => execGrant p m s
  | 8 => execRecallMsg p m s
  | 9 => execRetn p m s
  | 10 => execAtom p m s
  | 11 => execNack p m s
  | _ => .next s

end Sys2Proof.Machine
end

