-- ==== Sys2Proof/Machine/Train.lean ====
section
/-! DEFINITION. Training of stacks and links, and the enable of a stack's memory controller (R426 to R428). -/
namespace Sys2Proof.Machine

/-- START of a step: it clears DONE and runs in order, or sets SEQERR; a step that runs goes on (R426). -/
def trainStart (t : Train) (step top : Nat) : Train :=
  if t.busy then { t with seqerr := true }
  else
    let t := { t with done := false, step := step }
    if step = 0 || decide (top < step) || decide (t.last + 1 < step) then { t with seqerr := true }
    else { t with busy := true }
/-- The end of the running step; a step that passed before stays passed (R426). -/
def trainEnd (t : Train) (pass : Bool) : Train :=
  { t with busy := false, done := true, pass := pass, last := if pass then max t.last t.step else t.last }
/-- The W1C bits of DTSTAT and LTSTAT. -/
def trainClear (t : Train) (v : Nat) : Train := { t with done := t.done && !v.testBit 1, seqerr := t.seqerr && !v.testBit 3 }
/-- DTSTAT and LTSTAT. -/
def trainStat (t : Train) : Nat := t.busy.toNat + 2 * t.done.toNat + 4 * t.pass.toNat + 8 * t.seqerr.toNat + 16 * (t.last % 16)

/-- The running step of a stack ends, and its die steward is signalled (R418, R426). -/
def stackEnd (s : State) (k : Nat) (fail : BitVec 128) (pass : Bool) : State :=
  let x := s.stack k
  if !x.tr.busy then s
  else ctlSignal (s.setStack k { x with tr := trainEnd x.tr pass, fail := fail }) (1 + k / 2)
/-- A write to DTCTL (R426). -/
def dtctlPut (s : State) (k v : Nat) : State :=
  let s := if v.testBit 5 then stackEnd s k (s.stack k).fail false else s
  let x := s.stack k
  if v.testBit 4 then s.setStack k { x with tr := trainStart x.tr (v % 16) 7 }
  else if x.tr.busy then s else s.setStack k { x with tr := { x.tr with step := v % 16 } }
/-- DRAM_TRAIN_START (R426). -/
def execDramTrainStart (stack step : Nat) (s : State) : Host.Outcome State Fault Refusal :=
  event (if 16 ≤ stack then s else dtctlPut s stack (step % 16 + 16))
/-- DRAM_TRAIN_ABORT (R426). -/
def execDramTrainAbort (stack : Nat) (s : State) : Host.Outcome State Fault Refusal :=
  event (if 16 ≤ stack then s else stackEnd s stack (s.stack stack).fail false)
/-- DRAM_TRAIN_DONE (R426). -/
def execDramTrainDone (stack : Nat) (fail : BitVec 128) (s : State) : Host.Outcome State Fault Refusal :=
  event (if 16 ≤ stack then s else stackEnd s stack fail (fail == 0))
/-- DRAM_TRAIN_TIMEOUT (R426). -/
def execDramTrainTimeout (stack : Nat) (s : State) : Host.Outcome State Fault Refusal :=
  event (if 16 ≤ stack then s else stackEnd s stack (BitVec.allOnes 128) false)
/-- A write to DMEN (R426). -/
def dmenPut (s : State) (k v : Nat) : State :=
  let x := s.stack k
  if v % 2 = 0 then s.setStack k { x with dmen := false }
  else if x.tr.last = 7 then s.setStack k { x with dmen := true }
  else s.setStack k { x with tr := { x.tr with seqerr := true } }
/-- DMEN_WRITE (R426). -/
def execDmenWrite (stack : Nat) (v : BitVec 64) (s : State) : Host.Outcome State Fault Refusal :=
  event (if 16 ≤ stack then s else dmenPut s stack v.toNat)

/-- Link blocks: Swiust ports 0 to 17, then host ports 18 and 19. -/
def linkTr (s : State) (p : Nat) : Train := if p < 18 then (s.port p).tr else (s.hport (p - 18)).tr
def setLinkTr (s : State) (p : Nat) (t : Train) : State :=
  if p < 18 then s.setPort p { s.port p with tr := t } else s.setHPort (p - 18) { s.hport (p - 18) with tr := t }
/-- The link steward of a block (R415). -/
def linkCtl (p : Nat) : Nat := if p < 18 then 10 else 9
/-- The last step of a block (R427). -/
def linkTop (p : Nat) : Nat := if p < 18 then 5 else 4
/-- START on a link: a Swiust port that is up goes down under firmware, and trains (R409, R427). -/
def linkStart (s : State) (p step : Nat) : State :=
  let t := trainStart (linkTr s p) step (linkTop p)
  if 18 ≤ p || !t.busy || (linkTr s p).busy then setLinkTr s p t
  else
    let s := if (s.port p).st = 2 then takePortDown s p 3 else s
    s.setPort p { s.port p with st := 1, tr := { t with last := (s.port p).tr.last } }
/-- The running step of a link ends: step 4 of a Swiust port learns the peer, step 5 brings the port up with its routes
where the peer is the one it held, and a failure takes it down (R409, R418, R427, R428). -/
def linkEnd (s : State) (p : Nat) (pass : Bool) (peer : Nat) : State :=
  let t := linkTr s p
  if !t.busy then s
  else
    let s := setLinkTr s p (trainEnd t pass)
    let s := if 18 ≤ p then
        (if !pass then hostPortDown s (p - 18)
         else if t.step = 4 then s.setHPort (p - 18) { s.hport (p - 18) with up := true } else s)
      else
        let x := s.port p
        if !pass then takePortDown s p 2
        else if t.step = 4 then s.setPort p { x with peer := peer % 4096 }
        else if t.step = 5 then
          let s := s.setPort p { x with st := 2, txSeq := 0, rxSeq := 0, rxAny := false, retryCnt := 0, heldRoutes := [] }
          if x.peer = x.heldPeer then
            { s with route := x.heldRoutes.foldl (fun r n => tset 0 r n (tget 0 r n ||| ((1 : BitVec 18) <<< p))) s.route }
          else s
        else s
    ctlSignal s (linkCtl p)
/-- A write to LTCTL (R427). -/
def ltctlPut (s : State) (p v : Nat) : State :=
  let s := if v.testBit 5 then linkEnd s p false 0 else s
  let t := linkTr s p
  if v.testBit 4 then linkStart s p (v % 16) else if t.busy then s else setLinkTr s p { t with step := v % 16 }
/-- LINK_TRAIN_START (R427). -/
def execLinkTrainStart (port step : Nat) (s : State) : Host.Outcome State Fault Refusal :=
  event (if 20 ≤ port || (s.variant = .noLink && decide (port < 18)) then s else ltctlPut s port (step % 16 + 16))
/-- LINK_TRAIN_ABORT (R427). -/
def execLinkTrainAbort (port : Nat) (s : State) : Host.Outcome State Fault Refusal :=
  event (if 20 ≤ port then s else linkEnd s port false 0)
/-- LINK_TRAIN_DONE (R427, R428). -/
def execLinkTrainDone (port : Nat) (pass : Bool) (peer : Nat) (s : State) : Host.Outcome State Fault Refusal :=
  event (if 20 ≤ port then s else linkEnd s port pass peer)
/-- LINK_TRAIN_TIMEOUT; the LTSSM, not this limit, bounds step 3 of a host port (R427). -/
def execLinkTrainTimeout (port : Nat) (s : State) : Host.Outcome State Fault Refusal :=
  event (if 20 ≤ port || (decide (18 ≤ port) && (linkTr s port).step == 3) then s else linkEnd s port false 0)

end Sys2Proof.Machine
end

