-- ==== Sys2Proof/Machine/Clocks.lean ====
section
/-! DEFINITION. Clock modes, droop, metered stops and hot cores (R378, R429 to R432). -/
namespace Sys2Proof.Machine

/-- The pair holds no resident team and no group is admitted to it (R432). -/
def pairEmpty (s : State) (p : Nat) : Bool :=
  !(s.groups.any fun g => pairOfCore g.2.core == p && (g.2.st == .resident || g.2.st == .draining)) &&
  (teamsWhere s fun k t => !isCtl k && t.resident && pairOfCore (teamCore s k) == p).isEmpty
/-- A request of the distributor is done with: its mode was written, or refused (R432). -/
def modeDone (s : State) (p : Nat) : State :=
  let d := p / 48
  s.setDie d { s.die d with modeReq := (s.die d).modeReq.filter fun r => r.1 != p }
/-- A write to PCLK: SWERR clears by 1; the MODE of an empty pair is taken and its clock relocks, any other write of MODE is
refused. A write of 1 to SWERR that leaves an occupied pair its mode is no refused write of MODE (R429, R432; log 52). -/
def pclkPut (s : State) (p v : Nat) : State :=
  let x := s.pair p
  let x := { x with swerr := x.swerr && !v.testBit 2 }
  let s := modeDone s p
  if pairEmpty s p then s.setPair p { x with metered := v.testBit 0, switching := true, stopped := false }
  else if v.testBit 2 && v.testBit 0 == x.metered then s.setPair p x
  else s.setPair p { x with swerr := true }
/-- CLOCK_MODE_WRITE (R432). -/
def execClockModeWrite (pair : Nat) (v : BitVec 64) (s : State) : Host.Outcome State Fault Refusal :=
  event (if Config.numPairs ≤ pair then s else pclkPut s pair v.toNat)
/-- CLOCK_RELOCK_DONE (R432). -/
def execClockRelockDone (pair : Nat) (s : State) : Host.Outcome State Fault Refusal :=
  event (if Config.numPairs ≤ pair then s else s.setPair pair { s.pair pair with switching := false })
/-- METERED_CLOCK_HALT: a sample at or below VCORE − MFLOOR; the severity of its record is not given (R431, R435; log 5). -/
def execMeteredClockHalt (pair mv : Nat) (s : State) : Host.Outcome State Fault Refusal :=
  event (
    let x := s.pair pair
    if Config.numPairs ≤ pair || !x.metered || x.switching || x.stopped || vcoreOf s (pair / 48) < mv + x.mfloor then s
    else
      let s := s.setPair pair { x with stopped := true, memerg := if x.memerg = BitVec.allOnes 32 then x.memerg else x.memerg + 1 }
      rasEvent s.drawFree (rasMake 0x09 (s.freeVal.toNat % 4) (pair / 48) (pair % 48 * 2) none 0))
/-- METERED_CLOCK_RESUME: a sample above that level (R431). -/
def execMeteredClockResume (pair mv : Nat) (s : State) : Host.Outcome State Fault Refusal :=
  event (
    let x := s.pair pair
    if Config.numPairs ≤ pair || !x.stopped || mv + x.mfloor ≤ vcoreOf s (pair / 48) then s
    else s.setPair pair { x with stopped := false })
/-- The highest droop level that a sample trips (R430). -/
def droopLevel (x : Pair) (vcore mv : Nat) : Option Nat :=
  ((List.range 8).filter fun k => decide (mv + x.drBase + k * x.drStep ≤ vcore)).getLast?
/-- DROOP_LEVEL_TRIP: the next cycle of an elastic pair is stretched, which counts once (R429, R430; log 10). -/
def execDroopLevelTrip (pair mv : Nat) (s : State) : Host.Outcome State Fault Refusal :=
  event (
    let x := s.pair pair
    if Config.numPairs ≤ pair || x.metered || x.switching then s
    else match droopLevel x (vcoreOf s (pair / 48)) mv with
      | none => s
      | some _ => s.setPair pair { x with drcnt := x.drcnt + 1 })
/-- Sensor readings of a core's pair: temperature, and the stretched cycles of the window that ends (R429). -/
def sensePair (s : State) (core : Nat) (temp : BitVec 12) (win : BitVec 16) : State :=
  let p := pairOfCore core
  s.setPair p { s.pair p with temp := temp, drwin := win }
/-- CORE_HOT_SET (R378): the thresholds in 0.125 °C. -/
def execCoreHotSet (core : Nat) (temp : BitVec 12) (win : BitVec 16) (s : State) : Host.Outcome State Fault Refusal :=
  event (
    if Config.numCores ≤ core then s
    else
      let s := sensePair s core temp win
      if 8 * s.sched.thot.toNat < temp.toNat || s.sched.dhot.toNat < win.toNat then
        s.setCore core { s.core core with hot := true } else s)
/-- CORE_HOT_CLEAR: the readings that end 1 ms below the thresholds without a break (R378; log 10). -/
def execCoreHotClear (core : Nat) (temp : BitVec 12) (win : BitVec 16) (s : State) : Host.Outcome State Fault Refusal :=
  event (
    if Config.numCores ≤ core then s
    else
      let s := sensePair s core temp win
      if temp.toNat + 64 ≤ 8 * s.sched.thot.toNat && win.toNat ≤ s.sched.dhot.toNat then
        s.setCore core { s.core core with hot := false } else s)

end Sys2Proof.Machine
end

