-- ==== Sys2Proof/Machine/Control.lean ====
section
/-! DEFINITION. Control transfers and run-ending words, the hierarchical mask, and predicates (R210 to R224, R306, R307,
R310, R315). -/
namespace Sys2Proof.Machine

/-- A run-ending word stands until its run's wait ends (R181). -/
def control (i : Instr) (s : State) (srcs : List Reg) : Host.Outcome State Fault Refusal :=
  word i s srcs fun s tk c => once (s.modTeam tk fun t => { t with pend := some i, pendPc := t.wordPc }) c 1 1
/-- BRA: its effect is that of takeEffect (R210). -/
def execBra (f : FC) (s : State) : Host.Outcome State Fault Refusal :=
  control (.bra f) s []
/-- BRC: its effect is that of takeEffect (R211). -/
def execBrc (f : FC) (s : State) : Host.Outcome State Fault Refusal :=
  control (.brc f) s []
/-- BMZ: its effect is that of takeEffect (R212). -/
def execBmz (f : FC) (s : State) : Host.Outcome State Fault Refusal :=
  control (.bmz f) s []
/-- BMNZ: its effect is that of takeEffect (R212). -/
def execBmnz (f : FC) (s : State) : Host.Outcome State Fault Refusal :=
  control (.bmnz f) s []
/-- CALL: its effect is that of takeEffect (R213). -/
def execCall (f : FC) (s : State) : Host.Outcome State Fault Refusal :=
  control (.call f) s []
/-- RET: its effect is that of takeEffect (R213). -/
def execRet (f : FA) (s : State) : Host.Outcome State Fault Refusal :=
  control (.ret f) s [f.a]
/-- JMPI: its effect is that of takeEffect (R213). -/
def execJmpi (f : FA) (s : State) : Host.Outcome State Fault Refusal :=
  control (.jmpi f) s [f.a]
/-- EXIT: its effect is that of takeEffect (R214). -/
def execExit (f : FA) (s : State) : Host.Outcome State Fault Refusal :=
  control (.exit f) s []
/-- YIELD: its effect is that of takeEffect (R215). -/
def execYield (f : FA) (s : State) : Host.Outcome State Fault Refusal :=
  control (.yield f) s []
/-- WAITCY: its effect is that of takeEffect (R216). -/
def execWaitcy (f : FA) (s : State) : Host.Outcome State Fault Refusal :=
  control (.waitcy f) s [f.a]
/-- MWHILE: its effect is that of takeEffect (R218). -/
def execMwhile (f : FC) (s : State) : Host.Outcome State Fault Refusal :=
  control (.mwhile f) s []
/-- TRAP: its effect is that of takeEffect (R307). -/
def execTrap (f : FC) (s : State) : Host.Outcome State Fault Refusal :=
  control (.trap f) s []
/-- TRET: its effect is that of takeEffect (R310). -/
def execTret (f : FA) (s : State) : Host.Outcome State Fault Refusal :=
  control (.tret f) s []
/-- WFE: its effect is that of takeEffect (R315). -/
def execWfe (f : FA) (s : State) : Host.Outcome State Fault Refusal :=
  control (.wfe f) s []
/-- HALT: its effect is that of takeEffect (R315). -/
def execHalt (f : FA) (s : State) : Host.Outcome State Fault Refusal :=
  control (.halt f) s []

/-- A uniform word of one cycle that changes its team or traps. -/
def uniform (g : State → Nat → Nat → Team → Option Team) (cause : Nat) : State → Nat → Nat → WRes := fun s tk c =>
  match g s tk c (s.team tk) with
  | some t => once (s.setTeam tk t) c 1 1
  | none => trapAt s tk cause
/-- Lanes of the mask whose predicate has a value. -/
def lanesWith (t : Team) (r : Reg) (x : Tri) : Mask :=
  (activeLanes t).foldl (fun (m : Mask) l => if readPred t l r == x then m ||| (1 <<< l) else m) 0
/-- MIF (R217). -/
def execMif (f : FA) (s : State) : Host.Outcome State Fault Refusal :=
  word (.mif f) s [] (uniform (fun _ _ _ t =>
    if 62 < t.stack.length then none
    else
      let ts := lanesWith t f.a .t
      let us := lanesWith t f.a .u
      let (ts, us) := if f.b == 1 then (ts ||| us, 0) else if f.b == 2 then (ts, 0) else (ts, us)
      some { t with stack := us :: t.mask :: t.stack, mask := ts }) cMASK)
/-- MELSE (R217). -/
def execMelse (f : FA) (s : State) : Host.Outcome State Fault Refusal :=
  word (.melse f) s [] (uniform (fun _ _ _ t =>
    match t.stack with
    | l0 :: l1 :: _ => some { t with mask := l1 &&& ~~~l0 &&& ~~~t.mask }
    | _ => none) cMASK)
/-- MUND (R217). -/
def execMund (f : FA) (s : State) : Host.Outcome State Fault Refusal :=
  word (.mund f) s [] (uniform (fun _ _ _ t =>
    match t.stack with
    | l0 :: l1 :: _ => some { t with mask := l0 &&& l1 }
    | _ => none) cMASK)
/-- MEND (R217). -/
def execMend (f : FA) (s : State) : Host.Outcome State Fault Refusal :=
  word (.mend f) s [] (uniform (fun _ _ _ t =>
    match t.stack with
    | _ :: l1 :: r => some { t with mask := l1, stack := r }
    | _ => none) cMASK)
/-- The lanes of mask word j. -/
def wordLanes (j : Nat) : Mask := 0xFFFFFFFF#1024 <<< (32 * j)
/-- MSET (R219). -/
def execMset (f : FA) (s : State) : Host.Outcome State Fault Refusal :=
  word (.mset f) s (if f.b == 2 then [f.d, f.a] else []) (uniform (fun _ _ c t =>
    match f.b.toNat with
    | 0 => if 63 < t.stack.length then none else some { t with stack := t.mask :: t.stack }
    | 1 => match t.stack with
      | m :: r => some { t with mask := m &&& occupied t, stack := r }
      | [] => none
    | 2 =>
      let j := (readReg t c 0 f.d).toNat % 32
      let v := (readReg t c 0 f.a).toNat % 2 ^ 32
      let new := (BitVec.ofNat 1024 v <<< (32 * j)) &&& widthMask t.width &&& occupied t
      some { t with mask := (t.mask &&& ~~~(wordLanes j)) ||| new }
    | _ => some { t with mask := occupied t }) cMASK)
/-- MGET (R219). -/
def execMget (f : FA) (s : State) : Host.Outcome State Fault Refusal :=
  word (.mget f) s (if f.b == 0 then [f.a] else []) (uniform (fun _ _ c t =>
    let v := if f.b == 0 then maskWord t.mask ((readReg t c 0 f.a).toNat % 32) else summary t
    some (writeRegs t (regW t 0 f.d (v.setWidth 64)))) cMASK)

/-- A predicate for each active lane (R220). -/
def predWord (d : Reg) (g : Team → Nat → Nat → Tri) : State → Nat → Nat → WRes := fun s tk c =>
  let t := s.team tk
  let p := passesOf t c fun _ _ => 1
  swept (s.setTeam tk (applyLanes t ((activeLanes t).map fun l => (l, { p := [(d.toNat, g t (passCycle p l) l)] : LaneRes })))) p 1
/-- PAND (R220). -/
def execPand (f : FA) (s : State) : Host.Outcome State Fault Refusal :=
  word (.pand f) s [] (predWord f.d fun t _ l => tAnd (readPred t l f.a) (readPred t l f.b))
/-- POR (R220). -/
def execPor (f : FA) (s : State) : Host.Outcome State Fault Refusal :=
  word (.por f) s [] (predWord f.d fun t _ l => tOr (readPred t l f.a) (readPred t l f.b))
/-- PXOR (R220). -/
def execPxor (f : FA) (s : State) : Host.Outcome State Fault Refusal :=
  word (.pxor f) s [] (predWord f.d fun t _ l => tXor (readPred t l f.a) (readPred t l f.b))
/-- PNOT (R220). -/
def execPnot (f : FA) (s : State) : Host.Outcome State Fault Refusal :=
  word (.pnot f) s [] (predWord f.d fun t _ l => tNot (readPred t l f.a))
/-- The modes of PMOV (R220). -/
def pmovMode (m : Nat) (x : Tri) : Tri :=
  match m with
  | 0 => x
  | 1 => .t
  | 2 => .f
  | 3 => .u
  | 4 => if x == .u then .t else x
  | 5 => if x == .u then .f else x
  | 6 => triBool (x == .u)
  | _ => triBool (x != .u)
/-- PMOV (R220). -/
def execPmov (f : FA) (s : State) : Host.Outcome State Fault Refusal :=
  word (.pmov f) s [] (predWord f.d fun t _ l => pmovMode f.b.toNat (readPred t l f.a))
/-- PSEL (R221). -/
def execPsel (f : FAX) (s : State) : Host.Outcome State Fault Refusal :=
  word (.psel f) s [] (predWord f.d fun t _ l =>
    let a := readPred t l f.a
    let b := readPred t l f.b
    match readPred t l (f.x.extractLsb' 0 7) with
    | .t => a
    | .f => b
    | .u => match f.x.toNat / 256 % 4 with
      | 0 => if a == b then a else .u
      | 1 => a
      | 2 => b
      | _ => .u)
/-- The code of a predicate (R71). -/
def triCode (x : Tri) : Nat := match x with | .f => 0 | .t => 1 | .u => 2
def triOfCode (n : Nat) : Tri := match n % 4 with | 0 => .f | 1 => .t | _ => .u
/-- PTOI (R222). -/
def execPtoi (f : FA) (s : State) : Host.Outcome State Fault Refusal :=
  word (.ptoi f) s (if isS f.d then [f.b] else []) fun s tk c =>
    let t := s.team tk
    let p := passesOf t c fun _ _ => 1
    if isS f.d then
      let j := (readReg t c 0 f.b).toNat % 32
      let ls := (liveActive t).filter fun l => l / 32 == j
      let v := (ls.map fun l => match readPred t l f.a with | .t => 2 ^ (l % 32) | .u => 2 ^ (32 + l % 32) | .f => 0).sum
      swept (s.setTeam tk (writeRegs t (regW t 0 f.d (BitVec.ofNat 64 v)))) p 1
    else
      swept (s.setTeam tk (applyLanes t ((activeLanes t).map fun l =>
        (l, { w := regW t l f.d (BitVec.ofNat 64 (triCode (readPred t l f.a))) : LaneRes })))) p 1
/-- ITOP (R222). -/
def execItop (f : FA) (s : State) : Host.Outcome State Fault Refusal :=
  word (.itop f) s (if f.b == 2 then [f.a, nextReg f.a] else [f.a]) fun s tk c =>
    let t := s.team tk
    let p := passesOf t c fun _ _ => 1
    let j := (readReg t c 0 (nextReg f.a)).toNat % 32
    let ls := if f.b == 2 then (activeLanes t).filter fun l => l / 32 == j else activeLanes t
    let g := fun l =>
      let x := readReg t (passCycle p l) l f.a
      match f.b.toNat with
      | 0 => triOfCode x.toNat
      | 1 => triBool (x != 0)
      | _ => if x.getLsbD (32 + l % 32) then .u else triBool (x.getLsbD (l % 32))
    swept (s.setTeam tk (applyLanes t (ls.map fun l => (l, { p := [(f.d.toNat, g l)] : LaneRes })))) p 1
/-- VOTE (R223). -/
def execVote (f : FA) (s : State) : Host.Outcome State Fault Refusal :=
  word (.vote f) s [] fun s tk c =>
    let t := s.team tk
    let p := passesOf t c fun _ _ => 1
    let xs := (liveActive t).map fun l => readPred t l f.a
    if f.b.toNat < 2 then
      let r := if f.b == 0 then xs.foldl tAnd .t else xs.foldl tOr .f
      swept (s.setTeam tk (applyLanes t ((activeLanes t).map fun l => (l, { p := [(f.d.toNat, r)] : LaneRes })))) p 3
    else
      let want : Tri := match f.b.toNat with | 2 => .t | 3 => .f | _ => .u
      let n := BitVec.ofNat 64 (xs.filter fun x => x == want).length
      if isS f.d then swept (s.setTeam tk (writeRegs t (regW t 0 f.d n))) p 3
      else swept (s.setTeam tk (applyLanes t ((activeLanes t).map fun l => (l, { w := regW t l f.d n : LaneRes })))) p 3
/-- NOP (R306). -/
def execNop (f : FA) (s : State) : Host.Outcome State Fault Refusal :=
  word (.nop f) s [] fun s _ c => once s c 1 1
/-- TRL: the trailer's wait is that of endRun (R180, R306). -/
def execTrl (f : FT) (s : State) : Host.Outcome State Fault Refusal :=
  word (.trl f) s [] fun s _ c => once s c 1 1

end Sys2Proof.Machine
end

