-- ==== Sys2Proof/Machine/FloatOps.lean ====
section
/-! DEFINITION. The interval instructions: arithmetic, bounds, comparison, classification and conversion (R225 to R241). -/
namespace Sys2Proof.Machine

/-- Applies an interval word to every lane it reaches, or once for the scalar class, whose flags every active lane
receives (R225, R226). -/
def floatWord (rs : List Reg) (ivl : Team → Nat → Nat → Nat) (rdy : Nat) (g : Team → Nat → Nat → LaneRes) :
    State → Nat → Nat → WRes := fun s tk c =>
  let t := s.team tk
  if scalarClass tk rs then
    let r := g t c 0
    let t' := writeRegs t r.w
    once (s.setTeam tk (if r.fl == 0 then t' else raiseFlags t' ((activeLanes t).map fun l => (l, r.fl)))) c (ivl t 0 c) rdy
  else
    let p := passesOf t c (ivl t)
    swept (s.setTeam tk (applyLanes t ((activeLanes t).map fun l => (l, g t (passCycle p l) l)))) p rdy
/-- The timing classes of R228: interval and ready figure at a precision. -/
def tFadd (w : Bool) : Nat × Nat := if w then (4, 6) else (1, 4)
def tFdiv (w : Bool) : Nat × Nat := if w then (16, 30) else (4, 12)
def tSfu (w : Bool) : Nat × Nat := if w then (16, 34) else (4, 14)
/-- The interval operands of a lane with the flags of their reading. -/
def lane1 (w : Bool) (a : Reg) (t : Team) (c l : Nat) : IV × Flags := readIvReg t c l w a
/-- Two interval sources. -/
def float2 (f : FAW) (cl : Nat × Nat) (g : Fmt → IV → IV → IvRes) : State → Nat → Nat → WRes :=
  floatWord [f.d, f.a, f.b] (fun _ _ _ => cl.1) cl.2 fun t c l =>
    let a := readIvReg t c l f.w f.a
    let b := readIvReg t c l f.w f.b
    let r := g (fmtOf f.w) a.1 b.1
    { w := ivW t l f.w f.d r, fl := a.2 ||| b.2 ||| r.fl }
/-- One interval source. -/
def float1 (f : FAW) (cl : Nat × Nat) (g : Fmt → IV → IvRes) : State → Nat → Nat → WRes :=
  floatWord [f.d, f.a] (fun _ _ _ => cl.1) cl.2 fun t c l =>
    let a := readIvReg t c l f.w f.a
    let r := g (fmtOf f.w) a.1
    { w := ivW t l f.w f.d r, fl := a.2 ||| r.fl }
/-- The second result's name (R227). -/
def secondReg (w : Bool) (d : Reg) : Reg := if w then d + 2 else d + 1
/-- A multiplicand straddles zero (R229). -/
def straddles : IV → Bool
  | .iv l h => Ext.lt l Ext.zero && Ext.lt Ext.zero h
  | _ => false
/-- The interval of the FMUL class: doubled for a pass with a straddling multiplicand (R20, R228). -/
def mulIvl (f : FAW) (scalar : Bool) (t : Team) (j c : Nat) : Nat :=
  let ls := if scalar then [0] else (activeLanes t).filter fun l => l / 32 == j
  let hit := ls.any fun l => straddles (readIvReg t c l f.w f.a).1 || straddles (readIvReg t c l f.w f.b).1
  (if f.w then 4 else 1) * (if hit then 2 else 1)

/-- FADD (R230). -/
def execFadd (f : FAW) (s : State) : Host.Outcome State Fault Refusal :=
  word (.fadd f) s (pairRegs f.w f.a ++ pairRegs f.w f.b) (float2 f (tFadd f.w) fAdd)
/-- FSUB (R230). -/
def execFsub (f : FAW) (s : State) : Host.Outcome State Fault Refusal :=
  word (.fsub f) s (pairRegs f.w f.a ++ pairRegs f.w f.b) (float2 f (tFadd f.w) fSub)
/-- FMIN (R230). -/
def execFmin (f : FAW) (s : State) : Host.Outcome State Fault Refusal :=
  word (.fmin f) s (pairRegs f.w f.a ++ pairRegs f.w f.b) (float2 f (tFadd f.w) fMin)
/-- FMAX (R230). -/
def execFmax (f : FAW) (s : State) : Host.Outcome State Fault Refusal :=
  word (.fmax f) s (pairRegs f.w f.a ++ pairRegs f.w f.b) (float2 f (tFadd f.w) fMax)
/-- FHULL (R230). -/
def execFhull (f : FAW) (s : State) : Host.Outcome State Fault Refusal :=
  word (.fhull f) s (pairRegs f.w f.a ++ pairRegs f.w f.b) (float2 f (tFadd f.w) fHull)
/-- FMEET (R230). -/
def execFmeet (f : FAW) (s : State) : Host.Outcome State Fault Refusal :=
  word (.fmeet f) s (pairRegs f.w f.a ++ pairRegs f.w f.b) (float2 f (tFadd f.w) fMeet)
/-- FDIV (R230). -/
def execFdiv (f : FAW) (s : State) : Host.Outcome State Fault Refusal :=
  word (.fdiv f) s (pairRegs f.w f.a ++ pairRegs f.w f.b) (float2 f (tFdiv f.w) fDiv)
/-- FMUL (R230). -/
def execFmul (f : FAW) (s : State) : Host.Outcome State Fault Refusal :=
  word (.fmul f) s (pairRegs f.w f.a ++ pairRegs f.w f.b) fun s tk c =>
    floatWord [f.d, f.a, f.b] (mulIvl f (scalarClass tk [f.d, f.a, f.b])) (tFadd f.w).2 (fun t c l =>
      let a := readIvReg t c l f.w f.a
      let b := readIvReg t c l f.w f.b
      let r := fMul (fmtOf f.w) a.1 b.1
      { w := ivW t l f.w f.d r, fl := a.2 ||| b.2 ||| r.fl }) s tk c
/-- FFMA reads its destination as addend (R88, R230). -/
def execFfma (f : FAW) (s : State) : Host.Outcome State Fault Refusal :=
  word (.ffma f) s (pairRegs f.w f.d ++ pairRegs f.w f.a ++ pairRegs f.w f.b) fun s tk c =>
    floatWord [f.d, f.a, f.b] (mulIvl f (scalarClass tk [f.d, f.a, f.b])) (tFadd f.w).2 (fun t c l =>
      let d := readIvReg t c l f.w f.d
      let a := readIvReg t c l f.w f.a
      let b := readIvReg t c l f.w f.b
      let r := fFma (fmtOf f.w) d.1 a.1 b.1
      { w := ivW t l f.w f.d r, fl := d.2 ||| a.2 ||| b.2 ||| r.fl }) s tk c
/-- FDIV2 writes its two pieces to consecutive names (R227, R231). -/
def execFdiv2 (f : FAW) (s : State) : Host.Outcome State Fault Refusal :=
  word (.fdiv2 f) s (pairRegs f.w f.a ++ pairRegs f.w f.b) (floatWord [f.d, f.a, f.b] (fun _ _ _ => (tFdiv f.w).1) (tFdiv f.w).2
    fun t c l =>
      let a := readIvReg t c l f.w f.a
      let b := readIvReg t c l f.w f.b
      let r := fDiv2 (fmtOf f.w) a.1 b.1
      { w := (ivW t l f.w f.d r.1).append (ivW t l f.w (secondReg f.w f.d) r.2), fl := a.2 ||| b.2 ||| r.1.fl ||| r.2.fl })
/-- FMAKE reads raw bounds (R234). -/
def execFmake (f : FAW) (s : State) : Host.Outcome State Fault Refusal :=
  word (.fmake f) s (pairRegs f.w f.a ++ pairRegs f.w f.b) (floatWord [f.d, f.a, f.b] (fun _ _ _ => (tFadd f.w).1) (tFadd f.w).2
    fun t c l =>
      let r := fMake (fmtOf f.w) (readPairBits t c l f.w f.a).1 (readPairBits t c l f.w f.b).2
      { w := ivW t l f.w f.d r, fl := r.fl })
/-- FBIS (R235). -/
def execFbis (f : FAW) (s : State) : Host.Outcome State Fault Refusal :=
  word (.fbis f) s (pairRegs f.w f.a) (floatWord [f.d, f.a] (fun _ _ _ => (tFadd f.w).1) (tFadd f.w).2 fun t c l =>
    let a := readIvReg t c l f.w f.a
    let r := fBis (fmtOf f.w) a.1
    { w := (ivW t l f.w f.d r.1).append (ivW t l f.w (secondReg f.w f.d) r.2), fl := a.2 ||| r.1.fl ||| r.2.fl })
/-- FNEG (R232). -/
def execFneg (f : FAW) (s : State) : Host.Outcome State Fault Refusal :=
  word (.fneg f) s (pairRegs f.w f.a) (float1 f (tFadd f.w) fNeg)
/-- FABS (R232). -/
def execFabs (f : FAW) (s : State) : Host.Outcome State Fault Refusal :=
  word (.fabs f) s (pairRegs f.w f.a) (float1 f (tFadd f.w) fAbs)
/-- FSQR (R232). -/
def execFsqr (f : FAW) (s : State) : Host.Outcome State Fault Refusal :=
  word (.fsqr f) s (pairRegs f.w f.a) (float1 f (tFadd f.w) fSqr)
/-- FSQRT (R232). -/
def execFsqrt (f : FAW) (s : State) : Host.Outcome State Fault Refusal :=
  word (.fsqrt f) s (pairRegs f.w f.a) (float1 f (tFdiv f.w) fSqrt)
/-- FRCP (R232). -/
def execFrcp (f : FAW) (s : State) : Host.Outcome State Fault Refusal :=
  word (.frcp f) s (pairRegs f.w f.a) (float1 f (tSfu f.w) fRcp)
/-- FRSQ (R232). -/
def execFrsq (f : FAW) (s : State) : Host.Outcome State Fault Refusal :=
  word (.frsq f) s (pairRegs f.w f.a) (float1 f (tSfu f.w) fRsq)
/-- FEXP (R232). -/
def execFexp (f : FAW) (s : State) : Host.Outcome State Fault Refusal :=
  word (.fexp f) s (pairRegs f.w f.a) (float1 f (tSfu f.w) fExp)
/-- FEXP2 (R232). -/
def execFexp2 (f : FAW) (s : State) : Host.Outcome State Fault Refusal :=
  word (.fexp2 f) s (pairRegs f.w f.a) (float1 f (tSfu f.w) fExp2)
/-- FLOG (R232). -/
def execFlog (f : FAW) (s : State) : Host.Outcome State Fault Refusal :=
  word (.flog f) s (pairRegs f.w f.a) (float1 f (tSfu f.w) fLog)
/-- FLOG2 (R232). -/
def execFlog2 (f : FAW) (s : State) : Host.Outcome State Fault Refusal :=
  word (.flog2 f) s (pairRegs f.w f.a) (float1 f (tSfu f.w) fLog2)
/-- FSIN (R232). -/
def execFsin (f : FAW) (s : State) : Host.Outcome State Fault Refusal :=
  word (.fsin f) s (pairRegs f.w f.a) (float1 f (tSfu f.w) fSin)
/-- FCOS (R232). -/
def execFcos (f : FAW) (s : State) : Host.Outcome State Fault Refusal :=
  word (.fcos f) s (pairRegs f.w f.a) (float1 f (tSfu f.w) fCos)
/-- FTANH (R232). -/
def execFtanh (f : FAW) (s : State) : Host.Outcome State Fault Refusal :=
  word (.ftanh f) s (pairRegs f.w f.a) (float1 f (tSfu f.w) fTanh)
/-- FLO (R233). -/
def execFlo (f : FAW) (s : State) : Host.Outcome State Fault Refusal :=
  word (.flo f) s (pairRegs f.w f.a) (float1 f (tFadd f.w) fLo)
/-- FHI (R233). -/
def execFhi (f : FAW) (s : State) : Host.Outcome State Fault Refusal :=
  word (.fhi f) s (pairRegs f.w f.a) (float1 f (tFadd f.w) fHi)
/-- FMID (R233). -/
def execFmid (f : FAW) (s : State) : Host.Outcome State Fault Refusal :=
  word (.fmid f) s (pairRegs f.w f.a) (float1 f (tFadd f.w) fMid)
/-- FRAD (R233). -/
def execFrad (f : FAW) (s : State) : Host.Outcome State Fault Refusal :=
  word (.frad f) s (pairRegs f.w f.a) (float1 f (tFadd f.w) fRad)
/-- FWID (R233). -/
def execFwid (f : FAW) (s : State) : Host.Outcome State Fault Refusal :=
  word (.fwid f) s (pairRegs f.w f.a) (float1 f (tFadd f.w) fWid)
/-- FCMP: the predicate of a relation; scalar sources write it in every active lane and set CC (R226, R236). -/
def fcmp (f : FAW) (r : FRel) : State → Nat → Nat → WRes := fun s tk c =>
  let t := s.team tk
  let one := fun (c l : Nat) =>
    let a := readIvReg t c l f.w f.a
    let b := readIvReg t c l f.w f.b
    (fRel r a.1 b.1, a.2 ||| b.2)
  if scalarClass tk [f.a, f.b] then
    let x := one c 0
    let t' := writePreds t ((activeLanes t).map fun l => (f.d.toNat, l, x.1))
    let t' := if x.2 == 0 then t' else raiseFlags t' ((activeLanes t).map fun l => (l, x.2))
    once (s.setTeam tk { t' with cc := ccOfTri x.1 }) c (tFadd f.w).1 (tFadd f.w).2
  else
    let p := passesOf t c fun _ _ => (tFadd f.w).1
    swept (s.setTeam tk (applyLanes t ((activeLanes t).map fun l =>
      let x := one (passCycle p l) l
      (l, { p := [(f.d.toNat, x.1)], fl := x.2 : LaneRes })))) p (tFadd f.w).2
/-- FCMP_LT (R94, R236). -/
def execFcmpLt (f : FAW) (s : State) : Host.Outcome State Fault Refusal :=
  word (.fcmpLt f) s (pairRegs f.w f.a ++ pairRegs f.w f.b) (fcmp f .lt)
/-- FCMP_LE (R94, R236). -/
def execFcmpLe (f : FAW) (s : State) : Host.Outcome State Fault Refusal :=
  word (.fcmpLe f) s (pairRegs f.w f.a ++ pairRegs f.w f.b) (fcmp f .le)
/-- FCMP_GT (R94, R236). -/
def execFcmpGt (f : FAW) (s : State) : Host.Outcome State Fault Refusal :=
  word (.fcmpGt f) s (pairRegs f.w f.a ++ pairRegs f.w f.b) (fcmp f .gt)
/-- FCMP_GE (R94, R236). -/
def execFcmpGe (f : FAW) (s : State) : Host.Outcome State Fault Refusal :=
  word (.fcmpGe f) s (pairRegs f.w f.a ++ pairRegs f.w f.b) (fcmp f .ge)
/-- FCMP_EQ (R94, R236). -/
def execFcmpEq (f : FAW) (s : State) : Host.Outcome State Fault Refusal :=
  word (.fcmpEq f) s (pairRegs f.w f.a ++ pairRegs f.w f.b) (fcmp f .eq)
/-- FCMP_NE (R94, R236). -/
def execFcmpNe (f : FAW) (s : State) : Host.Outcome State Fault Refusal :=
  word (.fcmpNe f) s (pairRegs f.w f.a ++ pairRegs f.w f.b) (fcmp f .ne)
/-- FCMP_SUB (R94, R236). -/
def execFcmpSub (f : FAW) (s : State) : Host.Outcome State Fault Refusal :=
  word (.fcmpSub f) s (pairRegs f.w f.a ++ pairRegs f.w f.b) (fcmp f .sub)
/-- FCMP_IN (R94, R236). -/
def execFcmpIn (f : FAW) (s : State) : Host.Outcome State Fault Refusal :=
  word (.fcmpIn f) s (pairRegs f.w f.a ++ pairRegs f.w f.b) (fcmp f .inn)
/-- FCMP_DIS (R94, R236). -/
def execFcmpDis (f : FAW) (s : State) : Host.Outcome State Fault Refusal :=
  word (.fcmpDis f) s (pairRegs f.w f.a ++ pairRegs f.w f.b) (fcmp f .dis)
/-- FCLASS reads raw bits and raises no flag (R237). -/
def execFclass (f : FAW) (s : State) : Host.Outcome State Fault Refusal :=
  word (.fclass f) s (pairRegs f.w f.a) (floatWord [f.d, f.a] (fun _ _ _ => (tFadd f.w).1) (tFadd f.w).2 fun t c l =>
    let x := readPairBits t c l f.w f.a
    { w := regW t l f.d (BitVec.ofNat 64 (fClass (fmtOf f.w) x.1 x.2)) })
/-- The register result of a CVTF code in a lane (R238). -/
def cvtfLane (f : FAW) (t : Team) (c l : Nat) : LaneRes :=
  let into := fun (r : IvRes) => ({ w := ivW t l f.w f.d r, fl := r.fl } : LaneRes)
  let low := (readReg t c l f.a).toNat % 2 ^ 32
  match f.b.toNat with
  | 0x00 => let x := readPairBits t c l false f.a; into (cvtPair f32 (fmtOf f.w) x.1 x.2)
  | 0x01 => let x := readPairBits t c l true f.a; into (cvtPair f64 (fmtOf f.w) x.1 x.2)
  | 0x02 => into (cvtPair f16 (fmtOf f.w) (low % 2 ^ 16) (low / 2 ^ 16))
  | 0x03 => into (cvtPair bf16 (fmtOf f.w) (low % 2 ^ 16) (low / 2 ^ 16))
  | 0x04 => into (loadMrw (fmtOf f.w) low)
  | 0x10 => let x := readPairBits t c l f.w f.a
            let r := cvtPair (fmtOf f.w) f16 x.1 x.2
            { w := regW t l f.d (BitVec.ofNat 64 (r.lo + 2 ^ 16 * r.hi)), fl := r.fl }
  | 0x11 => let x := readPairBits t c l f.w f.a
            let r := cvtPair (fmtOf f.w) bf16 x.1 x.2
            { w := regW t l f.d (BitVec.ofNat 64 (r.lo + 2 ^ 16 * r.hi)), fl := r.fl }
  | _ => let x := readIvReg t c l f.w f.a
         let r := storeMrw x.1
         { w := regW t l f.d (BitVec.ofNat 64 r.1), fl := x.2 ||| r.2 }
/-- CVTF (R238). -/
def execCvtf (f : FAW) (s : State) : Host.Outcome State Fault Refusal :=
  word (.cvtf f) s (if f.b == 1 || (f.w && 16 ≤ f.b.toNat) then [f.a, nextReg f.a] else [f.a])
    (floatWord [f.d, f.a] (fun _ _ _ => (tFadd f.w).1) (tFadd f.w).2 (cvtfLane f))
/-- CVTI (R96, R239). -/
def execCvti (f : FAW) (s : State) : Host.Outcome State Fault Refusal :=
  word (.cvti f) s (pairRegs f.w f.a) (floatWord [f.d, f.a] (fun _ _ _ => (tFadd f.w).1) (tFadd f.w).2 fun t c l =>
    let x := readIvReg t c l f.w f.a
    let r := cvti x.1 (f.b.toNat / 16 % 4) (f.b.toNat % 16)
    { w := regW t l f.d (itypeBits (f.b.toNat % 16) r.1), fl := x.2 ||| r.2 })
/-- CVFI (R97, R240). -/
def execCvfi (f : FAW) (s : State) : Host.Outcome State Fault Refusal :=
  word (.cvfi f) s [f.a] (floatWord [f.d, f.a] (fun _ _ _ => (tFadd f.w).1) (tFadd f.w).2 fun t c l =>
    let r := cvfi (fmtOf f.w) (itypeRead f.b.toNat (readReg t c l f.a))
    { w := ivW t l f.w f.d r, fl := r.fl })
/-- A codebook load whose token no run end has awaited (R183, R242). -/
def cbtHazard (t : Team) : Bool := t.ordered && t.inflight.any fun x => x.run != t.run && x.cbt.isSome
/-- CBX (R106, R241). -/
def execCbx (f : FAW) (s : State) : Host.Outcome State Fault Refusal :=
  word (.cbx f) s [f.a] fun s tk c =>
    if cbtHazard (s.team tk) then trapAt s tk cHAZARD
    else floatWord [f.d, f.a] (fun _ _ _ => (tFadd f.w).1) (tFadd f.w).2 (fun t c l =>
      let r := cbExpand (fmtOf f.w) t.cbt ((readReg t c l f.a).toNat % 16)
      { w := ivW t l f.w f.d r, fl := r.fl }) s tk c
/-- CBQ (R107, R241). -/
def execCbq (f : FAW) (s : State) : Host.Outcome State Fault Refusal :=
  word (.cbq f) s (pairRegs f.w f.a) fun s tk c =>
    if cbtHazard (s.team tk) then trapAt s tk cHAZARD
    else floatWord [f.d, f.a] (fun _ _ _ => (tFadd f.w).1) (tFadd f.w).2 (fun t c l =>
      let x := readIvReg t c l f.w f.a
      let r := cbQuant t.cbt x.1
      { w := regW t l f.d (BitVec.ofNat 64 r.1), fl := x.2 ||| r.2 }) s tk c

end Sys2Proof.Machine
end

