-- ==== Sys2Proof/Machine/Soft.lean ====
section
/-! DEFINITION. Soft errors (R433, R434). -/
namespace Sys2Proof.Machine

/-- RAS SITE of an array (R435). -/
def errSite : ErrSite → Nat
  | .dram => 0x01
  | .l2 => 0x02
  | .dirtyL1 | .cleanL1 | .storeBuffer | .scratch | .hamper => 0x03
  | .register => 0x04
  | .accumulator => 0x05
  | .stewardSram | .lockSram => 0x06
/-- The context and core that an error in a team's, group's or core's own storage strikes. -/
def errOwner (s : State) (e : SoftErr) : Option Group × Nat :=
  match e.site with
  | .register | .storeBuffer => let g := teamGroup s e.obj; (g, teamCore s e.obj)
  | .scratch | .hamper => let g := s.group? e.obj; (g, (g.map (·.core)).getD 0)
  | .accumulator => (((s.core e.obj).arr.holder.map (· / 16)).bind s.group?, e.obj)
  | _ => (none, e.obj)
/-- The RAS record of an error; the UNIT of an L2 line is not given (R435; log 10). -/
def errRecord (s : State) (e : SoftErr) (sev : Nat) : RasRec :=
  let (g, c) := errOwner s e
  let a := (physLoc e.addr).getD e.addr
  match e.site with
  | .dram => rasMake 0x01 sev (homeDie a) (stackOf a % 16) none e.addr
  | .l2 => rasMake 0x02 sev (homeDie a) ((Config.freeValue s.free).toNat % 128) none e.addr
  | .stewardSram | .lockSram => rasMake 0x06 sev (if 1 ≤ e.obj && decide (e.obj ≤ 8) then e.obj - 1 else 0) e.obj none 0
  | x => rasMake (errSite x) sev (dieOfCore c) (c % 96) (g.map (·.ctx)) e.addr
/-- The line of a place is poisoned at its home. -/
def poisonLine (s : State) (addr : Nat) : State := { s with poison := nins s.poison (lineOf ((physLoc addr).getD addr)) }
/-- The region whose buffered store to global memory, or to the scratch offset, is struck rolls back, without a count toward escalation (R151, R156, R433). -/
def dropStore (s : State) (tk addr : Nat) : State :=
  match (s.team tk).regions.findIdx? fun r => (r.stores.any fun c => lineOf c.1 == lineOf ((physLoc addr).getD addr)) ||
      r.sstores.any fun c => lineOf c.1 == lineOf addr with
  | some i => if restartable s (s.team tk).gid then restartGroup s (s.team tk).gid else rollbackTo s tk i
  | none => s
/-- SOFT_ERROR (R433); the severity of a steward's halt is not given (log 5). -/
def execSoftError (e : SoftErr) (s : State) : Host.Outcome State Fault Refusal :=
  event (
    if e.correctable || e.site == .cleanL1 then rasEvent s (errRecord s e 0)
    else match e.site with
      | .dram | .l2 | .dirtyL1 => rasEvent (poisonLine s e.addr) (errRecord s e 1)
      | .cleanL1 => s
      | .storeBuffer => dropStore s e.obj e.addr
      | .register | .accumulator | .scratch | .hamper =>
        match (errOwner s e).1 with
        | some g =>
          let r := errRecord s e 2
          rasEvent (haltContext s g.ctx (s.grid? g.seq) cPOISON (g.idx % 2 ^ 32) (BitVec.ofNat 64 e.addr)) r
        | none => s
      | .stewardSram =>
        if 1 ≤ e.obj && decide (e.obj ≤ 10) then
          rasEvent (haltCtl s.drawFree e.obj) (errRecord s e (s.freeVal.toNat % 4)) else s
      | .lockSram => moduleReset s)

end Sys2Proof.Machine
end

