-- ==== Sys2Proof/Machine/Regs.lean ====
section
/-! DEFINITION. The register blocks: the host-visible block and the blocks that controllers reach, by address, with what
each register reads and what a write to it does (R11, R370, R371, R378, R399, R400, R406, R409, R417, R420, R422, R423,
R425 to R427, R429, R435, R436, R439). -/
namespace Sys2Proof.Machine

/-- A register of 64 bits, or of one doubleword of a wider one. -/
inductive RName where
  | none
  | bootst | mbox (o : Nat) | queueReg (q o : Nat) | glob (o : Nat) | telpair (p : Nat) | swst (p : Nat) | route (n : Nat)
  | keyst | otpcmd | otpkey (i : Nat) | pwrctl | pwrgood | vcore (d : Nat) | ctlrst | mextd (i : Nat) | mext | mlock
  | idpub (i : Nat) | evdb (c : Nat) | stewst (c : Nat) | hosten | udslock
  | pclk (p : Nat) | drlvl (p : Nat) | drcnt (p : Nat) | drwin (p : Nat) | temp (p : Nat) | memerg (p : Nat)
  | dtctl (k : Nat) | dtstat (k : Nat) | dtfail (k i : Nat) | dmen (k : Nat)
  | ltctl (p : Nat) | ltstat (p : Nat) | ltpre (p : Nat)
  | access (t i dw : Nat)
  | flash (o : Nat)
  deriving DecidableEq, Repr

/-- The register at a doubleword offset of the host-visible block (R370, R371, R378, R399, R409, R435, R436, R439). -/
def barReg (off : Nat) : RName :=
  if off = 0 then .bootst
  else if 0x100 ≤ off && decide (off < 0x200) then .mbox (off - 0x100)
  else if 0x100000 ≤ off && decide (off < 0x101000) then
    let o := off - 0x100000
    if o % 0x40 < 0x30 then .queueReg (o / 0x40) (o % 0x40) else .none
  else if 0x101000 ≤ off && decide (off < 0x110000) then
    let o := off - 0x101000
    if o ≤ 0xA0 then .glob o
    else if 0x400 ≤ o && decide (o < 0x1000) then .telpair ((o - 0x400) / 8)
    else .none
  else if 0x200000 ≤ off && decide (off < 0x210000) then
    let o := off - 0x200000
    if o < 0x480 then (if o % 0x40 = 0 then .swst (o / 0x40) else .none)
    else if 0x1000 ≤ o && decide (o < 0x9000) then .route ((o - 0x1000) / 8)
    else .none
  else .none
/-- The register at a doubleword offset of the lockkeeper block (R418, R420, R422, R423, R425). -/
def lockReg (o : Nat) : RName :=
  if o = 0 then .keyst
  else if o = 8 then .otpcmd
  else if 0x10 ≤ o && decide (o < 0x30) then .otpkey ((o - 0x10) / 8)
  else if o = 0x40 then .pwrctl
  else if o = 0x48 then .pwrgood
  else if 0x50 ≤ o && decide (o < 0x90) then .vcore ((o - 0x50) / 8)
  else if o = 0xC0 then .ctlrst
  else if 0x100 ≤ o && decide (o < 0x140) then .mextd ((o - 0x100) / 8)
  else if o = 0x140 then .mext
  else if o = 0x148 then .mlock
  else if 0x180 ≤ o && decide (o < 0x1A0) then .idpub ((o - 0x180) / 8)
  else if 0x200 ≤ o && decide (o < 0x258) then .evdb ((o - 0x200) / 8)
  else if 0x288 ≤ o && decide (o < 0x2D8) then .stewst ((o - 0x280) / 8)
  else .none
/-- The register at a doubleword offset of the block of die d (R417, R426, R429). -/
def dieReg (d o : Nat) : RName :=
  if o < 0x30000 then
    let p := 48 * d + o / 0x1000
    match o % 0x1000 with
    | 0x00 => .pclk p
    | 0x08 => .drlvl p
    | 0x10 => .drcnt p
    | 0x18 => .drwin p
    | 0x20 => .temp p
    | 0x28 => .memerg p
    | _ => .none
  else if 0x800000 ≤ o && decide (o < 0xA00000) then
    let k := 2 * d + (o - 0x800000) / 0x100000
    match o % 0x100000 with
    | 0x00 => .dtctl k
    | 0x08 => .dtstat k
    | 0x10 => .dtfail k 0
    | 0x18 => .dtfail k 1
    | 0x20 => .dmen k
    | _ => .none
  else .none
/-- The register at a doubleword offset of a link block (R427). -/
def linkReg (p o : Nat) : RName :=
  match o with
  | 0x00 => .ltctl p
  | 0x08 => .ltstat p
  | 0x40 => if 18 ≤ p then .ltpre p else .none
  | _ => .none
/-- Access tables: the table that holds an address, by target (R400; log 8). -/
def accessTargets : List Nat := List.range 18 ++ (List.range 18).map (20 + ·) ++ (List.range 30).map (40 + ·)
def accessReg (a : Nat) : RName :=
  match accessTargets.find? fun t => decide (Config.accessTableBase t ≤ a) && decide (a < Config.accessTableBase t + 2048) with
  | some t => let o := a - Config.accessTableBase t; .access t (o / 32) (o % 32 / 8)
  | none => .none
/-- The block of a register address, as the target of its access table, and the register (R417). -/
def regAt (a : Nat) : Option Nat × RName :=
  let b := fun (base : Nat) => regBase + base
  if b 0 ≤ a && decide (a < b 0x1000) && lockReg (a - b 0) != .none then (some 40, lockReg (a - b 0))
  else if b 0x10000000 ≤ a && decide (a < b 0x18000000) then
    let o := a - b 0x10000000
    (some (41 + o / 0x1000000), dieReg (o / 0x1000000) (o % 0x1000000))
  else if b 0x20000000 ≤ a && decide (a < b 0x20200000) then
    let o := a - b 0x20000000
    (some (49 + o / 0x100000), linkReg (18 + o / 0x100000) (o % 0x100000))
  else if b 0x21000000 ≤ a && decide (a < b 0x21120000) then
    let o := a - b 0x21000000
    (some (51 + o / 0x10000), linkReg (o / 0x10000) (o % 0x10000))
  else if b 0x40000000 ≤ a && decide (a < b 0x44000000) then (some 69, barReg (a - b 0x40000000))
  else if a = Config.hostenAddr / 8 * 8 then (some 40, .hosten)
  else if a = Config.udslockAddr / 8 * 8 then (some 40, .udslock)
  else if Config.flashAddr ≤ a && decide (a < Config.flashAddr + Config.flashBytes) then (some 40, .flash (a - Config.flashAddr))
  else match accessReg a with
    | .access t i dw => (some 40, .access t i dw)
    | _ => (if a < b 0x1000 then some 40 else none, .none)

/-- A doubleword of bytes held one by one. -/
def byteDw (m : Tab Byte) (i : Nat) : Nat := leVal ((List.range 8).map fun k => tget 0 m (8 * i + k))
def putByteDw (m : Tab Byte) (i v : Nat) : Tab Byte := tsetAll 0 m ((List.range 8).zip (leBytes 8 v) |>.map fun x => (8 * i + x.1, x.2))
/-- A queue's registers (R371). -/
def queueRead (x : Queue) (o : Nat) : Nat :=
  match o with
  | 0x00 => x.at_.getD 0
  | 0x08 => x.en.toNat + 2 * (x.prio % 4) + 16 * (x.weight % 16) + 2 ^ 8 * x.det.toNat + 2 ^ 9 * x.replay.toNat + 2 ^ 16 * (x.ctx % 64)
  | 0x10 => x.free + 32 * x.busy.toNat + 64 * x.ovf.toNat + 128 * x.halt.toNat + 256 * (x.lastst % 256)
  | 0x18 => x.logbase
  | 0x20 => x.logsize
  | 0x28 => x.logptr
  | _ => 0
/-- The global registers of the scheduling block (R378, R399, R435, R436, R439). -/
def globRead (s : State) (o : Nat) : Nat :=
  let c := s.sched
  match o with
  | 0x00 => c.thot.toNat
  | 0x08 => c.dhot.toNat
  | 0x10 => c.swapwait.toNat
  | 0x18 => c.jbase.toNat
  | 0x20 => c.jseq % 2 ^ 64
  | 0x28 => c.fpthr.toNat
  | 0x30 => c.ctxbase
  | 0x38 => c.frbase
  | 0x40 => c.frsize
  | 0x48 => c.frprod % 2 ^ 64
  | 0x50 => c.frcons
  | 0x60 => c.tlbinv.toNat + 2 ^ 8 * c.tlbBusy.toNat
  | 0x68 => c.tlbva
  | 0x70 => c.rasbase
  | 0x78 => c.rassize
  | 0x80 => c.rasprod % 2 ^ 64
  | 0x88 => c.rascons
  | 0x90 => c.raslost
  | 0x98 => c.pwrmod.toNat + 2 ^ 16 * c.pwrpeak.toNat
  | 0xA0 => featOf s
  | _ => 0
/-- What a register reads. The lockkeeper reads the mailbox's oldest request (R422). -/
def regRead (s : State) (who : Req) (r : RName) : Nat :=
  let l := s.lock
  match r with
  | .none | .otpcmd | .mext | .evdb _ => 0
  | .bootst => l.bootCode % 256 + 2 ^ 8 * (l.bootDetail % 2 ^ 24)
  | .mbox o =>
    let req := if who.free then l.mbQueue.head? else none
    if o < 0x40 then (match req with
      | some q => leVal ((q.2.drop (o / 8 * 8)).take 8)
      | none => byteDw l.mbDigest (o / 8))
    else if o / 8 = 8 then (match req with | some q => q.1 | none => 0)
    else if o / 8 = 9 then l.mbStatus
    else 0
  | .queueReg q o => queueRead (s.queue q) (o / 8 * 8)
  | .glob o => globRead s (o / 8 * 8)
  | .telpair p => (tget 0 s.telpair p).toNat
  | .swst p =>
    let x := s.port p
    x.st % 8 + 8 * x.downev.toNat + 16 * (x.dcause % 16) + 2 ^ 8 * (x.badop % 256) + 2 ^ 16 * (x.peer % 4096) + 2 ^ 32 * (x.retries % 2 ^ 32)
  | .route n => (tget 0 s.route n).toNat
  | .keyst => keyst l
  | .otpkey i => byteDw l.otpkey i
  | .pwrctl => l.pwrctl.toNat
  | .pwrgood => l.pwrgood.toNat
  | .vcore d => vcoreOf s d
  | .ctlrst => l.ctlrst.toNat
  | .mextd i => byteDw l.mextd i
  | .mlock => l.mlock.toNat
  | .idpub i => leVal ((l.idpub.drop (8 * i)).take 8)
  | .stewst c => (tget 0 l.stewst c).toNat
  | .hosten => l.hosten.toNat
  | .udslock => l.udslock.toNat
  | .pclk p => let x := s.pair p; x.metered.toNat + 2 * x.switching.toNat + 4 * x.swerr.toNat
  | .drlvl p => let x := s.pair p; x.drBase + 2 ^ 8 * x.drStep + 2 ^ 16 * x.mfloor
  | .drcnt p => (s.pair p).drcnt.toNat
  | .drwin p => (s.pair p).drwin.toNat
  | .temp p => (s.pair p).temp.toNat
  | .memerg p => (s.pair p).memerg.toNat
  | .dtctl k => (s.stack k).tr.step
  | .dtstat k => trainStat (s.stack k).tr
  | .dtfail k i => bits (s.stack k).fail.toNat (64 * i) 64
  | .dmen k => (s.stack k).dmen.toNat
  | .ltctl p => (linkTr s p).step
  | .ltstat p => trainStat (linkTr s p)
  | .ltpre p => (s.hport (p - 18)).ltpre.toNat
  | .access t i dw => accessEntry s t i dw
  | .flash o => if who.free then leVal ((List.range 8).map fun i => nth 0 s.flash (o / 8 * 8 + i)) else 0

/-- A write to a global register of the scheduling block, as its access column allows; the stewards alone write the
module power, whose peak clears by bit 16 (R378, R399, R435, R436). -/
def globPut (s : State) (who : Req) (o v : Nat) : State :=
  let c := s.sched
  let put := fun (c : Sched) => { s with sched := c }
  match o with
  | 0x00 => put { c with thot := BitVec.ofNat 8 v }
  | 0x08 => put { c with dhot := BitVec.ofNat 16 v }
  | 0x10 => put { c with swapwait := BitVec.ofNat 32 v }
  | 0x18 => put { c with jbase := BitVec.ofNat 64 v }
  | 0x28 => put { c with fpthr := BitVec.ofNat 7 v }
  | 0x30 => put { c with ctxbase := v % 2 ^ 52 }
  | 0x38 => put { c with frbase := v % 2 ^ 52 }
  | 0x40 => put { c with frsize := v % 2 ^ 32 }
  | 0x50 => put { c with frcons := v % 2 ^ 64 }
  | 0x58 => tresumePut s v
  | 0x60 => tlbinvPut s (BitVec.ofNat 64 (v % 256))
  | 0x68 => put { c with tlbva := bits v 12 45 * 4096 }
  | 0x70 => put { c with rasbase := v % 2 ^ 52 }
  | 0x78 => rasFlush Config.rasHeldMax (put { c with rassize := v % 2 ^ 32 })
  | 0x88 => rasFlush Config.rasHeldMax (put { c with rascons := v % 2 ^ 64 })
  | 0x90 => put { c with raslost := (BitVec.ofNat 32 c.raslost &&& ~~~(BitVec.ofNat 32 v)).toNat }
  | 0x98 =>
    if who.cls = 1 then
      let w := BitVec.ofNat 16 v
      put { c with pwrmod := w, pwrpeak := if c.pwrpeak.toNat < w.toNat then w else c.pwrpeak }
    else if v.testBit 16 then put { c with pwrpeak := 0 } else s
  | _ => s
/-- The fields of an access-table doubleword (R400). -/
def accessMask (dw v : Nat) : Nat :=
  match dw with
  | 0 => v % 64 + bits v 8 12 * 2 ^ 8
  | 1 | 2 => bits v 12 40 * 2 ^ 12
  | _ => 0
/-- Bytes of the boot flash from a place on, written (R438). -/
def flashSet (f : List Byte) (o : Nat) (b : List Byte) : List Byte :=
  (f ++ List.replicate (o + b.length - f.length) 0).take o ++ b ++ f.drop (o + b.length)
/-- A write to a register by a host or a controller. On LX-E9M-S, whose Swiust ports are absent, a write of ROUTE or of a
Swiust port's LTCTL, a training START among them, is discarded (R4; DESIGN CHOICE, log 82). -/
def regPut (s : State) (who : Req) (r : RName) (v : Nat) : State :=
  let l := s.lock
  let lock := fun (l : Lock) => { s with lock := l }
  match r with
  | .bootst => if who.free then lock { l with bootCode := v % 256, bootDetail := bits v 8 24 } else s
  | .mbox o =>
    if who.cls = 2 then mailPut s o (BitVec.ofNat 64 v)
    else if who.free && o / 8 == 9 then lock { l with mbStatus := v % 4 } else s
  | .queueReg q o =>
    match o / 8 * 8 with
    | 0x00 => qheadPut s q (BitVec.ofNat 64 v)
    | 0x08 => qctlPut s q (BitVec.ofNat 64 v)
    | 0x10 => qstatPut s q (BitVec.ofNat 64 v)
    | k => qlogPut s q k (BitVec.ofNat 64 v)
  | .glob o => globPut s who (o / 8 * 8) v
  | .telpair p =>
    if who.cls = 1 then { s with telpair := tset 0 s.telpair p (BitVec.ofNat 64 (v % 2 ^ 12 + bits v 16 18 * 2 ^ 16)) } else s
  | .swst p => if v.testBit 3 then s.setPort p { s.port p with downev := false } else s
  | .route n => if s.variant = .noLink then s else { s with route := tset 0 s.route n (BitVec.ofNat 18 v) }
  | .otpcmd => if who.free then otpPut s v else s
  | .otpkey i => if who.free then lock { l with otpkey := putByteDw l.otpkey i v } else s
  | .pwrctl => pwrctlPut s v
  | .vcore d => vcorePut s d v
  | .ctlrst => ctlrstPut s v
  | .mextd i => lock { l with mextd := putByteDw l.mextd i v }
  | .mext => mextPut s v
  | .mlock => mlockPut s v
  | .evdb c => ctlSignal s c
  | .stewst c => if who.free || who.id == c then lock { l with stewst := tset 0 l.stewst c (BitVec.ofNat 32 v &&& 0xFFFFFF03) } else s
  | .hosten => lock { l with hosten := v.testBit 0 }
  | .udslock => if v.testBit 0 then lock { l with udslock := true } else s
  | .pclk p => pclkPut s p v
  | .drlvl p => s.setPair p { s.pair p with drBase := v % 256, drStep := bits v 8 8, mfloor := bits v 16 8 }
  | .dtctl k => dtctlPut s k v
  | .dtstat k => s.setStack k { s.stack k with tr := trainClear (s.stack k).tr v }
  | .dmen k => dmenPut s k v
  | .ltctl p => if s.variant = .noLink && decide (p < 18) then s else ltctlPut s p v
  | .ltstat p => setLinkTr s p (trainClear (linkTr s p) v)
  | .ltpre p => s.setHPort (p - 18) { s.hport (p - 18) with ltpre := BitVec.ofNat 64 v }
  | .access t i dw =>
    if who.free then { s with access := tset 0 s.access (t * 256 + i * 4 + dw) (BitVec.ofNat 64 (accessMask dw v)) } else s
  | .flash o => if who.free then { s with flash := flashSet s.flash (o / 8 * 8) (leBytes 8 v) } else s
  | .none | .keyst | .pwrgood | .idpub _ | .drcnt _ | .drwin _ | .temp _ | .memerg _ | .dtfail _ _ => s
/-- Low bytes of a register that hold fields. -/
def regBytes : RName → Nat
  | .queueReg _ o => if o / 8 = 1 then 3 else if o / 8 = 2 then 1 else 8
  | .glob o => match o / 8 * 8 with
    | 0x00 | 0x28 | 0x60 => 1
    | 0x08 => 2
    | 0x58 => 3
    | 0x10 | 0x40 | 0x78 | 0x90 | 0x98 => 4
    | 0x30 | 0x38 | 0x68 | 0x70 => 8
    | _ => 8
  | .swst _ | .pclk _ | .dtctl _ | .dtstat _ | .dmen _ | .ltctl _ | .ltstat _ | .mlock | .hosten | .udslock => 1
  | .otpcmd | .vcore _ | .ctlrst => 2
  | .route _ | .drlvl _ => 3
  | .bootst | .stewst _ => 4
  | _ => 8
/-- Registers whose unwritten bytes keep what they read; the others take 0 there. -/
def regKeeps : RName → Bool
  | .queueReg _ o => o / 8 != 0 && o / 8 != 2
  | .glob o => o / 8 != 11 && o / 8 != 18 && o / 8 != 19
  | .swst _ | .pclk _ | .dtctl _ | .dtstat _ | .ltctl _ | .ltstat _ | .otpcmd | .mext | .evdb _ => false
  | _ => true
/-- A write of some bytes of a register (R314). -/
def regWrite (s : State) (who : Req) (r : RName) (off : Nat) (b : List Byte) : State :=
  if b.isEmpty || regBytes r ≤ off then s
  else
    let old := if regKeeps r then regRead s who r else 0
    let v := leVal ((List.range 8).map fun i => if off ≤ i && decide (i < off + b.length) then nth 0 b (i - off) else BitVec.ofNat 8 (old / 2 ^ (8 * i)))
    regPut s who r v
/-- The doublewords that n bytes from an address touch: base, offset in it, and first byte and count of the bytes. -/
def dwParts (a n : Nat) : List (Nat × Nat × Nat × Nat) :=
  (List.range ((a % 8 + n + 7) / 8)).map fun k =>
    let lo := max a (a / 8 * 8 + 8 * k)
    let hi := min (a + n) (a / 8 * 8 + 8 * k + 8)
    (lo / 8 * 8, lo % 8, lo - a, hi - lo)
def regBytesRead (s : State) (who : Req) (at_ : Nat → RName) (a n : Nat) : List Byte :=
  (dwParts a n).flatMap fun x => ((leBytes 8 (regRead s who (at_ x.1))).drop x.2.1).take x.2.2.2
def regBytesWrite (s : State) (who : Req) (at_ : Nat → RName) (a : Nat) (b : List Byte) : State :=
  (dwParts a b.length).foldl (fun s x => regWrite s who (at_ x.1) x.2.1 ((b.drop x.2.2.1).take x.2.2.2)) s

/-- The fuses, and the flash, which the lockkeeper alone reaches (R420, R438). -/
def lockOnly : RName → Bool
  | .keyst | .otpcmd | .otpkey _ | .flash _ => true
  | _ => false
/-- Registers that steer what the device trusts (R406). -/
def trustReg : RName → Bool
  | .glob o => [0x18, 0x30, 0x38, 0x40, 0x58, 0x60, 0x68, 0x70, 0x78].contains (o / 8 * 8)
  | .route _ => true
  | _ => false
/-- The TDI separates TEE requests from others (R406). -/
def tdiLocked (s : State) : Bool := s.tdi == .locked || s.tdi == .run
/-- A refused host write logs an AER error; one that breaks a rule of the TDI moves it to ERROR (R402, R406). -/
def refuseTdi (s : State) (addr : Nat) : State := { s with tdi := .error, aer := s.aer ++ [addr] }
/-- A host write to the register block (R370, R406, R425). -/
def hostRegWrite (s : State) (port off : Nat) (b : List Byte) (tee : Bool) : State :=
  if !s.lock.hosten then s
  else if tdiLocked s && !tee && (dwParts off b.length).any fun x => trustReg (barReg x.1) then refuseTdi s off
  else regBytesWrite s ⟨2, port⟩ barReg off b
/-- REGISTER_WRITE: a host write of a doubleword of BAR0 (R11, R370). -/
def execRegisterWrite (off : Nat) (v : BitVec 64) (tee : Bool) (s : State) : Host.Outcome State Fault Refusal :=
  event (hostRegWrite s 0 (off / 8 * 8) (leBytes 8 v.toNat) (tee && s.ide.any fun k => k.1 == 0 && k.2.1))

end Sys2Proof.Machine
end

