-- ==== Sys2Proof/Machine/HostPort.lean ====
section
/-! DEFINITION. The host ports: host accesses, host caching of device lines, snoops of host lines, and function level
reset (R165, R400, R402 to R406, R434). -/
namespace Sys2Proof.Machine

/-- What the host receives: a completion with data, a refusal without, or poison with the bytes it covers (R402, R434). -/
def hostAnswer (s : State) (ok : Bool) (b : List Byte) : State := { s with hostOut := s.hostOut ++ [(ok, b)] }
/-- A refused request: a CXL.mem request receives a response with poison, whose bytes are free values, any other read
Unsupported Request, a posted write is discarded, and AER logs the address (R402; log 5). -/
def hostRefuse (s : State) (h : HostReq) : State :=
  let s := { s with aer := s.aer ++ [h.addr] }
  if h.cxl then
    hostAnswer { s with free := s.free + h.len } false ((List.range (max 1 h.len)).map fun i => (Config.freeValue (s.free + i)).setWidth 8)
  else if h.write then s
  else hostAnswer s false []
/-- A TEE request arrives on a selective IDE stream whose keys are programmed (R401, R405, R406). -/
def isTee (s : State) (h : HostReq) : Bool := h.tee && s.ide.contains (h.port % 2, true, h.stream % 4)
/-- A host access to BAR0: BOOTST alone before HOSTEN, and without regard to the access table; none while memory is being
zeroed (R370, R400, R402, R405, R425). -/
def hostBar (s : State) (h : HostReq) : State :=
  let who : Req := ⟨2, h.port⟩
  let at_ := fun a => if s.lock.hosten || a == 0 then barReg a else .none
  let boot := decide (h.addr + h.len ≤ 8) && !h.write
  if s.flr == .zeroing then hostRefuse s h
  else if s.lock.hosten && !boot && !accessOk s 69 who (regBase + 0x40000000 + h.addr) h.write then hostRefuse s h
  else if h.write then hostRegWrite s h.port h.addr (h.data.take h.len) (isTee s h)
  else hostAnswer s true (regBytesRead s who at_ h.addr h.len)
/-- Whether a host access to device memory is refused (R370, R400, R402, R405, R426). -/
def hostRefused (s : State) (h : HostReq) (loc : Nat) : Bool :=
  !s.lock.hosten || !isDram loc || s.flr == .zeroing || !(s.stack (stackOf loc)).dmen || !accessOk s (stackOf loc) ⟨2, h.port⟩ h.addr h.write
/-- A non-TEE write outside the shared ranges of a locked TDI (R406). -/
def tdiBreach (s : State) (h : HostReq) : Bool :=
  tdiLocked s && h.write && !isTee s h &&
  !s.shared.any fun r => decide (r.1 ≤ h.addr) && decide (h.addr + h.len ≤ r.1 + r.2)
/-- The oldest tracked line of a die that tracks as many as it can (R403). -/
def hostEvict (s : State) (line : Nat) : Option State :=
  let d := homeDie (line * 128)
  let here := s.hostLines.filter fun x => homeDie (x.line * 128) == d
  if here.any (fun x => x.line == line) || decide (here.length < Config.hostLineMax) then none
  else match here with
    | [] => none
    | x :: _ => some { s with hostLines := s.hostLines.map fun y => if y.line == x.line then { y with snoop := 2 } else y }
/-- What must happen before a host access to a line of device memory; none: nothing (R157, R403, R411). -/
def hostWaits (s : State) (h : HostReq) (line : Nat) : Option State :=
  match exclGate s noTeam line with
  | some s => some s
  | none =>
    if s.hostLines.any fun x => x.line == line && x.snoop != 0 then some s
    else match (if h.keep ≠ 0 ∧ s.variant ≠ .noLink then hostEvict s line else none) with
      | some s => some s
      | none => pageGate s (line / 32) noDev (h.write || h.keep == 2)
/-- The copy that the host holds afterwards (R403). -/
def hostKeep (s : State) (h : HostReq) (line : Nat) : State :=
  let rest := s.hostLines.filter fun x => x.line != line
  if s.variant = .noLink then s
  else if h.keep = 0 then { s with hostLines := rest }
  else if s.hostLines.any fun x => x.line == line then
    { s with hostLines := s.hostLines.map fun x => if x.line == line then { x with excl := h.keep == 2, tee := isTee s h } else x }
  else { s with hostLines := rest ++ [⟨line, h.keep == 2, 0, isTee s h⟩] }
/-- The answer to a snoop of a line of host memory: the bytes of one that is modified here, which leaves (R404, R434). -/
def snoopAnswer (s : State) (line : Nat) : State :=
  let b := (List.range 128).map fun i => readMem s (line * 128 + i)
  if s.poison.contains line then hostAnswer s false b
  else if s.hostDirty.contains line then
    hostAnswer (hitReaders { s with hostDirty := s.hostDirty.filter fun l => l != line } none fun l => l == line) true b
  else hostAnswer s true []
/-- A snoop that waits, as a request of the host. -/
def snoopReq (addr : Nat) : HostReq :=
  { port := 0, bar0 := false, write := false, tee := false, keep := 3, addr := addr, len := 128, data := [] }
/-- Serves one host access, or a snoop that waits: done, or what it waits for (R157, R165, R402, R403, R406, R434). Host
memory is the host's own. -/
def hostServe (s : State) (h : HostReq) : State × Bool :=
  if h.bar0 then (hostBar s h, true)
  else
    let loc := (physLoc h.addr).getD remoteBase
    let line := lineOf loc
    let cells := (List.range h.len).map fun i => (loc + i, nth 0 h.data i)
    let bytes := (List.range h.len).map fun i => readMem s (loc + i)
    if h.keep = 3 then
      match exclGate s noTeam (h.addr / 128) with
      | some s => (s, false)
      | none => (snoopAnswer s (h.addr / 128), true)
    else if isHost loc then
      match exclGate s noTeam line with
      | some s => (s, false)
      | none =>
        if h.write then (writeEvent { s with hostDirty := s.hostDirty.filter fun l => l != line } none cells (sPagesOn s [line]) |> fun s =>
          { s with hostDirty := s.hostDirty.filter fun l => l != line }, true)
        else (hostAnswer s true bytes, true)
    else if hostRefused s h loc then (hostRefuse s h, true)
    else if tdiBreach s h then (refuseTdi s h.addr, true)
    else match hostWaits s h line with
      | some s => (s, false)
      | none =>
        if h.write then (hostKeep (writeEvent s none cells (sPagesOn s [line])) h line, true)
        else if s.poison.contains line then (hostAnswer s false bytes, true)
        else (hostKeep (hostAnswer s true bytes) h line, true)
/-- Host accesses are served in order of arrival (R165). -/
def hostTry : List HostReq → State → State
  | [], s => s
  | h :: r, s => match hostServe s h with
    | (s, true) => hostTry r s
    | (s, false) => { s with hostWait := h :: r }
def settleHost (s : State) : State := if s.hostWait.isEmpty then s else hostTry s.hostWait { s with hostWait := [] }
/-- HOST_ACCESS; a request that is not of CXL.mem keeps no copy (R165, R370, R402, R403, R406). -/
def execHostAccess (h : HostReq) (s : State) : Host.Outcome State Fault Refusal :=
  event (settleHost { s with hostWait := s.hostWait ++ [{ h with keep := if h.cxl then h.keep % 3 else 0 }] })
/-- HOST_SNOOP of a host-memory line; one that an exclusive holder holds waits, and LX-E9M-S has no CXL.cache (R4, R157,
R404, R405). -/
def execHostSnoop (addr : Nat) (s : State) : Host.Outcome State Fault Refusal :=
  event (
    if s.variant = .noLink then s
    else match exclGate s noTeam (addr / 128) with
      | some s => { s with hostWait := s.hostWait ++ [snoopReq addr] }
      | none => snoopAnswer s (addr / 128))
/-- BIRSP: the host answers a back-invalidation, with dirty data or none; the data is a host write event before the event
that waits, refused where it may not write (R403, R406). -/
def execBirsp (line : Nat) (data : List Byte) (s : State) : Host.Outcome State Fault Refusal :=
  event (match s.hostLines.find? fun x => x.line == line && x.snoop != 0 with
  | none => s
  | some x =>
    let back : HostReq := { port := 0, bar0 := false, write := true, tee := false, keep := 0, addr := line * 128, len := 128, data := data }
    let s := if data.isEmpty || !x.excl then s
      else if !x.tee && tdiBreach s back then refuseTdi s (line * 128)
      else writeEvent s none ((List.range (min 128 data.length)).map fun i => (line * 128 + i, nth 0 data i)) (sPagesOn s [line])
    if x.snoop = 1 then
      { s with hostLines := s.hostLines.map fun y => if y.line == line then { y with excl := false, snoop := 0 } else y }
    else { s with hostLines := s.hostLines.filter fun y => y.line != line })
/-- BIRSP_TIMEOUT (R403). -/
def execBirspTimeout (line : Nat) (s : State) : Host.Outcome State Fault Refusal :=
  event (
    if s.hostLines.any fun x => x.line == line && x.snoop != 0 then
      let s := { s with hostLines := s.hostLines.filter fun y => y.line != line, poison := nins s.poison line }
      rasEvent s (rasMake 0x0A 1 (homeDie (line * 128)) (homeSlice (line * 128)) none (line * 128))
    else s)

/-- FLR ends: the scheduling registers return to their reset values (R405, R406). -/
def flrEnd (s : State) : State :=
  let c := s.sched
  { s with
    flr := .none, tdi := .unlocked, shared := [], queues := [], rrTurn := [], tags := [], faultWait := [], journal := [],
    sched := { Sched.reset with rasbase := c.rasbase, rassize := c.rassize, rasprod := c.rasprod, rascons := c.rascons,
                                raslost := c.raslost, pwrmod := c.pwrmod, pwrpeak := c.pwrpeak } }
/-- The contexts that the descriptor table allows no longer do: VALID is cleared (R388, R405). -/
def clearValid (s : State) : State :=
  (List.range 64).foldl (fun s c =>
    if descDw s c 0 % 2 = 0 then s
    else physWrite s (s.sched.ctxbase + 128 * c) (leBytes 8 (descDw s c 0 / 2 * 2))) s
/-- FLR, at its start: queues stop, contexts halt without drain and leave no journal records, pages that peers borrow are
recalled, and borrowed pages go back; replies to what was asked before are of no use (R388, R405, R412). -/
def execFlr (s : State) : Host.Outcome State Fault Refusal :=
  event (
    let s : State := { s with
      flr := .draining, remoteIn := [], nacks := [], teams := s.teams.filter fun t => isCtl t.1,
      groups := [], grids := [], handed := [], chains := [], saveBusy := [], tlb := [], tags := [], faultWait := [], journal := [],
      cores := s.cores.map fun c => (c.1, { Core.reset with hot := c.2.hot }),
      dies := [], queues := s.queues.map fun q => (q.1, { q.2 with en := false, heads := [], cur := none, running := [], served := 0 }) }
    let s := clearValid { s with remoteOut := s.remoteOut.map fun x => (x.1, { x.2 with what := 9 }) }
    let s := (s.borrowed.map (·.1)).foldl (fun s p => returnPage s p) s
    s.pages.foldl (fun s e => (distinct (e.2.sharers ++ e.2.owner.toList)).foldl (fun s d => recallPage s e.1 d false) s) s)
/-- FLR_DRAIN_DEADLINE, at 1 ms: of the host lines still modified, those not written back answer with poison from then
on, pages not returned are lost, and the TDI goes to ERROR; which lines those are is a free choice (R405; log 5). -/
def execFlrDrainDeadline (s : State) : Host.Outcome State Fault Refusal :=
  event (
    if s.flr ≠ .draining then s
    else
      let late := ((List.range s.hostDirty.length).zip s.hostDirty).filter fun x => (Config.freeValue (s.free + x.1)).getLsbD 0
      let s : State := { s with free := s.free + s.hostDirty.length, hostDirty := [], poison := (late.map (·.2)).foldl nins s.poison }
      let s := s.pages.foldl (fun s e => (distinct (e.2.sharers ++ e.2.owner.toList)).foldl (fun s d => losePage s e.1 d) s) s
      let zero := s.tdi == .locked || s.tdi == .run
      let s : State := { s with tdi := .error, ide := [] }
      if zero then { s with flr := .zeroing } else flrEnd s)
/-- FLR_ZERO_DONE: every DRAM line has been zeroed (R405, R414). -/
def execFlrZeroDone (s : State) : Host.Outcome State Fault Refusal :=
  event (
    if s.flr ≠ .zeroing then s
    else flrEnd { s with
      mem := (s.mem.filter fun c => !isDram c.1), poison := s.poison.filter fun l => !isDram (l * 128) })

end Sys2Proof.Machine
end

