-- ==== Sys2Proof/Machine/Integer.lean ====
section
/-! DEFINITION. The integer instructions, moves, literals, addresses and the window (R197 to R209). -/
namespace Sys2Proof.Machine

/-- Applies a value to every lane a per-lane word reaches, or once for the scalar class, with CC where the instruction
writes it (R197, R198). -/
def laneWord (d : Reg) (rs : List Reg) (w : Bool) (cc : Bool) (ivl rdy : Nat) (g : Team → Nat → Nat → IRes) :
    State → Nat → Nat → WRes := fun s tk c =>
  let t := s.team tk
  if scalarClass tk rs then
    let r := g t c 0
    let t := writeRegs t (regW t 0 d (wRes w r.val))
    once (s.setTeam tk (if cc then { t with cc := ccOf w t.cc r } else t)) c ivl rdy
  else
    let p := passesOf t c fun _ _ => ivl
    let res := (activeLanes t).map fun l => (l, { w := regW t l d (wRes w (g t (passCycle p l) l).val) : LaneRes })
    swept (s.setTeam tk (applyLanes t res)) p rdy
/-- Classes of R199: interval and ready figure. -/
def ialu (_ : Bool) : Nat × Nat := (1, 1)
def imulT (w : Bool) : Nat × Nat := if w then (2, 5) else (1, 3)
def idivT (w : Bool) : Nat × Nat := if w then (16, 22) else (8, 12)
/-- Two register sources. -/
def int2 (f : FAW) (cl : Nat × Nat) (g : Bool → Nat → Nat → IRes) : State → Nat → Nat → WRes :=
  laneWord f.d [f.d, f.a, f.b] f.w true cl.1 cl.2 fun t c l => g f.w (readW t c l f.w f.a) (readW t c l f.w f.b)
/-- A register and an immediate. -/
def intImm (f : FBW) (cl : Nat × Nat) (imm : Nat) (g : Bool → Nat → Nat → IRes) : State → Nat → Nat → WRes :=
  laneWord f.d [f.d, f.a] f.w true cl.1 cl.2 fun t c l => g f.w (readW t c l f.w f.a) imm
/-- IMM7 sign-extended to the width (R197), and unsigned for shifts (R202). -/
def sImm (f : FBW) : Nat := (f.i.toInt % (2 ^ wbits f.w : Int)).toNat
/-- One register source. -/
def int1 (f : FAW) (g : Bool → Nat → IRes) : State → Nat → Nat → WRes :=
  laneWord f.d [f.d, f.a] f.w true 1 1 fun t c l => g f.w (readW t c l f.w f.a)
/-- ICMP: T or F in the active lanes; scalar sources also write CC as ISUB does (R206). -/
def icmp (f : FAW) (rel : Bool → Nat → Nat → Bool) : State → Nat → Nat → WRes := fun s tk c =>
  let t := s.team tk
  if scalarClass tk [f.a, f.b] then
    let x := readW t c 0 f.w f.a
    let y := readW t c 0 f.w f.b
    let r := triBool (rel f.w x y)
    let t := writePreds t ((activeLanes t).map fun l => (f.d.toNat, l, r))
    once (s.setTeam tk { t with cc := ccOf f.w t.cc (iSub f.w x y) }) c 1 1
  else
    let p := passesOf t c fun _ _ => 1
    let res := (activeLanes t).map fun l =>
      let k := passCycle p l
      (l, { p := [(f.d.toNat, triBool (rel f.w (readW t k l f.w f.a) (readW t k l f.w f.b)))] : LaneRes })
    swept (s.setTeam tk (applyLanes t res)) p 1

/-- IADD (R200). -/
def execIadd (f : FAW) (s : State) : Host.Outcome State Fault Refusal :=
  word (.iadd f) s [f.a, f.b] (int2 f (ialu f.w) iAdd)
/-- ISUB (R200). -/
def execIsub (f : FAW) (s : State) : Host.Outcome State Fault Refusal :=
  word (.isub f) s [f.a, f.b] (int2 f (ialu f.w) iSub)
/-- IMUL (R200). -/
def execImul (f : FAW) (s : State) : Host.Outcome State Fault Refusal :=
  word (.imul f) s [f.a, f.b] (int2 f (imulT f.w) iMul)
/-- IMULH_I (R200). -/
def execImulhI (f : FAW) (s : State) : Host.Outcome State Fault Refusal :=
  word (.imulhI f) s [f.a, f.b] (int2 f (imulT f.w) iMulhI)
/-- IMULH_N (R200). -/
def execImulhN (f : FAW) (s : State) : Host.Outcome State Fault Refusal :=
  word (.imulhN f) s [f.a, f.b] (int2 f (imulT f.w) iMulhN)
/-- IDIV_I (R201). -/
def execIdivI (f : FAW) (s : State) : Host.Outcome State Fault Refusal :=
  word (.idivI f) s [f.a, f.b] (int2 f (idivT f.w) iDivI)
/-- IDIV_N (R201). -/
def execIdivN (f : FAW) (s : State) : Host.Outcome State Fault Refusal :=
  word (.idivN f) s [f.a, f.b] (int2 f (idivT f.w) iDivN)
/-- IREM_I (R201). -/
def execIremI (f : FAW) (s : State) : Host.Outcome State Fault Refusal :=
  word (.iremI f) s [f.a, f.b] (int2 f (idivT f.w) iRemI)
/-- IREM_N (R201). -/
def execIremN (f : FAW) (s : State) : Host.Outcome State Fault Refusal :=
  word (.iremN f) s [f.a, f.b] (int2 f (idivT f.w) iRemN)
/-- IMIN_I (R200). -/
def execIminI (f : FAW) (s : State) : Host.Outcome State Fault Refusal :=
  word (.iminI f) s [f.a, f.b] (int2 f (ialu f.w) iMinI)
/-- IMIN_N (R200). -/
def execIminN (f : FAW) (s : State) : Host.Outcome State Fault Refusal :=
  word (.iminN f) s [f.a, f.b] (int2 f (ialu f.w) iMinN)
/-- IMAX_I (R200). -/
def execImaxI (f : FAW) (s : State) : Host.Outcome State Fault Refusal :=
  word (.imaxI f) s [f.a, f.b] (int2 f (ialu f.w) iMaxI)
/-- IMAX_N (R200). -/
def execImaxN (f : FAW) (s : State) : Host.Outcome State Fault Refusal :=
  word (.imaxN f) s [f.a, f.b] (int2 f (ialu f.w) iMaxN)
/-- IADDS_I (R200). -/
def execIaddsI (f : FAW) (s : State) : Host.Outcome State Fault Refusal :=
  word (.iaddsI f) s [f.a, f.b] (int2 f (ialu f.w) iAddsI)
/-- IADDS_N (R200). -/
def execIaddsN (f : FAW) (s : State) : Host.Outcome State Fault Refusal :=
  word (.iaddsN f) s [f.a, f.b] (int2 f (ialu f.w) iAddsN)
/-- ISUBS_I (R200). -/
def execIsubsI (f : FAW) (s : State) : Host.Outcome State Fault Refusal :=
  word (.isubsI f) s [f.a, f.b] (int2 f (ialu f.w) iSubsI)
/-- ISUBS_N (R200). -/
def execIsubsN (f : FAW) (s : State) : Host.Outcome State Fault Refusal :=
  word (.isubsN f) s [f.a, f.b] (int2 f (ialu f.w) iSubsN)
/-- AND (R202). -/
def execAndR (f : FAW) (s : State) : Host.Outcome State Fault Refusal :=
  word (.andR f) s [f.a, f.b] (int2 f (ialu f.w) iAnd)
/-- OR (R202). -/
def execOrR (f : FAW) (s : State) : Host.Outcome State Fault Refusal :=
  word (.orR f) s [f.a, f.b] (int2 f (ialu f.w) iOr)
/-- XOR (R202). -/
def execXorR (f : FAW) (s : State) : Host.Outcome State Fault Refusal :=
  word (.xorR f) s [f.a, f.b] (int2 f (ialu f.w) iXor)
/-- ANDN (R202). -/
def execAndn (f : FAW) (s : State) : Host.Outcome State Fault Refusal :=
  word (.andn f) s [f.a, f.b] (int2 f (ialu f.w) iAndn)
/-- ROL (R202). -/
def execRol (f : FAW) (s : State) : Host.Outcome State Fault Refusal :=
  word (.rol f) s [f.a, f.b] (int2 f (ialu f.w) iRol)
/-- ROR (R202). -/
def execRor (f : FAW) (s : State) : Host.Outcome State Fault Refusal :=
  word (.ror f) s [f.a, f.b] (int2 f (ialu f.w) iRor)
/-- IMAD reads its destination (R200). -/
def execImad (f : FAW) (s : State) : Host.Outcome State Fault Refusal :=
  word (.imad f) s [f.d, f.a, f.b] (laneWord f.d [f.d, f.a, f.b] f.w true (imulT f.w).1 (imulT f.w).2 fun t c l =>
    iMad f.w (readW t c l f.w f.d) (readW t c l f.w f.a) (readW t c l f.w f.b))
/-- SHL: the amount is bits [7:0] of b (R202). -/
def execShl (f : FAW) (s : State) : Host.Outcome State Fault Refusal :=
  word (.shl f) s [f.a, f.b] (laneWord f.d [f.d, f.a, f.b] f.w true 1 1 fun t c l =>
    iShl f.w (readW t c l f.w f.a) ((readReg t c l f.b).toNat % 256))
/-- SHR: the amount is bits [7:0] of b (R202). -/
def execShr (f : FAW) (s : State) : Host.Outcome State Fault Refusal :=
  word (.shr f) s [f.a, f.b] (laneWord f.d [f.d, f.a, f.b] f.w true 1 1 fun t c l =>
    iShr f.w (readW t c l f.w f.a) ((readReg t c l f.b).toNat % 256))
/-- SAR: the amount is bits [7:0] of b (R202). -/
def execSar (f : FAW) (s : State) : Host.Outcome State Fault Refusal :=
  word (.sar f) s [f.a, f.b] (laneWord f.d [f.d, f.a, f.b] f.w true 1 1 fun t c l =>
    iSar f.w (readW t c l f.w f.a) ((readReg t c l f.b).toNat % 256))
/-- INEG (R203). -/
def execIneg (f : FAW) (s : State) : Host.Outcome State Fault Refusal :=
  word (.ineg f) s [f.a] (int1 f iNeg)
/-- IABS (R203). -/
def execIabs (f : FAW) (s : State) : Host.Outcome State Fault Refusal :=
  word (.iabs f) s [f.a] (int1 f iAbs)
/-- NOT (R203). -/
def execNotR (f : FAW) (s : State) : Host.Outcome State Fault Refusal :=
  word (.notR f) s [f.a] (int1 f (fun w a => iRes w ((iNot w a : Nat) : Int) false false))
/-- POPC (R203). -/
def execPopc (f : FAW) (s : State) : Host.Outcome State Fault Refusal :=
  word (.popc f) s [f.a] (int1 f iPopc)
/-- CLZ (R203). -/
def execClz (f : FAW) (s : State) : Host.Outcome State Fault Refusal :=
  word (.clz f) s [f.a] (int1 f iClz)
/-- CTZ (R203). -/
def execCtz (f : FAW) (s : State) : Host.Outcome State Fault Refusal :=
  word (.ctz f) s [f.a] (int1 f iCtz)
/-- BREV (R203). -/
def execBrev (f : FAW) (s : State) : Host.Outcome State Fault Refusal :=
  word (.brev f) s [f.a] (int1 f iBrev)
/-- IADD_IMM (R200, R202). -/
def execIaddImm (f : FBW) (s : State) : Host.Outcome State Fault Refusal :=
  word (.iaddImm f) s [f.a] (intImm f (ialu f.w) (sImm f) iAdd)
/-- ISUB_IMM (R200, R202). -/
def execIsubImm (f : FBW) (s : State) : Host.Outcome State Fault Refusal :=
  word (.isubImm f) s [f.a] (intImm f (ialu f.w) (sImm f) iSub)
/-- IMUL_IMM (R200, R202). -/
def execImulImm (f : FBW) (s : State) : Host.Outcome State Fault Refusal :=
  word (.imulImm f) s [f.a] (intImm f (imulT f.w) (sImm f) iMul)
/-- AND_IMM (R200, R202). -/
def execAndImm (f : FBW) (s : State) : Host.Outcome State Fault Refusal :=
  word (.andImm f) s [f.a] (intImm f (ialu f.w) (sImm f) iAnd)
/-- OR_IMM (R200, R202). -/
def execOrImm (f : FBW) (s : State) : Host.Outcome State Fault Refusal :=
  word (.orImm f) s [f.a] (intImm f (ialu f.w) (sImm f) iOr)
/-- XOR_IMM (R200, R202). -/
def execXorImm (f : FBW) (s : State) : Host.Outcome State Fault Refusal :=
  word (.xorImm f) s [f.a] (intImm f (ialu f.w) (sImm f) iXor)
/-- SHL_IMM (R202). -/
def execShlImm (f : FBW) (s : State) : Host.Outcome State Fault Refusal :=
  word (.shlImm f) s [f.a] (intImm f (ialu f.w) f.i.toNat iShl)
/-- SHR_IMM (R202). -/
def execShrImm (f : FBW) (s : State) : Host.Outcome State Fault Refusal :=
  word (.shrImm f) s [f.a] (intImm f (ialu f.w) f.i.toNat iShr)
/-- SAR_IMM (R202). -/
def execSarImm (f : FBW) (s : State) : Host.Outcome State Fault Refusal :=
  word (.sarImm f) s [f.a] (intImm f (ialu f.w) f.i.toNat iSar)
/-- ICMP_EQ (R206). -/
def execIcmpEq (f : FAW) (s : State) : Host.Outcome State Fault Refusal :=
  word (.icmpEq f) s [f.a, f.b] (icmp f (fun _ x y => x == y))
/-- ICMP_NE (R206). -/
def execIcmpNe (f : FAW) (s : State) : Host.Outcome State Fault Refusal :=
  word (.icmpNe f) s [f.a, f.b] (icmp f (fun _ x y => x != y))
/-- ICMP_LT_I (R206). -/
def execIcmpLtI (f : FAW) (s : State) : Host.Outcome State Fault Refusal :=
  word (.icmpLtI f) s [f.a, f.b] (icmp f (fun w x y => decide (sgn w x < sgn w y)))
/-- ICMP_LE_I (R206). -/
def execIcmpLeI (f : FAW) (s : State) : Host.Outcome State Fault Refusal :=
  word (.icmpLeI f) s [f.a, f.b] (icmp f (fun w x y => decide (sgn w x ≤ sgn w y)))
/-- ICMP_GT_I (R206). -/
def execIcmpGtI (f : FAW) (s : State) : Host.Outcome State Fault Refusal :=
  word (.icmpGtI f) s [f.a, f.b] (icmp f (fun w x y => decide (sgn w y < sgn w x)))
/-- ICMP_GE_I (R206). -/
def execIcmpGeI (f : FAW) (s : State) : Host.Outcome State Fault Refusal :=
  word (.icmpGeI f) s [f.a, f.b] (icmp f (fun w x y => decide (sgn w y ≤ sgn w x)))
/-- ICMP_LT_N (R206). -/
def execIcmpLtN (f : FAW) (s : State) : Host.Outcome State Fault Refusal :=
  word (.icmpLtN f) s [f.a, f.b] (icmp f (fun _ x y => decide (x < y)))
/-- ICMP_LE_N (R206). -/
def execIcmpLeN (f : FAW) (s : State) : Host.Outcome State Fault Refusal :=
  word (.icmpLeN f) s [f.a, f.b] (icmp f (fun _ x y => decide (x ≤ y)))
/-- ICMP_GT_N (R206). -/
def execIcmpGtN (f : FAW) (s : State) : Host.Outcome State Fault Refusal :=
  word (.icmpGtN f) s [f.a, f.b] (icmp f (fun _ x y => decide (y < x)))
/-- ICMP_GE_N (R206). -/
def execIcmpGeN (f : FAW) (s : State) : Host.Outcome State Fault Refusal :=
  word (.icmpGeN f) s [f.a, f.b] (icmp f (fun _ x y => decide (y ≤ x)))
/-- The pass width of a register that a MOV.KILL cleared in a mask word is returned (R66). -/
def killAlloc (t : Team) (r : Reg) : Team :=
  if isV r then
    let a := aReg t r
    { t with alloc := t.alloc.filter fun x => !(x.1 / 32 == a && (List.range 32).all fun b =>
        tget 0 t.v (vKey a (x.1 % 32 * 32 + b)) == 0) }
  else { t with salloc := tdel t.salloc (regNum r) }
/-- MOV.KILL (R66). -/
def execMovKill (f : FA) (s : State) : Host.Outcome State Fault Refusal :=
  word (.movKill f) s [] fun s tk c =>
    match laneWord f.d [f.d] true false 1 1 (fun _ _ _ => ⟨0, false, false⟩) s tk c with
    | .done s a b r => .done (s.modTeam tk fun t => killAlloc t f.d) a b r
    | r => r
/-- MOV (R207). -/
def execMov (f : FAW) (s : State) : Host.Outcome State Fault Refusal :=
  word (.mov f) s [f.a] (laneWord f.d [f.d, f.a] f.w false 1 1 fun t c l => ⟨readW t c l f.w f.a, false, false⟩)
/-- BFX (R204). -/
def execBfx (f : FAWX) (s : State) : Host.Outcome State Fault Refusal :=
  word (.bfx f) s [f.a] (laneWord f.d [f.d, f.a] f.w true 1 1 fun t c l =>
    iBfx f.w (f.x.getLsbD 16) (readW t c l f.w f.a) (f.x.toNat % 64) (f.x.toNat / 256 % 128))
/-- BFI reads its destination (R204). -/
def execBfi (f : FAWX) (s : State) : Host.Outcome State Fault Refusal :=
  word (.bfi f) s [f.d, f.a] (laneWord f.d [f.d, f.a] f.w true 1 1 fun t c l =>
    iBfi f.w (readW t c l f.w f.d) (readW t c l f.w f.a) (f.x.toNat % 64) (f.x.toNat / 256 % 128))
/-- SEL (R205). Where .UK keeps the destination, a .32 form keeps all its 64 bits (R197 does not say: DESIGN CHOICE,
log 97). -/
def execSel (f : FAWX) (s : State) : Host.Outcome State Fault Refusal :=
  word (.sel f) s [f.a, f.b] fun s tk c =>
    let t := s.team tk
    let p := passesOf t c fun _ _ => 1
    let pr : Reg := f.x.extractLsb' 0 7
    let um := f.x.toNat / 256 % 4
    let res := (activeLanes t).map fun l =>
      let k := passCycle p l
      let a := wRes f.w (readW t k l f.w f.a)
      let b := wRes f.w (readW t k l f.w f.b)
      (l, match readPred t l pr with
          | .t => ({ w := regW t l f.d a } : LaneRes)
          | .f => { w := regW t l f.d b }
          | .u => if um = 0 then {} else { w := regW t l f.d (if um = 1 then a else b) })
    swept (s.setTeam tk (applyLanes t res)) p 1
/-- MOVI (R207). -/
def execMovi (f : FCW) (s : State) : Host.Outcome State Fault Refusal :=
  word (.movi f) s [] (laneWord f.d [f.d] f.w false 1 1 fun _ _ _ =>
    ⟨(f.i.toInt % (2 ^ wbits f.w : Int)).toNat, false, false⟩)
/-- MOVL (R207). -/
def execMovl (f : FM) (s : State) : Host.Outcome State Fault Refusal :=
  word (.movl f) s [] (laneWord f.d [f.d] f.w false 1 1 fun _ _ _ =>
    ⟨if f.w then f.lo.toNat + 2 ^ 32 * f.hi.toNat else f.lo.toNat, false, false⟩)
/-- LEA (R208). -/
def execLea (f : FE) (s : State) : Host.Outcome State Fault Refusal :=
  word (.lea f) s [f.a, f.b] (laneWord f.d [f.d, f.a, f.b] true false 1 1 fun t c l =>
    ⟨((readReg t c l f.a) + (readReg t c l f.b <<< f.sh.toNat)).toNat, false, false⟩)
/-- WBASE with an immediate (R209). -/
def execWbaseImm (f : FC) (s : State) : Host.Outcome State Fault Refusal :=
  word (.wbaseImm f) s [] fun s tk c => once (s.modTeam tk fun t => { t with wb := f.i.toNat / 32 }) c 1 1
/-- WBASE from a register: a bad value raises ILLEGAL and changes nothing (R63, R209). -/
def execWbaseReg (f : FA) (s : State) : Host.Outcome State Fault Refusal :=
  word (.wbaseReg f) s [f.a] fun s tk c =>
    let v := (readReg (s.team tk) c 0 f.a).toNat
    if v % 32 = 0 ∧ v ≤ 416 then once (s.modTeam tk fun t => { t with wb := v / 32 }) c 1 1 else trapAt s tk cILLEGAL

end Sys2Proof.Machine
end

