-- ==== Sys2Proof/Machine/Lanes.lean ====
section
/-! DEFINITION. Reductions, scans, shuffles and quad exchange (R243 to R248). -/
namespace Sys2Proof.Machine

/-- One step of an integer reduction at a width (R244). -/
def rediStep (op : Nat) (w : Bool) (a b : Nat) : Nat :=
  (match op with
   | 0 => iAdd w a b
   | 1 => iMinI w a b
   | 2 => iMinN w a b
   | 3 => iMaxI w a b
   | 4 => iMaxN w a b
   | 5 => iAnd w a b
   | 6 => iOr w a b
   | _ => iXor w a b).val
/-- The identities of R244. -/
def rediId (op : Nat) (w : Bool) : Nat :=
  match op with
  | 1 => 2 ^ (wbits w - 1) - 1
  | 2 => 2 ^ wbits w - 1
  | 3 => 2 ^ (wbits w - 1)
  | 5 => 2 ^ wbits w - 1
  | _ => 0
/-- The first value of a fold stands for itself. -/
def foldFirst {α : Type} (g : α → α → α) (e : α) : List α → α
  | [] => e
  | x :: r => r.foldl g x
/-- One step of an interval reduction, flags gathered (R245). -/
def redfStep (f : Fmt) (op : Nat) (a b : IvRes) : IvRes :=
  let x := (readIv f a.lo a.hi).1
  let y := (readIv f b.lo b.hi).1
  let r := match op with
    | 0 => fAdd f x y
    | 1 => fMin f x y
    | 2 => fMax f x y
    | 3 => fHull f x y
    | _ => fMeet f x y
  { r with fl := r.fl ||| a.fl ||| b.fl }
/-- The identities of R245. -/
def redfId (f : Fmt) (op : Nat) : IvRes :=
  match op with
  | 0 => writeIv f (IV.point Q.zero)
  | 4 => writeIv f IV.entire
  | _ => emptyRes f
/-- A lane's interval source as a fold takes it, with the flags of its reading. -/
def redfSrc (w : Bool) (t : Team) (c l : Nat) (r : Reg) : IvRes :=
  let x := readIvReg t c l w r
  let y := writeIv (fmtOf w) x.1
  { y with fl := y.fl ||| x.2 }
/-- REDI (R244). -/
def execRedi (f : FA) (s : State) : Host.Outcome State Fault Refusal :=
  word (.redi f) s [f.a] fun s tk c =>
    let t := s.team tk
    let w := f.b.getLsbD 3
    let op := f.b.toNat % 8
    let p := passesOf t c fun _ _ => 1
    let r := foldFirst (rediStep op w) (rediId op w) ((liveActive t).map fun l => readW t (passCycle p l) l w f.a)
    if isS f.d then
      let t' := writeRegs t (regW t 0 f.d (wRes w r))
      swept (s.setTeam tk { t' with cc := ccOf w t.cc ⟨r, false, false⟩ }) p 8
    else swept (s.setTeam tk (applyLanes t ((activeLanes t).map fun l => (l, { w := regW t l f.d (wRes w r) : LaneRes })))) p 8
/-- REDF (R245). -/
def execRedf (f : FA) (s : State) : Host.Outcome State Fault Refusal :=
  word (.redf f) s (pairRegs (f.b.getLsbD 3) f.a) fun s tk c =>
    let t := s.team tk
    let w := f.b.getLsbD 3
    let op := f.b.toNat % 8
    let fm := fmtOf w
    let p := passesOf t c fun _ _ => if w then 4 else 1
    let r := foldFirst (redfStep fm op) (redfId fm op) ((liveActive t).map fun l => redfSrc w t (passCycle p l) l f.a)
    let rdy := if w then 14 else 8
    let flags := fun (t' : Team) => if r.fl == 0 then t' else raiseFlags t' ((activeLanes t).map fun l => (l, r.fl))
    if isS f.d then swept (s.setTeam tk (flags (writeRegs t (ivW t 0 w f.d r)))) p rdy
    else swept (s.setTeam tk (flags (applyLanes t ((activeLanes t).map fun l => (l, { w := ivW t l w f.d r : LaneRes }))))) p rdy
/-- The contributing lanes of a lane's scan (R246). -/
def scanLanes (ex : Bool) (l : Nat) (contrib : List Nat) : List Nat := contrib.filter fun k => decide (k < l) || (!ex && k == l)
/-- SCAN (R246). -/
def execScan (f : FA) (s : State) : Host.Outcome State Fault Refusal :=
  word (.scan f) s (pairRegs (f.b.toNat / 8 % 4 == 3) f.a) fun s tk c =>
    let t := s.team tk
    let ty := f.b.toNat / 8 % 4
    let w := ty % 2 == 1
    let op := f.b.toNat % 8
    let ex := f.b.getLsbD 5
    let p := passesOf t c fun _ _ => if ty = 3 then 4 else 1
    let rdy := if ty = 3 then 14 else 8
    let contrib := liveActive t
    if ty < 2 then
      let vals := contrib.map fun l => (l, readW t (passCycle p l) l w f.a)
      let res := (activeLanes t).map fun l =>
        let r := foldFirst (rediStep op w) (rediId op w) ((vals.filter fun x => decide (x.1 < l) || (!ex && x.1 == l)).map (·.2))
        (l, { w := regW t l f.d (wRes w r) : LaneRes })
      swept (s.setTeam tk (applyLanes t res)) p rdy
    else
      let fm := fmtOf w
      let vals := contrib.map fun l => (l, redfSrc w t (passCycle p l) l f.a)
      let res := (activeLanes t).map fun l =>
        let r := foldFirst (redfStep fm op) (redfId fm op) ((vals.filter fun x => decide (x.1 < l) || (!ex && x.1 == l)).map (·.2))
        (l, { w := ivW t l w f.d r, fl := r.fl : LaneRes })
      swept (s.setTeam tk (applyLanes t res)) p rdy
/-- A lane's register as an exchange sees it: 0 where the lane is vacant (R18, R247). -/
def laneSource (t : Team) (c l : Nat) (r : Reg) : Word := if (occupied t).getLsbD l then readReg t c l r else 0
/-- SHFL (R247). -/
def execShfl (f : FA) (s : State) : Host.Outcome State Fault Refusal :=
  word (.shfl f) s [f.a, f.b] fun s tk c =>
    let t := s.team tk
    let p := passesOf t c fun _ _ => if t.width ≤ 32 then 1 else 2
    let res := (activeLanes t).map fun l =>
      let k := passCycle p l
      let src := (readReg t k l f.b).toNat % 2 ^ 32
      (l, { w := regW t l f.d (if t.width ≤ src then 0 else laneSource t k src f.a) : LaneRes })
    swept (s.setTeam tk (applyLanes t res)) p (if t.width ≤ 32 then 4 else 6)
/-- QXCH (R18, R248). -/
def execQxch (f : FA) (s : State) : Host.Outcome State Fault Refusal :=
  word (.qxch f) s [f.a] fun s tk c =>
    let t := s.team tk
    let p := passesOf t c fun _ _ => 1
    let res := (activeLanes t).map fun l =>
      let i := l % 4
      let j := match f.b.toNat with | 0 => i ^^^ 1 | 1 => i ^^^ 2 | 2 => i ^^^ 3 | _ => (i + 1) % 4
      (l, { w := regW t l f.d (laneSource t (passCycle p l) (l / 4 * 4 + j) f.a) : LaneRes })
    swept (s.setTeam tk (applyLanes t res)) p 2
/-- QBC (R18, R248). -/
def execQbc (f : FA) (s : State) : Host.Outcome State Fault Refusal :=
  word (.qbc f) s [f.a] fun s tk c =>
    let t := s.team tk
    let p := passesOf t c fun _ _ => 1
    let res := (activeLanes t).map fun l =>
      (l, { w := regW t l f.d (laneSource t (passCycle p l) (l / 4 * 4 + f.b.toNat % 4) f.a) : LaneRes })
    swept (s.setTeam tk (applyLanes t res)) p 2

end Sys2Proof.Machine
end

