-- ==== Sys2Proof/Machine/System.lean ====
section
/-! DEFINITION. The status registers and the register accesses of controllers (R5, R14, R72, R73, R77, R133, R139, R311 to
R314). -/
namespace Sys2Proof.Machine

/-- Status registers that read at handler level only (R312). -/
def srHandler (n : Nat) : Bool := decide (0x20 ≤ n) && decide (n ≤ 0x29)
/-- A status register that each lane has for itself (R311). -/
def srLane (n : Nat) : Bool := n == 0x05 || n == 0x10
/-- PMAX of a team's grid (R139). -/
def pmaxOf (s : State) (tk : Nat) : Nat := ((teamGrid s tk).map fun q => lrPmax q.lrec).getD 0
/-- A uniform status register as an agent reads it at a cycle (R14, R312, R313). -/
def srRead (s : State) (tk c n : Nat) : Word :=
  let t := s.team tk
  let g := teamGroup s tk
  let q := teamGrid s tk
  let ofG := fun (f : Group → Nat) => BitVec.ofNat 64 (((g.map f).getD 0) % 2 ^ 32)
  let ofQ := fun (f : Grid → Nat) => BitVec.ofNat 64 (((q.map f).getD 0) % 2 ^ 32)
  match n with
  | 0x00 => BitVec.ofNat 64 (featOf s)
  | 0x01 => BitVec.ofNat 64 (stashCapOf s)
  | 0x02 => BitVec.ofNat 64 c
  | 0x03 => tswBits t
  | 0x04 => BitVec.ofNat 64 (ccBits t.cc)
  | 0x06 => t.plim.setWidth 64
  | 0x07 => BitVec.ofNat 64 (pmaxOf s tk)
  | 0x11 => BitVec.ofNat 64 t.width
  | 0x12 => BitVec.ofNat 64 t.teami
  | 0x13 => ofG (·.nteam)
  | 0x14 => ofG (·.gx)
  | 0x15 => ofG (·.gy)
  | 0x16 => ofG (·.gz)
  | 0x17 => ofQ fun q => lrGdimx q.lrec
  | 0x18 => ofQ fun q => lrGdimy q.lrec
  | 0x19 => ofQ (·.gdimz)
  | 0x1A => ofG (·.clpos)
  | 0x1B => BitVec.ofNat 64 (teamCore s tk % Config.coresPerDie)
  | 0x1C => BitVec.ofNat 64 (dieOfCore (teamCore s tk))
  | 0x20 => t.ssw
  | 0x21 => t.spc
  | 0x22 => t.scause.setWidth 64
  | 0x23 => t.saddr
  | 0x24 => t.sinfo
  | 0x25 => t.hvec
  | 0x26 | 0x27 | 0x28 | 0x29 => tget 0 t.hs (n - 0x26)
  | 0x30 => BitVec.ofNat 64 (tk - 2 ^ 60)
  | _ => 0
/-- A per-lane status register (R14, R72). -/
def srReadLane (t : Team) (l n : Nat) : Word := if n = 0x10 then BitVec.ofNat 64 l else (tget 0 t.fl l).setWidth 64
/-- RDSR (R311, R312). -/
def execRdsr (f : FC) (s : State) : Host.Outcome State Fault Refusal :=
  word (.rdsr f) s [] fun s tk c =>
    let t := s.team tk
    let n := f.i.toNat
    if srHandler n && !t.lvl then trapAt s tk cILLEGAL
    else if srLane n then
      swept (s.setTeam tk (applyLanes t ((activeLanes t).map fun l => (l, { w := regW t l f.d (srReadLane t l n) : LaneRes }))))
        (passesOf t c fun _ _ => 1) 1
    else
      let x := srRead s tk c n
      let w := if isS f.d || isCtl tk then regW t 0 f.d x
        else (activeLanes t).foldl (fun w l => w.append (regW t l f.d x)) {}
      once (s.setTeam tk (writeRegs t w)) c 1 1

/-- A write of a uniform status register; none: its access column does not allow it (R139, R310 to R312). -/
def srWrite (s : State) (tk n : Nat) (x : Word) : Option Team :=
  let t := s.team tk
  match n with
  | 0x00 => some t
  | 0x04 => some { t with cc := ccFrom x.toNat }
  | 0x06 => if t.lvl then some { t with plim := BitVec.ofNat 32 (min (x.toNat % 2 ^ 32) (pmaxOf s tk)) } else none
  | 0x20 => if t.lvl then some { t with ssw := (t.ssw &&& 0x3FFFFFF0FF) ||| (x &&& 0xFFFFFFC000000F00) } else none
  | 0x21 => if t.lvl then some { t with spc := x, spcW := true } else none
  | 0x26 | 0x27 | 0x28 | 0x29 => if t.lvl then some { t with hs := tset 0 t.hs (n - 0x26) x } else none
  | _ => none
/-- WRSR (R311, R312). -/
def execWrsr (f : FC) (s : State) : Host.Outcome State Fault Refusal :=
  word (.wrsr f) s [f.d] fun s tk c =>
    let t := s.team tk
    let n := f.i.toNat
    if n = 0x05 then
      let p := passesOf t c fun _ _ => 1
      let fl := (activeLanes t).foldl (fun m l => tset 0 m l ((readReg t (passCycle p l) l f.d).setWidth 5)) t.fl
      swept (s.setTeam tk { t with fl := fl }) p 1
    else match srWrite s tk n (readReg t c 0 f.d) with
      | some t => once (s.setTeam tk t) c 1 1
      | none => trapAt s tk cILLEGAL

/-- Bytes of an LDIO or STIO (R314). -/
def ioBytes (sz : BitVec 4) : Nat := if sz.toNat = 6 then 8 else 4
/-- Whether an address is a register that the controller may access: in the window, aligned, and granted by the access
table of its block; the fuses and the flash are the lockkeeper's alone (R119, R314, R400, R416, R420). -/
def ioOk (s : State) (c a n : Nat) (write : Bool) : Bool :=
  decide (regBase ≤ a) && decide (a + n ≤ regBase + 2 ^ 32) && a % n == 0 &&
  (c == 0 || match (if lockOnly (regAt (a / 8 * 8)).2 then none else (regAt (a / 8 * 8)).1) with
    | some t => accessOk s t ⟨1, c⟩ a write
    | none => false)
/-- LDIO (R314). -/
def execLdio (f : FL) (s : State) : Host.Outcome State Fault Refusal :=
  word (.ldio f) s [f.a] fun s tk c =>
    let t := s.team tk
    let k := tk - 2 ^ 60
    let a := (readReg t c 0 f.a).toNat
    let n := ioBytes f.sz
    if tokBusy t f.k then .hold s
    else if !ioOk s k a n false then .trap s cACCESS (BitVec.ofNat 64 a) 0 0 0
    else
      let x := leVal (regBytesRead s ⟨1, k⟩ (fun b => (regAt b).2) a n)
      let t := putInflight t (some f.k.toNat) .arrival false [] (lateS (regW t 0 f.d (BitVec.ofNat 64 x)) 0) [] none
      once (s.setTeam tk t) c 1 1
/-- STIO (R314). -/
def execStio (f : FL) (s : State) : Host.Outcome State Fault Refusal :=
  word (.stio f) s [f.d, f.a] fun s tk c =>
    let t := s.team tk
    let k := tk - 2 ^ 60
    let a := (readReg t c 0 f.a).toNat
    let n := ioBytes f.sz
    if tokBusy t f.k then .hold s
    else if !ioOk s k a n true then .trap s cACCESS (BitVec.ofNat 64 a) 0 0 1
    else
      let v := readReg t c 0 f.d
      let t := putInflight t (some f.k.toNat) .arrival false [] [] [] none
      once (regBytesWrite (s.setTeam tk t) ⟨1, k⟩ (fun b => (regAt b).2) a (leBytes n v.toNat)) c 1 1

end Sys2Proof.Machine
end

