-- ==== Sys2Proof/Machine/Dispatch.lean ====
section
/-! DEFINITION. One arm per instruction and per machine event: each calls its meaning. -/
namespace Sys2Proof.Machine

def exec (i : Instr) (s : State) : Host.Outcome State Fault Refusal :=
  match i with
  | .iadd f => Sys2Proof.Machine.execIadd f s
  | .isub f => Sys2Proof.Machine.execIsub f s
  | .imul f => Sys2Proof.Machine.execImul f s
  | .imulhI f => Sys2Proof.Machine.execImulhI f s
  | .imulhN f => Sys2Proof.Machine.execImulhN f s
  | .imad f => Sys2Proof.Machine.execImad f s
  | .idivI f => Sys2Proof.Machine.execIdivI f s
  | .idivN f => Sys2Proof.Machine.execIdivN f s
  | .iremI f => Sys2Proof.Machine.execIremI f s
  | .iremN f => Sys2Proof.Machine.execIremN f s
  | .iminI f => Sys2Proof.Machine.execIminI f s
  | .iminN f => Sys2Proof.Machine.execIminN f s
  | .imaxI f => Sys2Proof.Machine.execImaxI f s
  | .imaxN f => Sys2Proof.Machine.execImaxN f s
  | .iaddsI f => Sys2Proof.Machine.execIaddsI f s
  | .iaddsN f => Sys2Proof.Machine.execIaddsN f s
  | .isubsI f => Sys2Proof.Machine.execIsubsI f s
  | .isubsN f => Sys2Proof.Machine.execIsubsN f s
  | .andR f => Sys2Proof.Machine.execAndR f s
  | .orR f => Sys2Proof.Machine.execOrR f s
  | .xorR f => Sys2Proof.Machine.execXorR f s
  | .andn f => Sys2Proof.Machine.execAndn f s
  | .shl f => Sys2Proof.Machine.execShl f s
  | .shr f => Sys2Proof.Machine.execShr f s
  | .sar f => Sys2Proof.Machine.execSar f s
  | .rol f => Sys2Proof.Machine.execRol f s
  | .ror f => Sys2Proof.Machine.execRor f s
  | .ineg f => Sys2Proof.Machine.execIneg f s
  | .iabs f => Sys2Proof.Machine.execIabs f s
  | .notR f => Sys2Proof.Machine.execNotR f s
  | .popc f => Sys2Proof.Machine.execPopc f s
  | .clz f => Sys2Proof.Machine.execClz f s
  | .ctz f => Sys2Proof.Machine.execCtz f s
  | .brev f => Sys2Proof.Machine.execBrev f s
  | .movKill f => Sys2Proof.Machine.execMovKill f s
  | .mov f => Sys2Proof.Machine.execMov f s
  | .bfx f => Sys2Proof.Machine.execBfx f s
  | .bfi f => Sys2Proof.Machine.execBfi f s
  | .sel f => Sys2Proof.Machine.execSel f s
  | .icmpEq f => Sys2Proof.Machine.execIcmpEq f s
  | .icmpNe f => Sys2Proof.Machine.execIcmpNe f s
  | .icmpLtI f => Sys2Proof.Machine.execIcmpLtI f s
  | .icmpLeI f => Sys2Proof.Machine.execIcmpLeI f s
  | .icmpGtI f => Sys2Proof.Machine.execIcmpGtI f s
  | .icmpGeI f => Sys2Proof.Machine.execIcmpGeI f s
  | .icmpLtN f => Sys2Proof.Machine.execIcmpLtN f s
  | .icmpLeN f => Sys2Proof.Machine.execIcmpLeN f s
  | .icmpGtN f => Sys2Proof.Machine.execIcmpGtN f s
  | .icmpGeN f => Sys2Proof.Machine.execIcmpGeN f s
  | .iaddImm f => Sys2Proof.Machine.execIaddImm f s
  | .isubImm f => Sys2Proof.Machine.execIsubImm f s
  | .imulImm f => Sys2Proof.Machine.execImulImm f s
  | .andImm f => Sys2Proof.Machine.execAndImm f s
  | .orImm f => Sys2Proof.Machine.execOrImm f s
  | .xorImm f => Sys2Proof.Machine.execXorImm f s
  | .shlImm f => Sys2Proof.Machine.execShlImm f s
  | .shrImm f => Sys2Proof.Machine.execShrImm f s
  | .sarImm f => Sys2Proof.Machine.execSarImm f s
  | .movi f => Sys2Proof.Machine.execMovi f s
  | .movl f => Sys2Proof.Machine.execMovl f s
  | .wbaseImm f => Sys2Proof.Machine.execWbaseImm f s
  | .wbaseReg f => Sys2Proof.Machine.execWbaseReg f s
  | .lea f => Sys2Proof.Machine.execLea f s
  | .fadd f => Sys2Proof.Machine.execFadd f s
  | .fsub f => Sys2Proof.Machine.execFsub f s
  | .fmul f => Sys2Proof.Machine.execFmul f s
  | .fdiv f => Sys2Proof.Machine.execFdiv f s
  | .fdiv2 f => Sys2Proof.Machine.execFdiv2 f s
  | .ffma f => Sys2Proof.Machine.execFfma f s
  | .fmin f => Sys2Proof.Machine.execFmin f s
  | .fmax f => Sys2Proof.Machine.execFmax f s
  | .fhull f => Sys2Proof.Machine.execFhull f s
  | .fmeet f => Sys2Proof.Machine.execFmeet f s
  | .fmake f => Sys2Proof.Machine.execFmake f s
  | .fneg f => Sys2Proof.Machine.execFneg f s
  | .fabs f => Sys2Proof.Machine.execFabs f s
  | .fsqr f => Sys2Proof.Machine.execFsqr f s
  | .fsqrt f => Sys2Proof.Machine.execFsqrt f s
  | .frcp f => Sys2Proof.Machine.execFrcp f s
  | .frsq f => Sys2Proof.Machine.execFrsq f s
  | .fexp f => Sys2Proof.Machine.execFexp f s
  | .fexp2 f => Sys2Proof.Machine.execFexp2 f s
  | .flog f => Sys2Proof.Machine.execFlog f s
  | .flog2 f => Sys2Proof.Machine.execFlog2 f s
  | .fsin f => Sys2Proof.Machine.execFsin f s
  | .fcos f => Sys2Proof.Machine.execFcos f s
  | .ftanh f => Sys2Proof.Machine.execFtanh f s
  | .flo f => Sys2Proof.Machine.execFlo f s
  | .fhi f => Sys2Proof.Machine.execFhi f s
  | .fmid f => Sys2Proof.Machine.execFmid f s
  | .frad f => Sys2Proof.Machine.execFrad f s
  | .fwid f => Sys2Proof.Machine.execFwid f s
  | .fbis f => Sys2Proof.Machine.execFbis f s
  | .fcmpLt f => Sys2Proof.Machine.execFcmpLt f s
  | .fcmpLe f => Sys2Proof.Machine.execFcmpLe f s
  | .fcmpGt f => Sys2Proof.Machine.execFcmpGt f s
  | .fcmpGe f => Sys2Proof.Machine.execFcmpGe f s
  | .fcmpEq f => Sys2Proof.Machine.execFcmpEq f s
  | .fcmpNe f => Sys2Proof.Machine.execFcmpNe f s
  | .fcmpSub f => Sys2Proof.Machine.execFcmpSub f s
  | .fcmpIn f => Sys2Proof.Machine.execFcmpIn f s
  | .fcmpDis f => Sys2Proof.Machine.execFcmpDis f s
  | .fclass f => Sys2Proof.Machine.execFclass f s
  | .cvtf f => Sys2Proof.Machine.execCvtf f s
  | .cvti f => Sys2Proof.Machine.execCvti f s
  | .cvfi f => Sys2Proof.Machine.execCvfi f s
  | .cbx f => Sys2Proof.Machine.execCbx f s
  | .cbq f => Sys2Proof.Machine.execCbq f s
  | .cbld f => Sys2Proof.Machine.execCbld f s
  | .bra f => Sys2Proof.Machine.execBra f s
  | .brc f => Sys2Proof.Machine.execBrc f s
  | .bmz f => Sys2Proof.Machine.execBmz f s
  | .bmnz f => Sys2Proof.Machine.execBmnz f s
  | .call f => Sys2Proof.Machine.execCall f s
  | .ret f => Sys2Proof.Machine.execRet f s
  | .jmpi f => Sys2Proof.Machine.execJmpi f s
  | .exit f => Sys2Proof.Machine.execExit f s
  | .yield f => Sys2Proof.Machine.execYield f s
  | .waitcy f => Sys2Proof.Machine.execWaitcy f s
  | .mif f => Sys2Proof.Machine.execMif f s
  | .melse f => Sys2Proof.Machine.execMelse f s
  | .mund f => Sys2Proof.Machine.execMund f s
  | .mend f => Sys2Proof.Machine.execMend f s
  | .mwhile f => Sys2Proof.Machine.execMwhile f s
  | .mset f => Sys2Proof.Machine.execMset f s
  | .mget f => Sys2Proof.Machine.execMget f s
  | .pand f => Sys2Proof.Machine.execPand f s
  | .por f => Sys2Proof.Machine.execPor f s
  | .pnot f => Sys2Proof.Machine.execPnot f s
  | .pxor f => Sys2Proof.Machine.execPxor f s
  | .psel f => Sys2Proof.Machine.execPsel f s
  | .pmov f => Sys2Proof.Machine.execPmov f s
  | .ptoi f => Sys2Proof.Machine.execPtoi f s
  | .itop f => Sys2Proof.Machine.execItop f s
  | .vote f => Sys2Proof.Machine.execVote f s
  | .redi f => Sys2Proof.Machine.execRedi f s
  | .redf f => Sys2Proof.Machine.execRedf f s
  | .scan f => Sys2Proof.Machine.execScan f s
  | .shfl f => Sys2Proof.Machine.execShfl f s
  | .qxch f => Sys2Proof.Machine.execQxch f s
  | .qbc f => Sys2Proof.Machine.execQbc f s
  | .ld f => Sys2Proof.Machine.execLd f s
  | .ldOffset f => Sys2Proof.Machine.execLdOffset f s
  | .st f => Sys2Proof.Machine.execSt f s
  | .stOffset f => Sys2Proof.Machine.execStOffset f s
  | .ldv f => Sys2Proof.Machine.execLdv f s
  | .ldvOffset f => Sys2Proof.Machine.execLdvOffset f s
  | .stv f => Sys2Proof.Machine.execStv f s
  | .stvOffset f => Sys2Proof.Machine.execStvOffset f s
  | .ldn f => Sys2Proof.Machine.execLdn f s
  | .ldnOffset f => Sys2Proof.Machine.execLdnOffset f s
  | .stn f => Sys2Proof.Machine.execStn f s
  | .stnOffset f => Sys2Proof.Machine.execStnOffset f s
  | .lds f => Sys2Proof.Machine.execLds f s
  | .ldsOffset f => Sys2Proof.Machine.execLdsOffset f s
  | .sts f => Sys2Proof.Machine.execSts f s
  | .stsOffset f => Sys2Proof.Machine.execStsOffset f s
  | .ldg f => Sys2Proof.Machine.execLdg f s
  | .stg f => Sys2Proof.Machine.execStg f s
  | .ldl f => Sys2Proof.Machine.execLdl f s
  | .stl f => Sys2Proof.Machine.execStl f s
  | .ncvt f => Sys2Proof.Machine.execNcvt f s
  | .pref f => Sys2Proof.Machine.execPref f s
  | .prefOffset f => Sys2Proof.Machine.execPrefOffset f s
  | .smap f => Sys2Proof.Machine.execSmap f s
  | .sunmap f => Sys2Proof.Machine.execSunmap f s
  | .aadd f => Sys2Proof.Machine.execAadd f s
  | .amin f => Sys2Proof.Machine.execAmin f s
  | .amax f => Sys2Proof.Machine.execAmax f s
  | .aand f => Sys2Proof.Machine.execAand f s
  | .aor f => Sys2Proof.Machine.execAor f s
  | .axor f => Sys2Proof.Machine.execAxor f s
  | .axchg f => Sys2Proof.Machine.execAxchg f s
  | .acas f => Sys2Proof.Machine.execAcas f s
  | .ainc f => Sys2Proof.Machine.execAinc f s
  | .adec f => Sys2Proof.Machine.execAdec f s
  | .afadd f => Sys2Proof.Machine.execAfadd f s
  | .afmin f => Sys2Proof.Machine.execAfmin f s
  | .afmax f => Sys2Proof.Machine.execAfmax f s
  | .bar f => Sys2Proof.Machine.execBar f s
  | .barc f => Sys2Proof.Machine.execBarc f s
  | .bufdef f => Sys2Proof.Machine.execBufdef f s
  | .bufwait f => Sys2Proof.Machine.execBufwait f s
  | .buffree f => Sys2Proof.Machine.execBuffree f s
  | .cpygo f => Sys2Proof.Machine.execCpygo f s
  | .cpyst f => Sys2Proof.Machine.execCpyst f s
  | .publ f => Sys2Proof.Machine.execPubl f s
  | .region f => Sys2Proof.Machine.execRegion f s
  | .commit f => Sys2Proof.Machine.execCommit f s
  | .waitc f => Sys2Proof.Machine.execWaitc f s
  | .sigc f => Sys2Proof.Machine.execSigc f s
  | .seal f => Sys2Proof.Machine.execSeal f s
  | .unseal f => Sys2Proof.Machine.execUnseal f s
  | .macq f => Sys2Proof.Machine.execMacq f s
  | .mrel f => Sys2Proof.Machine.execMrel f s
  | .mldb f => Sys2Proof.Machine.execMldb f s
  | .mma f => Sys2Proof.Machine.execMma f s
  | .mmar f => Sys2Proof.Machine.execMmar f s
  | .mmaPair f => Sys2Proof.Machine.execMmaPair f s
  | .mmarPair f => Sys2Proof.Machine.execMmarPair f s
  | .mzero f => Sys2Proof.Machine.execMzero f s
  | .mstore f => Sys2Proof.Machine.execMstore f s
  | .mloadc f => Sys2Proof.Machine.execMloadc f s
  | .msave f => Sys2Proof.Machine.execMsave f s
  | .mrst f => Sys2Proof.Machine.execMrst f s
  | .mstat f => Sys2Proof.Machine.execMstat f s
  | .mcbk f => Sys2Proof.Machine.execMcbk f s
  | .mdep f => Sys2Proof.Machine.execMdep f s
  | .split f => Sys2Proof.Machine.execSplit f s
  | .fork f => Sys2Proof.Machine.execFork f s
  | .take f => Sys2Proof.Machine.execTake f s
  | .hstat f => Sys2Proof.Machine.execHstat f s
  | .launch f => Sys2Proof.Machine.execLaunch f s
  | .lstat f => Sys2Proof.Machine.execLstat f s
  | .nop f => Sys2Proof.Machine.execNop f s
  | .trl f => Sys2Proof.Machine.execTrl f s
  | .trap f => Sys2Proof.Machine.execTrap f s
  | .tret f => Sys2Proof.Machine.execTret f s
  | .rdsr f => Sys2Proof.Machine.execRdsr f s
  | .wrsr f => Sys2Proof.Machine.execWrsr f s
  | .ldio f => Sys2Proof.Machine.execLdio f s
  | .stio f => Sys2Proof.Machine.execStio f s
  | .wfe f => Sys2Proof.Machine.execWfe f s
  | .halt f => Sys2Proof.Machine.execHalt f s
  | .pipeSelect core pipe => Sys2Proof.Machine.execPipeSelect core pipe s
  | .longLatencyArrival tk id => Sys2Proof.Machine.execLongLatencyArrival tk id s
  | .registerRefill tk => Sys2Proof.Machine.execRegisterRefill tk s
  | .regionCommit tk => Sys2Proof.Machine.execRegionCommit tk s
  | .conflict tk idx => Sys2Proof.Machine.execConflict tk idx s
  | .exclDeferralExpiry die => Sys2Proof.Machine.execExclDeferralExpiry die s
  | .orderInversion tk => Sys2Proof.Machine.execOrderInversion tk s
  | .priorityAgeing tk => Sys2Proof.Machine.execPriorityAgeing tk s
  | .cycleReached tk => Sys2Proof.Machine.execCycleReached tk s
  | .groupAdmit => Sys2Proof.Machine.execGroupAdmit s
  | .swapwaitExpiry gid => Sys2Proof.Machine.execSwapwaitExpiry gid s
  | .groupSave gid => Sys2Proof.Machine.execGroupSave gid s
  | .groupRestore gid => Sys2Proof.Machine.execGroupRestore gid s
  | .groupFree gid => Sys2Proof.Machine.execGroupFree gid s
  | .hamperRefill gid bin => Sys2Proof.Machine.execHamperRefill gid bin s
  | .forageRequest seq die bin => Sys2Proof.Machine.execForageRequest seq die bin s
  | .forageTransferArrival seq die => Sys2Proof.Machine.execForageTransferArrival seq die s
  | .forageRestart seq die => Sys2Proof.Machine.execForageRestart seq die s
  | .ringPathLost a b => Sys2Proof.Machine.execRingPathLost a b s
  | .quiescenceSweep => Sys2Proof.Machine.execQuiescenceSweep s
  | .copyRecord cid => Sys2Proof.Machine.execCopyRecord cid s
  | .scratchArrival cid => Sys2Proof.Machine.execScratchArrival cid s
  | .sluiceStep cid => Sys2Proof.Machine.execSluiceStep cid s
  | .counterReread tk => Sys2Proof.Machine.execCounterReread tk s
  | .matrixOpBegin core => Sys2Proof.Machine.execMatrixOpBegin core s
  | .matrixOccupancyEnd core => Sys2Proof.Machine.execMatrixOccupancyEnd core s
  | .matrixOpRetire core => Sys2Proof.Machine.execMatrixOpRetire core s
  | .mdepDecrement core => Sys2Proof.Machine.execMdepDecrement core s
  | .launchAcceptance gid => Sys2Proof.Machine.execLaunchAcceptance gid s
  | .qheadWrite q v => Sys2Proof.Machine.execQheadWrite q v s
  | .qctlWrite q v => Sys2Proof.Machine.execQctlWrite q v s
  | .qstatHaltClear q => Sys2Proof.Machine.execQstatHaltClear q s
  | .launchCommand q => Sys2Proof.Machine.execLaunchCommand q s
  | .copyCommand q => Sys2Proof.Machine.execCopyCommand q s
  | .waitcCommand q => Sys2Proof.Machine.execWaitcCommand q s
  | .sigcCommand q => Sys2Proof.Machine.execSigcCommand q s
  | .markCmd q => Sys2Proof.Machine.execMarkCmd q s
  | .tresumeResume tag => Sys2Proof.Machine.execTresumeResume tag s
  | .tresumeFail tag => Sys2Proof.Machine.execTresumeFail tag s
  | .faultRecordWrite => Sys2Proof.Machine.execFaultRecordWrite s
  | .tlbinvPage ctx va => Sys2Proof.Machine.execTlbinvPage ctx va s
  | .tlbinvContext ctx => Sys2Proof.Machine.execTlbinvContext ctx s
  | .tlbinvAll => Sys2Proof.Machine.execTlbinvAll s
  | .tlbinvDone => Sys2Proof.Machine.execTlbinvDone s
  | .registerWrite off v tee => Sys2Proof.Machine.execRegisterWrite off v tee s
  | .measureMailboxWrite off v => Sys2Proof.Machine.execMeasureMailboxWrite off v s
  | .mregExtend ix => Sys2Proof.Machine.execMregExtend ix s
  | .mlockWrite v => Sys2Proof.Machine.execMlockWrite v s
  | .otpProgramOwner => Sys2Proof.Machine.execOtpProgramOwner s
  | .otpRevokeOwner => Sys2Proof.Machine.execOtpRevokeOwner s
  | .otpRevokeVendor => Sys2Proof.Machine.execOtpRevokeVendor s
  | .otpSvnRaise v => Sys2Proof.Machine.execOtpSvnRaise v s
  | .moduleReset => Sys2Proof.Machine.execModuleReset s
  | .pwrctlWrite v => Sys2Proof.Machine.execPwrctlWrite v s
  | .vcoreWrite die v => Sys2Proof.Machine.execVcoreWrite die v s
  | .ctlrstWrite v => Sys2Proof.Machine.execCtlrstWrite v s
  | .evdbWrite ctl => Sys2Proof.Machine.execEvdbWrite ctl s
  | .hostenWrite v => Sys2Proof.Machine.execHostenWrite v s
  | .dramTrainStart stack step => Sys2Proof.Machine.execDramTrainStart stack step s
  | .dramTrainAbort stack => Sys2Proof.Machine.execDramTrainAbort stack s
  | .dramTrainDone stack fail => Sys2Proof.Machine.execDramTrainDone stack fail s
  | .dramTrainTimeout stack => Sys2Proof.Machine.execDramTrainTimeout stack s
  | .dmenWrite stack v => Sys2Proof.Machine.execDmenWrite stack v s
  | .linkTrainStart port step => Sys2Proof.Machine.execLinkTrainStart port step s
  | .linkTrainAbort port => Sys2Proof.Machine.execLinkTrainAbort port s
  | .linkTrainDone port pass peer => Sys2Proof.Machine.execLinkTrainDone port pass peer s
  | .linkTrainTimeout port => Sys2Proof.Machine.execLinkTrainTimeout port s
  | .clockModeWrite pair v => Sys2Proof.Machine.execClockModeWrite pair v s
  | .clockRelockDone pair => Sys2Proof.Machine.execClockRelockDone pair s
  | .meteredClockHalt pair mv => Sys2Proof.Machine.execMeteredClockHalt pair mv s
  | .meteredClockResume pair mv => Sys2Proof.Machine.execMeteredClockResume pair mv s
  | .coreHotSet core temp win => Sys2Proof.Machine.execCoreHotSet core temp win s
  | .coreHotClear core temp win => Sys2Proof.Machine.execCoreHotClear core temp win s
  | .softError e => Sys2Proof.Machine.execSoftError e s
  | .hostAccess h => Sys2Proof.Machine.execHostAccess h s
  | .hostSnoop addr => Sys2Proof.Machine.execHostSnoop addr s
  | .birsp line data => Sys2Proof.Machine.execBirsp line data s
  | .birspTimeout line => Sys2Proof.Machine.execBirspTimeout line s
  | .flr => Sys2Proof.Machine.execFlr s
  | .flrDrainDeadline => Sys2Proof.Machine.execFlrDrainDeadline s
  | .flrZeroDone => Sys2Proof.Machine.execFlrZeroDone s
  | .flitReceive port flit => Sys2Proof.Machine.execFlitReceive port flit s
  | .portDown port cause => Sys2Proof.Machine.execPortDown port cause s
  | .rdl port m => Sys2Proof.Machine.execRdl port m s
  | .wrl port m => Sys2Proof.Machine.execWrl port m s
  | .dataMsg port m => Sys2Proof.Machine.execDataMsg port m s
  | .ack port m => Sys2Proof.Machine.execAck port m s
  | .pgs port m => Sys2Proof.Machine.execPgs port m s
  | .pgm port m => Sys2Proof.Machine.execPgm port m s
  | .grant port m => Sys2Proof.Machine.execGrant port m s
  | .recallMsg port m => Sys2Proof.Machine.execRecallMsg port m s
  | .retn port m => Sys2Proof.Machine.execRetn port m s
  | .atom port m => Sys2Proof.Machine.execAtom port m s
  | .nack port m => Sys2Proof.Machine.execNack port m s
  | .recallRetransmit page => Sys2Proof.Machine.execRecallRetransmit page s
  | .spdmRequest code => Sys2Proof.Machine.execSpdmRequest code s
  | .powerGoodChange v => Sys2Proof.Machine.execPowerGoodChange v s
  | .droopLevelTrip pair mv => Sys2Proof.Machine.execDroopLevelTrip pair mv s

end Sys2Proof.Machine
end

