-- ==== Sys2Proof/Machine/Run.lean ====
section
/-! DEFINITION. What a step does around a meaning: what settles after every event, the issue of an agent's next word, the
moves of a machine whose agenda is empty, and the placing of one word at the fetch point (log 3, 7). -/
namespace Sys2Proof.Machine

/-- After every move: queues retire what an event has met, requests that waited are tried again, messages leave. -/
def settle (s : State) : State :=
  settlePorts (settleModes (settleHost (settlePeers (settleQueues (settleFaults (settleGrids (settleTickets (settleSpills
    (settlePhys (s.physOut.length + 1) s)))))))))
def settled (o : Host.Outcome State Fault Refusal) : Host.Outcome State Fault Refusal :=
  match o with
  | .next s => .next (settle s)
  | .fault r => .fault r
  | .refused r => .refused r
/-- One issue of an agent: a team's word is issued when nothing of its pair stands before it (R21, R346). -/
def issueAgent (s : State) (tk : Nat) : Host.Outcome State Fault Refusal :=
  if !isCtl tk && !wordFirst s (coTurn s tk) then .next s
  else match prepare s tk with
    | .run i s => exec i s
    | .state s => .next s

/-- The state of an outcome that goes on. -/
def stateOf (s : State) (o : Host.Outcome State Fault Refusal) : State := match o with | .next t => t | _ => s
/-- The first of some moves that changes the machine. -/
def tryFirst (s : State) : List (State → State) → State
  | [] => s
  | f :: r => let t := f s; if t = s then tryFirst s r else t
/-- Teams in the order of the cycles they wait for. -/
def byTarget (s : State) (l : List Nat) : List Nat :=
  l.foldr (fun k m => m.takeWhile (fun x => decide ((s.team x).wait.val < (s.team k).wait.val)) ++
    k :: m.dropWhile (fun x => decide ((s.team x).wait.val < (s.team k).wait.val))) []
/-- Moves of the units of the machine, results first, then commits, engines, selection and issue, then the distributor,
the command processor, and the search for work of teams parked in TAKE (log 3). -/
def defaultMoves (s : State) : List (State → State) :=
  let ev := fun (f : State → Host.Outcome State Fault Refusal) (s : State) => stateOf s (f s)
  let teams := s.teams.map (·.1)
  let cores := distinct (s.groups.map fun g => g.2.core)
  let gids := s.groups.map (·.1)
  let takers := s.teams.filterMap fun t => if t.2.st == .parked && t.2.park == .take then
    (teamGroup s t.1).map fun g => (g.gid, g.seq, dieOfCore g.core, t.2.wait.val) else none
  (s.teams.flatMap fun t => (t.2.inflight.filter fun f => f.wait == .arrival && !f.arrived).map fun f => ev (execLongLatencyArrival t.1 f.id)) ++
  teams.map (fun k => ev (execRegisterRefill k)) ++
  teams.map (fun k => ev (execRegionCommit k)) ++
  s.cores.flatMap (fun c => [ev (execMatrixOpRetire c.1), ev (execMatrixOccupancyEnd c.1), ev (execMatrixOpBegin c.1), ev (execMdepDecrement c.1)]) ++
  s.chains.flatMap (fun c => [ev (execScratchArrival c.1), ev (execSluiceStep c.1), ev (execCopyRecord c.1)]) ++
  gids.map (fun g => ev (execLaunchAcceptance g)) ++
  cores.flatMap (fun c => [ev (execPipeSelect c 0), ev (execPipeSelect c 1)]) ++
  teams.map (fun k => ev fun s => issueAgent s k) ++
  (byTarget s teams).map (fun k => ev (execCycleReached k)) ++
  gids.flatMap (fun g => [ev (execGroupSave g), ev (execGroupFree g), ev (execGroupRestore g)]) ++
  [ev execGroupAdmit, ev execFaultRecordWrite, ev execTlbinvDone] ++
  (s.queues.map (·.1)).flatMap (fun q => [1, 2, 3, 4, 5].map fun k => fun s => acceptRecord s q k) ++
  takers.flatMap (fun x => [ev (execHamperRefill x.1 x.2.2.2), ev (execForageTransferArrival x.2.1 x.2.2.1)]) ++
  (if takers.isEmpty then [] else [ev execQuiescenceSweep]) ++
  takers.map (fun x => ev (execForageRequest x.2.1 x.2.2.1 x.2.2.2)) ++ takers.map fun x => ev (execForageRestart x.2.1 x.2.2.1)
/-- The move of a machine whose agenda is empty. -/
def defaultStep (s : State) : State := settle (tryFirst s (defaultMoves s))

/-- Where `placeWord` puts things: the page-table root, code, run-start map, handler, and the launch record of a group of
one team with one live lane (log 7). -/
def plRoot : Nat := 0x100000
def plCode : Nat := 0x200000
def plRecord : List Word := (List.range 24).map fun i => BitVec.ofNat 64 (
  match i with
  | 1 => 1 + 2 ^ 11
  | 2 => plCode
  | 3 => plCode + 0x4000
  | 4 => 0x1000
  | 5 => 1 + 2 ^ 32
  | 6 => 1 + 2 ^ 32
  | 7 => 0x1000 + 2 ^ 32 * 5
  | 8 => 2 + 2 ^ 10
  | 9 => 0x300000
  | 10 => 64 + 2 ^ 32 * 64
  | _ => 0)
def plDesc : List Word := [1, BitVec.ofNat 64 plRoot, BitVec.ofNat 64 (plCode + 0x800), 0x400000, 8, 0x500000, 0x800000, 1]
def plGroup (gid : Nat) : Group :=
  { gid := gid, seq := gid, idx := 0, gx := 0, gy := 0, gz := 0, clpos := 0, mate := none, st := .resident, core := 0,
    nteam := 1, width := 8, ctx := 0, desc := plDesc, stashSize := 0x1000, hlog := 5, frame := [0, 1], scratch := [],
    absent := [], present := [], maps := [], mapLines := [], handles := [], slots := [], hamper := [], drawn := [],
    pushno := 0, launchq := [], launchSeq := 0, lstat := 0, saveSlot := 0, lanes := [0], hold := none, issued := [], ticket := false, staged := [], stagedS := [],
    stagedE := [], rmarks := [] }
def plGrid (seq : Nat) : Grid :=
  { seq := seq, lrec := plRecord, ctx := 0, queue := 0, dev := false, det := false, replay := false, recAddr := 0, gdimz := 1,
    ksplit := false, prio := 0, st := .started, cause := 0, info := 0, addr := 0, status := 0, icache := [], image := none,
    cistern := [], counters := [], forage := [], change := [], lastSweep := none, quiescent := false, tick := 0, next := 1, left := 1 }
/-- Bytes of a word string of up to three words: each word little-endian, the first lowest. -/
def wordCells (loc w : Nat) : List (Nat × Byte) := (List.range 12).map fun i => (loc + i, BitVec.ofNat 8 (w / 2 ^ (8 * i)))
/-- A word at the code of a team that issues next: die 0's memory enabled, granted and mapped, one resident group. -/
def placeCore (s : State) (w : Nat) : State :=
  let gid := s.nextGid
  let pte := fun (i v : Nat) => (List.range 8).map fun k => (plRoot + 4096 * i + k, BitVec.ofNat 8 (v / 2 ^ (8 * k)))
  let s := s.setStack 0 { s.stack 0 with dmen := true }
  let s := { s with
    mem := tsetAll Memory.unlisted s.mem (pte 0 (plRoot + 4096 + 1) ++ pte 1 (plRoot + 8192 + 1) ++ pte 2 0xF ++ wordCells plCode w),
    access := tsetAll 0 s.access [(0, 7), (1, 0), (2, 0x3FFFF000)] }
  let s := (s.setGroup (plGroup gid)).setGrid (plGrid gid)
  let t := startTeam { Team.none with gid := gid, hvec := BitVec.ofNat 64 (plCode + 0x800), readyAt := 1, clk := 1 } plRecord
  let s := s.setTeam (teamKey gid 0) { t with st := .issuing }
  { s with agenda := [.issue (.team (teamKey gid 0))] }
/-- A word of the controllers' own at the code of die steward 0. -/
def placeCtl (s : State) (w : Nat) : State :=
  let base := ctlSram 1 + 128
  let s := { s with mem := tsetAll Memory.unlisted s.mem (wordCells base w) }
  let s := s.setCtl 1 { s.ctl 1 with st := .running, codebase := base, codesz := 0x1000, mapbase := base + 0x2000 }
  let s := s.setTeam (ctlKey 1) { Team.none with st := .issuing, pc := BitVec.ofNat 64 base, hvec := BitVec.ofNat 64 (base + 0x800), clk := 1 }
  { s with agenda := [.issue (.team (ctlKey 1))] }
/-- The word stands where the next step fetches it: on a controller if only a controller has it. -/
def placeWord (s : State) (nbits w : Nat) : State :=
  let w := w % 2 ^ nbits
  match decodeTableWord nbits w with
  | some i => if esOnly i then placeCtl s w else placeCore s w
  | none => placeCore s w

end Sys2Proof.Machine
end

