-- ==== Sys2Proof/Machine/Step.lean ====
section
/-! DEFINITION. One step of the machine. -/
namespace Sys2Proof.Machine

/-- One step: the next entry of the agenda, or where it is empty a move of the machine's own units. -/
def step (s : State) : Host.Outcome State Fault Refusal :=
  match s.agenda with
  | [] => .next (defaultStep s)
  | .event i :: r => if i.isEvent then settled (exec i { s with agenda := r }) else .fault .notAnEvent
  | .msg p op m :: r => settled (recvMsg p op m { s with agenda := r })
  | .issue (.team tk) :: r => settled (issueAgent { s with agenda := r } tk)

/-- Places a word at the fetch point. -/
def State.withFetchWord (s : State) (nbits w : Nat) : State := placeWord s nbits w

end Sys2Proof.Machine
end

