-- ==== Sys2Proof/Safety.lean ====
section
/-! DEFINITION. The terms the claims use: a safe run, a word that issues and acts, and what a word leaves in the
registers, predicates and flags of its team. -/
namespace Sys2Proof.Safety
open Sys2Proof.Machine

/-- A run of n steps from a state that neither faults nor is refused. -/
def Completes (s : State) (n : Nat) : Prop := ∃ t, Host.Core.run Sys2Proof.core n s = .next t

/-- A property every step keeps. -/
def Kept (P : State → Prop) : Prop := ∀ s t, P s → step s = .next t → P t

/-- Team tk issues a word that reads some registers: nothing makes it ILLEGAL, none of the registers has a result that
no run end awaited, and none is spilled (R67, R183, R190). -/
def Issues (s : State) (tk : Nat) (i : Instr) (srcs : List Reg) : Prop :=
  s.cur = some (.team tk) ∧ wordOk s tk i = true ∧ hazard (s.team tk) srcs = false ∧ spilledIn (s.team tk) (readWords (s.team tk) i) srcs = none
/-- The word has its own effect, which leaves s', with its last pass at cycle f, that pass over at e and its results
ready after rdy cycles; what follows every word then follows (R180, R346). -/
def Acts (s : State) (tk : Nat) (i : Instr) (s' : State) (f e rdy : Nat) : Prop :=
  exec i s = .next { finishWord s' tk i f e rdy with cur := none }

/-- What a word does to one lane. -/
structure LaneOut where
  regs : List (Reg × Word) := []
  preds : List (Reg × Tri) := []
  flags : Flags := 0

/-- The file and the place in it of a register of a lane: vector registers through the window, scalars, temporaries. -/
def regPlace (t : Team) (r : Reg) (l : Nat) : Nat × Nat :=
  if isV r then (0, vKey (aReg t r) l) else if isS r then (1, regNum r) else (2, vKey (regNum r) l)
/-- The register at a place. -/
def regAtPlace (t : Team) (x : Nat × Nat) : Word :=
  if x.1 = 0 then tget 0 t.v x.2 else if x.1 = 1 then tget 0 t.s x.2 else if x.1 = 2 then tget 0 t.t x.2 else 0
/-- The last value that a list of writes gives a place, or an old value. -/
def lastAt {κ α : Type} [BEq κ] (ws : List (κ × α)) (k : κ) (old : α) : α :=
  ((ws.reverse.find? fun w => w.1 == k).map (·.2)).getD old
/-- The register writes of some lanes in order. -/
def regWrites (t : Team) (l : List (Nat × LaneOut)) : List ((Nat × Nat) × Word) :=
  l.flatMap fun x => x.2.regs.map fun y => (regPlace t y.1 x.1, y.2)
def predWrites (l : List (Nat × LaneOut)) : List (Nat × Tri) :=
  l.flatMap fun x => x.2.preds.map fun y => (y.1.toNat * 1024 + x.1, y.2)
def flagsOf (l : List (Nat × LaneOut)) (k : Nat) : Flags :=
  (l.filter fun x => x.1 == k).foldl (fun a x => a ||| x.2.flags) 0
/-- A team differs from another in the results of some lanes alone: every register, predicate and flag that the lanes
do not write stands, flags only gain bits (R72), the same words are in flight, and nothing else of the team changes. -/
def Did (t u : Team) (l : List (Nat × LaneOut)) : Prop :=
  u = { t with v := u.v, s := u.s, t := u.t, p := u.p, fl := u.fl, inflight := u.inflight, alloc := u.alloc,
               salloc := u.salloc, nextVer := u.nextVer } ∧
  u.inflight.map (·.id) = t.inflight.map (·.id) ∧
  (∀ x, regAtPlace u x = lastAt (regWrites t l) x (regAtPlace t x)) ∧
  (∀ k, tget .f u.p k = lastAt (predWrites l) k (tget .f t.p k)) ∧
  (∀ k, tget 0 u.fl k = tget 0 t.fl k ||| flagsOf l k)
/-- The lanes a scalar-class word reaches: its registers once, its predicates and flags in every active lane (R226). -/
def scalarLanes (t : Team) (o : LaneOut) : List (Nat × LaneOut) :=
  (0, { regs := o.regs }) :: (activeLanes t).map fun l => (l, { preds := o.preds, flags := o.flags })
/-- The effect of a word that works lane by lane, or once for the scalar class (R176, R197): `out` is what a lane's
pass at a cycle gives it, `cc` the condition codes after the scalar class. -/
def LaneEffect (s : State) (tk : Nat) (i : Instr) (rs : List Reg) (ivl : Team → Nat → Nat → Nat) (rdy : Nat)
    (out : Team → Nat → Nat → LaneOut) (cc : Team → CC) : Prop :=
  let t := s.team tk
  if scalarClass tk rs then
    ∃ u, Acts s tk i (s.setTeam tk u) t.clk (t.clk + ivl t 0 t.clk) rdy ∧
      Did { t with cc := cc t } u (scalarLanes t (out t t.clk 0))
  else
    let p := passesOf t t.clk (ivl t)
    ∃ u, Acts s tk i (s.setTeam tk u) p.last p.fin (p.ready rdy) ∧
      Did t u ((activeLanes t).map fun l => (l, out t (passCycle p l) l))
/-- The claim of such a word. -/
def LaneClaim (i : Instr) (srcs rs : List Reg) (ivl : Team → Nat → Nat → Nat) (rdy : Nat) (out : Team → Nat → Nat → LaneOut)
    (cc : Team → CC) : Prop :=
  ∀ (s : State) (tk : Nat), Issues s tk i srcs → LaneEffect s tk i rs ivl rdy out cc
/-- A word of one pass for each active mask word (R20) leaves what a list of lanes did, and condition codes. -/
def Sweeps (s : State) (tk : Nat) (i : Instr) (ivl : Nat) (rdy : Nat) (cc : CC) (lanes : Passes → List (Nat × LaneOut)) : Prop :=
  let t := s.team tk
  let p := passesOf t t.clk fun _ _ => ivl
  ∃ u, Acts s tk i (s.setTeam tk u) p.last p.fin (p.ready rdy) ∧ Did { t with cc := cc } u (lanes p)
/-- The claim of a word that always works lane by lane. -/
def PerLaneClaim (i : Instr) (srcs : List Reg) (ivl : Nat) (rdy : Nat) (out : Team → Nat → Nat → LaneOut) : Prop :=
  ∀ (s : State) (tk : Nat), Issues s tk i srcs →
    Sweeps s tk i ivl rdy (s.team tk).cc fun p => (activeLanes (s.team tk)).map fun l => (l, out (s.team tk) (passCycle p l) l)

/-- A value at width w (R197): .32 reads the low halves and clears the upper half of the result. -/
def atW (w : Bool) (g : (n : Nat) → BitVec n → BitVec n → BitVec n) (a b : Word) : Word :=
  if w then g 64 a b else (g 32 (a.setWidth 32) (b.setWidth 32)).setWidth 64
/-- A fact about two sources at width w. -/
def testW (w : Bool) (g : (n : Nat) → BitVec n → BitVec n → Bool) (a b : Word) : Bool :=
  if w then g 64 a b else g 32 (a.setWidth 32) (b.setWidth 32)
/-- Z and N of a result of width w, with C and V (R198). -/
def ccZN (w : Bool) (old : CC) (x : Word) (c v : Bool) : CC :=
  { z := x == 0, n := x.getLsbD (wbits w - 1), c := c, v := v, u := old.u }

end Sys2Proof.Safety
end

