-- ==== Sys2Proof/Certificates/Slice0/Obligations.lean ====
section
/-! DEFINITION. The statements for the provers. -/
namespace Sys2Proof.Claims
open Sys2Proof.Machine Sys2Proof.Safety

/-- One two-source integer instruction: its class of R199, its result and its C and V at width n (R200 to R202). -/
structure Int2 where
  ins : FAW → Instr
  cl : Bool → Nat × Nat
  val : (n : Nat) → BitVec n → BitVec n → BitVec n
  c : (n : Nat) → BitVec n → BitVec n → Bool := fun _ _ _ => false
  v : (n : Nat) → BitVec n → BitVec n → Bool := fun _ _ _ => false
def tAlu (_ : Bool) : Nat × Nat := (1, 1)
def tMul (w : Bool) : Nat × Nat := if w then (2, 5) else (1, 3)
def tDiv (w : Bool) : Nat × Nat := if w then (16, 22) else (8, 12)
def isMin {n : Nat} (a : BitVec n) : Bool := a == BitVec.intMin n
/-- The shift amount of a register source: bits [7:0] (R202). -/
def amount {n : Nat} (b : BitVec n) : Nat := b.toNat % 256
def opAdd : Int2 := ⟨.iadd, tAlu, fun _ a b => a + b, fun _ a b => a.uaddOverflow b, fun _ a b => a.saddOverflow b⟩
def opSub : Int2 := ⟨.isub, tAlu, fun _ a b => a - b, fun _ a b => a.ult b, fun _ a b => a.ssubOverflow b⟩
def opMul : Int2 := ⟨.imul, tMul, fun _ a b => a * b, fun _ a b => a.umulOverflow b, fun _ a b => a.smulOverflow b⟩
def opAnd : Int2 := { ins := .andR, cl := tAlu, val := fun _ a b => a &&& b }
def opOr : Int2 := { ins := .orR, cl := tAlu, val := fun _ a b => a ||| b }
def opXor : Int2 := { ins := .xorR, cl := tAlu, val := fun _ a b => a ^^^ b }
def opShl : Int2 :=
  { ins := .shl, cl := tAlu, val := fun _ a b => a <<< amount b,
    c := fun n a b => decide (1 ≤ amount b) && decide (amount b ≤ n) && a.getLsbD (n - amount b) }
def opShr : Int2 :=
  { ins := .shr, cl := tAlu, val := fun _ a b => a >>> amount b,
    c := fun n a b => decide (1 ≤ amount b) && decide (amount b ≤ n) && a.getLsbD (amount b - 1) }
def opSar : Int2 :=
  { ins := .sar, cl := tAlu, val := fun _ a b => a.sshiftRight (amount b),
    c := fun n a b => decide (1 ≤ amount b) && (if amount b ≤ n then a.getLsbD (amount b - 1) else a.msb) }
def int2Rows : List Int2 :=
  [opAdd, opSub, opMul,
   { ins := .imulhI, cl := tMul, val := fun n a b => (a.signExtend (2 * n) * b.signExtend (2 * n)).extractLsb' n n },
   { ins := .imulhN, cl := tMul, val := fun n a b => (a.setWidth (2 * n) * b.setWidth (2 * n)).extractLsb' n n },
   { ins := .iminI, cl := tAlu, val := fun _ a b => if a.sle b then a else b },
   { ins := .iminN, cl := tAlu, val := fun _ a b => if a.ule b then a else b },
   { ins := .imaxI, cl := tAlu, val := fun _ a b => if a.sle b then b else a },
   { ins := .imaxN, cl := tAlu, val := fun _ a b => if a.ule b then b else a }] ++
  [{ ins := .iaddsI, cl := tAlu, v := fun _ a b => a.saddOverflow b,
     val := fun n a b => if a.saddOverflow b then (if a.msb then BitVec.intMin n else BitVec.intMax n) else a + b },
   { ins := .iaddsN, cl := tAlu, v := fun _ a b => a.uaddOverflow b,
     val := fun n a b => if a.uaddOverflow b then BitVec.allOnes n else a + b },
   { ins := .isubsI, cl := tAlu, v := fun _ a b => a.ssubOverflow b,
     val := fun n a b => if a.ssubOverflow b then (if a.msb then BitVec.intMin n else BitVec.intMax n) else a - b },
   { ins := .isubsN, cl := tAlu, v := fun _ a b => a.ult b, val := fun _ a b => if a.ult b then 0 else a - b }] ++
  [{ ins := .idivI, cl := tDiv, c := fun _ _ b => b == 0, v := fun _ a b => isMin a && b == BitVec.allOnes _,
     val := fun n a b => if b == 0 then BitVec.allOnes n else a.sdiv b },
   { ins := .idivN, cl := tDiv, c := fun _ _ b => b == 0, val := fun n a b => if b == 0 then BitVec.allOnes n else a / b },
   { ins := .iremI, cl := tDiv, c := fun _ _ b => b == 0, v := fun _ a b => isMin a && b == BitVec.allOnes _,
     val := fun _ a b => if b == 0 then a else a.srem b },
   { ins := .iremN, cl := tDiv, c := fun _ _ b => b == 0, val := fun _ a b => if b == 0 then a else a % b }] ++
  [opAnd, opOr, opXor,
   { ins := .andn, cl := tAlu, val := fun _ a b => a &&& ~~~b },
   { ins := .rol, cl := tAlu, val := fun _ a b => a.rotateLeft (amount b) },
   { ins := .ror, cl := tAlu, val := fun _ a b => a.rotateRight (amount b) },
   opShl, opShr, opSar]
/-- The result of a lane and the condition codes of the scalar class, of two sources. -/
def Int2.out (o : Int2) (w : Bool) (d : Reg) (x y : Team → Nat → Nat → Word) (t : Team) (c l : Nat) : LaneOut :=
  { regs := [(d, atW w o.val (x t c l) (y t c l))] }
def Int2.cc (o : Int2) (w : Bool) (x y : Team → Nat → Nat → Word) (t : Team) : CC :=
  let a := x t t.clk 0
  let b := y t t.clk 0
  ccZN w t.cc (atW w o.val a b) (testW w o.c a b) (testW w o.v a b)
def reg (r : Reg) (t : Team) (c l : Nat) : Word := readReg t c l r
/-- A constant operand. -/
def lit (x : Word) (_ : Team) (_ _ : Nat) : Word := x

/-- One one-source integer instruction (R203). -/
structure Int1 where
  ins : FAW → Instr
  val : (n : Nat) → BitVec n → BitVec n
  c : (n : Nat) → BitVec n → Bool := fun _ _ => false
  v : (n : Nat) → BitVec n → Bool := fun _ _ => false
def int1Rows : List Int1 :=
  [⟨.ineg, fun _ a => -a, fun _ a => a != 0, fun _ a => isMin a⟩,
   { ins := .iabs, val := fun _ a => if a.msb then -a else a, v := fun _ a => isMin a },
   { ins := .notR, val := fun _ a => ~~~a },
   { ins := .popc, val := fun n a => BitVec.ofNat n ((List.range n).filter fun i => a.getLsbD i).length },
   { ins := .clz, val := fun n a => BitVec.ofNat n ((List.range n).takeWhile fun i => !a.getMsbD i).length },
   { ins := .ctz, val := fun n a => BitVec.ofNat n ((List.range n).takeWhile fun i => !a.getLsbD i).length },
   { ins := .brev, val := fun _ a => a.reverse }]
/-- The same as a two-source row whose second source is not read. -/
def Int1.two (o : Int1) : Int2 :=
  { ins := o.ins, cl := tAlu, val := fun n a _ => o.val n a, c := fun n a _ => o.c n a, v := fun n a _ => o.v n a }

/-- The immediate forms: the operation of each, and whether IMM7 is read unsigned (R197, R202). -/
def immRows : List ((FBW → Instr) × Int2 × Bool) :=
  [(.iaddImm, opAdd, false), (.isubImm, opSub, false), (.imulImm, opMul, false), (.andImm, opAnd, false),
   (.orImm, opOr, false), (.xorImm, opXor, false), (.shlImm, opShl, true), (.shrImm, opShr, true), (.sarImm, opSar, true)]
def immVal (unsigned : Bool) (i : Reg) : Word := if unsigned then i.setWidth 64 else i.signExtend 64

/-- A lane's bit field and its insertion (R204). -/
def bfxVal (sx : Bool) (pos len : Nat) (n : Nat) (a _b : BitVec n) : BitVec n :=
  let f := (a >>> pos).setWidth len
  if sx then f.signExtend n else f.setWidth n
def bfiVal (pos len : Nat) (n : Nat) (d a : BitVec n) : BitVec n :=
  let m : BitVec n := (BitVec.allOnes len).setWidth n <<< pos
  (d &&& ~~~m) ||| ((a <<< pos) &&& m)
def bfxOf (f : FAWX) (t : Team) (c l : Nat) : Word :=
  atW f.w (bfxVal (f.x.getLsbD 16) (f.x.extractLsb' 0 6).toNat (f.x.extractLsb' 8 7).toNat) (reg f.a t c l) 0
def bfiOf (f : FAWX) (t : Team) (c l : Nat) : Word :=
  atW f.w (bfiVal (f.x.extractLsb' 0 6).toNat (f.x.extractLsb' 8 7).toNat) (reg f.d t c l) (reg f.a t c l)
/-- a·b + d, with the destination's prior value (R200). -/
def imadVal (f : FAW) (t : Team) (c l : Nat) : Word :=
  atW f.w (fun _ p d => p + d) (atW f.w (fun _ a b => a * b) (reg f.a t c l) (reg f.b t c l)) (reg f.d t c l)
/-- One register result. -/
def one (d : Reg) (x : Team → Nat → Nat → Word) (t : Team) (c l : Nat) : LaneOut := { regs := [(d, x t c l)] }
/-- CC with Z and N of a result, C and V clear. -/
def ccRes (w : Bool) (x : Team → Nat → Nat → Word) (t : Team) : CC := ccZN w t.cc (x t t.clk 0) false false
def sameCC (t : Team) : CC := t.cc

/-- The relations of ICMP (R206). -/
def icmpRows : List ((FAW → Instr) × ((n : Nat) → BitVec n → BitVec n → Bool)) :=
  [(.icmpEq, fun _ a b => a == b), (.icmpNe, fun _ a b => a != b), (.icmpLtI, fun _ a b => a.slt b),
   (.icmpLeI, fun _ a b => a.sle b), (.icmpGtI, fun _ a b => b.slt a), (.icmpGeI, fun _ a b => b.sle a)] ++
  [(.icmpLtN, fun _ a b => a.ult b), (.icmpLeN, fun _ a b => a.ule b), (.icmpGtN, fun _ a b => b.ult a),
   (.icmpGeN, fun _ a b => b.ule a)]

/-- The timing classes of R228: interval and ready figure at a precision. -/
def tAdd (w : Bool) : Nat × Nat := if w then (4, 6) else (1, 4)
def tQuot (w : Bool) : Nat × Nat := if w then (16, 30) else (4, 12)
def tElem (w : Bool) : Nat × Nat := if w then (16, 34) else (4, 14)
/-- An interval operand with the flags its reading raises (R87), and the registers of an interval result (R70). -/
def ivOp (w : Bool) (r : Reg) (t : Team) (c l : Nat) : IV × Flags := readIvReg t c l w r
def ivRegs (w : Bool) (d : Reg) (x : IvRes) : List (Reg × Word) :=
  if w then [(d, BitVec.ofNat 64 x.lo), (d + 1, BitVec.ofNat 64 x.hi)] else [(d, BitVec.ofNat 64 (x.lo + x.hi * 2 ^ 32))]
/-- The second result of FDIV2 and FBIS (R227). -/
def second (w : Bool) (d : Reg) : Reg := if w then d + 2 else d + 1
def float2Rows : List ((FAW → Instr) × (Bool → Nat × Nat) × (Fmt → IV → IV → IvRes)) :=
  [(.fadd, tAdd, fAdd), (.fsub, tAdd, fSub), (.fmin, tAdd, fMin), (.fmax, tAdd, fMax), (.fhull, tAdd, fHull),
   (.fmeet, tAdd, fMeet), (.fdiv, tQuot, fDiv)]
def float1Rows : List ((FAW → Instr) × (Bool → Nat × Nat) × (Fmt → IV → IvRes)) :=
  [(.fneg, tAdd, fNeg), (.fabs, tAdd, fAbs), (.fsqr, tAdd, fSqr), (.fsqrt, tQuot, fSqrt), (.flo, tAdd, fLo), (.fhi, tAdd, fHi),
   (.fmid, tAdd, fMid), (.frad, tAdd, fRad), (.fwid, tAdd, fWid)] ++
  [(.frcp, tElem, fRcp), (.frsq, tElem, fRsq), (.fexp, tElem, fExp), (.fexp2, tElem, fExp2), (.flog, tElem, fLog),
   (.flog2, tElem, fLog2), (.fsin, tElem, fSin), (.fcos, tElem, fCos), (.ftanh, tElem, fTanh)]
/-- The lane of a two-source and of a one-source interval word. -/
def float2Out (f : FAW) (g : Fmt → IV → IV → IvRes) (t : Team) (c l : Nat) : LaneOut :=
  let a := ivOp f.w f.a t c l
  let b := ivOp f.w f.b t c l
  let r := g (fmtOf f.w) a.1 b.1
  { regs := ivRegs f.w f.d r, flags := a.2 ||| b.2 ||| r.fl }
def float1Out (f : FAW) (g : Fmt → IV → IvRes) (t : Team) (c l : Nat) : LaneOut :=
  let a := ivOp f.w f.a t c l
  let r := g (fmtOf f.w) a.1
  { regs := ivRegs f.w f.d r, flags := a.2 ||| r.fl }
def ffmaOut (f : FAW) (t : Team) (c l : Nat) : LaneOut :=
  let d := ivOp f.w f.d t c l
  let a := ivOp f.w f.a t c l
  let b := ivOp f.w f.b t c l
  let r := fFma (fmtOf f.w) d.1 a.1 b.1
  { regs := ivRegs f.w f.d r, flags := d.2 ||| a.2 ||| b.2 ||| r.fl }
def fdiv2Out (f : FAW) (t : Team) (c l : Nat) : LaneOut :=
  let a := ivOp f.w f.a t c l
  let b := ivOp f.w f.b t c l
  let r := fDiv2 (fmtOf f.w) a.1 b.1
  { regs := ivRegs f.w f.d r.1 ++ ivRegs f.w (second f.w f.d) r.2, flags := a.2 ||| b.2 ||| r.1.fl ||| r.2.fl }
def fbisOut (f : FAW) (t : Team) (c l : Nat) : LaneOut :=
  let a := ivOp f.w f.a t c l
  let r := fBis (fmtOf f.w) a.1
  { regs := ivRegs f.w f.d r.1 ++ ivRegs f.w (second f.w f.d) r.2, flags := a.2 ||| r.1.fl ||| r.2.fl }
/-- FMAKE and FCLASS read raw bits (R234, R237). -/
def fmakeOut (f : FAW) (t : Team) (c l : Nat) : LaneOut :=
  let r := fMake (fmtOf f.w) (readPairBits t c l f.w f.a).1 (readPairBits t c l f.w f.b).2
  { regs := ivRegs f.w f.d r, flags := r.fl }
def fclassOut (f : FAW) (t : Team) (c l : Nat) : LaneOut :=
  let x := readPairBits t c l f.w f.a
  { regs := [(f.d, BitVec.ofNat 64 (fClass (fmtOf f.w) x.1 x.2))] }
/-- CVTF by its code: in of F32, F64, F16 and BF16 pairs and of midpoint-radius words, out of F16, BF16 and MRW (R238). -/
def cvtfOut (f : FAW) (t : Team) (c l : Nat) : LaneOut :=
  let into := fun (r : IvRes) => ({ regs := ivRegs f.w f.d r, flags := r.fl } : LaneOut)
  let low := (reg f.a t c l).toNat % 2 ^ 32
  let half := fun (g : Fmt) =>
    let x := readPairBits t c l f.w f.a
    let r := cvtPair (fmtOf f.w) g x.1 x.2
    ({ regs := [(f.d, BitVec.ofNat 64 (r.lo + 2 ^ 16 * r.hi))], flags := r.fl } : LaneOut)
  if f.b = 0x00 then into (cvtPair f32 (fmtOf f.w) (readPairBits t c l false f.a).1 (readPairBits t c l false f.a).2)
  else if f.b = 0x01 then into (cvtPair f64 (fmtOf f.w) (readPairBits t c l true f.a).1 (readPairBits t c l true f.a).2)
  else if f.b = 0x02 then into (cvtPair f16 (fmtOf f.w) (low % 2 ^ 16) (low / 2 ^ 16))
  else if f.b = 0x03 then into (cvtPair bf16 (fmtOf f.w) (low % 2 ^ 16) (low / 2 ^ 16))
  else if f.b = 0x04 then into (loadMrw (fmtOf f.w) low)
  else if f.b = 0x10 then half f16
  else if f.b = 0x11 then half bf16
  else { regs := [(f.d, BitVec.ofNat 64 (storeMrw (ivOp f.w f.a t c l).1).1)],
         flags := (ivOp f.w f.a t c l).2 ||| (storeMrw (ivOp f.w f.a t c l).1).2 }
def cvtiOut (f : FAW) (t : Team) (c l : Nat) : LaneOut :=
  let x := ivOp f.w f.a t c l
  let r := cvti x.1 (f.b.toNat / 16 % 4) (f.b.toNat % 16)
  { regs := [(f.d, itypeBits (f.b.toNat % 16) r.1)], flags := x.2 ||| r.2 }
def cvfiOut (f : FAW) (t : Team) (c l : Nat) : LaneOut :=
  let r := cvfi (fmtOf f.w) (itypeRead f.b.toNat (reg f.a t c l))
  { regs := ivRegs f.w f.d r, flags := r.fl }
/-- The codebook forms read the team's codebook table (R106, R107, R241). -/
def cbxOut (f : FAW) (t : Team) (c l : Nat) : LaneOut :=
  let r := cbExpand (fmtOf f.w) t.cbt ((reg f.a t c l).toNat % 16)
  { regs := ivRegs f.w f.d r, flags := r.fl }
def cbqOut (f : FAW) (t : Team) (c l : Nat) : LaneOut :=
  let x := ivOp f.w f.a t c l
  let r := cbQuant t.cbt x.1
  { regs := [(f.d, BitVec.ofNat 64 r.1)], flags := x.2 ||| r.2 }
/-- The relations of FCMP (R94, R236). -/
def fcmpRows : List ((FAW → Instr) × FRel) :=
  [(.fcmpLt, .lt), (.fcmpLe, .le), (.fcmpGt, .gt), (.fcmpGe, .ge), (.fcmpEq, .eq), (.fcmpNe, .ne), (.fcmpSub, .sub),
   (.fcmpIn, .inn), (.fcmpDis, .dis)]
def fcmpOut (f : FAW) (r : FRel) (t : Team) (c l : Nat) : LaneOut :=
  let a := ivOp f.w f.a t c l
  let b := ivOp f.w f.b t c l
  { preds := [(f.d, fRel r a.1 b.1)], flags := a.2 ||| b.2 }
def fcmpCC (f : FAW) (r : FRel) (t : Team) : CC := ccOfTri (fRel r (ivOp f.w f.a t t.clk 0).1 (ivOp f.w f.b t t.clk 0).1)

/-- The effects of the predicate words on one lane (R220, R221): `p` reads a predicate field of the lane. -/
def predRows : List ((FA → Instr) × (FA → (Reg → Tri) → Tri)) :=
  [(.pand, fun f p => tAnd (p f.a) (p f.b)), (.por, fun f p => tOr (p f.a) (p f.b)), (.pxor, fun f p => tXor (p f.a) (p f.b)),
   (.pnot, fun f p => tNot (p f.a)),
   (.pmov, fun f p => if f.b = 0 then p f.a else if f.b = 1 then .t else if f.b = 2 then .f else if f.b = 3 then .u
      else if f.b = 4 then (if p f.a = .u then .t else p f.a) else if f.b = 5 then (if p f.a = .u then .f else p f.a)
      else if f.b = 6 then triBool (decide (p f.a = .u)) else triBool (decide (p f.a ≠ .u)))]
def pselVal (f : FAX) (p : Reg → Tri) : Tri :=
  match p (f.x.extractLsb' 0 7) with
  | .t => p f.a
  | .f => p f.b
  | .u => if f.x.extractLsb' 8 2 = 0 then (if p f.a = p f.b then p f.a else .u)
          else if f.x.extractLsb' 8 2 = 1 then p f.a else if f.x.extractLsb' 8 2 = 2 then p f.b else .u
/-- The code of a predicate in a register, and back (R71, R222). -/
def code (x : Tri) : Word := match x with | .f => 0 | .t => 1 | .u => 2
def ofCode (x : Word) : Tri := if x.extractLsb' 0 2 = 0 then .f else if x.extractLsb' 0 2 = 1 then .t else .u
/-- What ITOP gives a lane (R222). -/
def itopVal (f : FA) (x : Word) (l : Nat) : Tri :=
  if f.b = 0 then ofCode x else if f.b = 1 then triBool (x != 0)
  else if x.getLsbD (32 + l % 32) then .u else triBool (x.getLsbD (l % 32))
/-- Lanes that take part in votes and reductions: active and no helper (R17). -/
def voters (t : Team) : List Nat := (activeLanes t).filter fun l => t.live.getLsbD l
/-- A register result in every active lane, or once where the destination is scalar. -/
def everyOrOnce (t : Team) (d : Reg) (o : LaneOut) : List (Nat × LaneOut) :=
  if isS d then [(0, o)] else (activeLanes t).map fun l => (l, o)

/-- The integer reductions with their identities at width n (R244). -/
def rediRows : List (Int2 × ((n : Nat) → BitVec n)) :=
  [(opAdd, fun _ => 0), ({ ins := .iminI, cl := tAlu, val := fun _ a b => if a.sle b then a else b }, fun n => BitVec.intMax n),
   ({ ins := .iminN, cl := tAlu, val := fun _ a b => if a.ule b then a else b }, fun n => BitVec.allOnes n),
   ({ ins := .imaxI, cl := tAlu, val := fun _ a b => if a.sle b then b else a }, fun n => BitVec.intMin n),
   ({ ins := .imaxN, cl := tAlu, val := fun _ a b => if a.ule b then b else a }, fun _ => 0),
   (opAnd, fun n => BitVec.allOnes n), (opOr, fun _ => 0), (opXor, fun _ => 0)]
def rediOf (op : Nat) : Int2 × ((n : Nat) → BitVec n) := rediRows.getD op (opXor, fun _ => 0)
/-- The fold of an integer reduction over values in lane order, from its identity. -/
def rediFold (op : Nat) (w : Bool) (l : List Word) : Word :=
  l.foldl (atW w (rediOf op).1.val) (if w then (rediOf op).2 64 else ((rediOf op).2 32).setWidth 64)
/-- The fold of an interval reduction: the first value stands for itself (R245). -/
def redfFold (op : Nat) (w : Bool) (l : List IvRes) : IvRes := foldFirst (redfStep (fmtOf w) op) (redfId (fmtOf w) op) l
/-- The register of another lane as an exchange reads it: 0 from a vacant lane (R18, R247). -/
def fromLane (t : Team) (c l : Nat) (r : Reg) : Word := if t.live.getLsbD l || t.helper.getLsbD l then reg r t c l else 0
/-- The lane QXCH takes from (R248). -/
def partner (b : Reg) (l : Nat) : Nat :=
  l / 4 * 4 + (if b = 0 then (l % 4) ^^^ 1 else if b = 1 then (l % 4) ^^^ 2 else if b = 2 then (l % 4) ^^^ 3 else (l % 4 + 1) % 4)

/-- The core of a team has physical registers for what it holds: nothing spills (R67). -/
def hasRoom (s : State) (tk : Nat) : Prop :=
  let ks := slotTeams s (teamCore s tk)
  isCtl tk = true ∨ ((ks.map (physVectors s)).sum ≤ Config.physVector ∧ (ks.map (physScalars s)).sum ≤ Config.physScalar)
def isTrl : Instr → Bool
  | .trl _ => true
  | _ => false
/-- An event happens and leaves a state of which something holds. -/
def Does (i : Instr) (s : State) (p : State → Prop) : Prop := ∃ s', exec i s = .next s' ∧ p s'
/-- No byte of memory changes. -/
def SameMem (s s' : State) : Prop := ∀ a, readMem s' a = readMem s a
/-- One team ends as u; every other team, memory, and all of the machine but pipes and cycle counters stand. -/
def TeamEnds (s s' : State) (tk : Nat) (u : Team) : Prop :=
  s'.team tk = u ∧ (∀ k, k ≠ tk → s'.team k = s.team k) ∧ (∀ a, readMem s' a = readMem s a) ∧
  s' = { s with teams := s'.teams, cores := s'.cores, pairs := s'.pairs, ctls := s'.ctls, cur := none }
/-- What a team remembers of the waits of one word (R145, R157, R251, R270) is gone. -/
def pastWord (t : Team) : Team := { t with bufErr := none, wantLines := [], placed := none, lanesDone := [] }
/-- A team whose run has ended, with no word in flight, ready at a pc, its pipe free: temporaries end with the run (R22, R29,
R69, R181). -/
def readyTeam (t : Team) (pc : Word) : Team :=
  pastWord { t with
    pend := none, pendPc := t.wordPc, inRun := false, t := [], run := t.run + 1, runWords := 0, susp := false,
    pc := pc, waymarked := false, irrev := false, clk := t.clk + 1, st := .ready, park := .none, wait := ⟨0, 0⟩,
    readyAt := t.clk, age := 0, pipe := none }
/-- No pass of the slot's joined teams goes on past this cycle (R24). -/
def lastInSlot (s : State) (tk : Nat) : Prop := slotFin s tk ((s.team tk).clk + 1) = (s.team tk).clk + 1
/-- A control word with E = 1 issues, nothing is in flight, and no region or ticket is in its way. -/
def Turns (s : State) (tk : Nat) (i : Instr) (srcs : List Reg) : Prop :=
  Issues s tk i srcs ∧ hasRoom s tk ∧ lastInSlot s tk ∧ (s.team tk).st = .issuing ∧ i.ebit = true ∧ (s.team tk).inflight = [] ∧
  (s.team tk).tok = 0
/-- It leaves its team ready at a pc, otherwise as f makes it. -/
def TurnsTo (s : State) (tk : Nat) (i : Instr) (pc : Word) (f : Team → Team := id) : Prop :=
  ∃ s', exec i s = .next s' ∧ TeamEnds s s' tk (f (readyTeam (s.team tk) pc))
/-- It leaves its team parked (R30). -/
def TurnsParked (s : State) (tk : Nat) (i : Instr) (p : Park) (w : ParkWait) : Prop :=
  ∃ s' u, exec i s = .next s' ∧ s'.team tk = u ∧ u.st = .parked ∧ u.park = p ∧ u.wait = w ∧ u.pc = (s.team tk).nextPc ∧
    (∀ k, k ≠ tk → s'.team k = s.team k) ∧ ∀ a, readMem s' a = readMem s a
/-- The target of an IMM14 transfer: the word's own address and 4 bytes for each unit (R181, R210). -/
def target (t : Team) (i : BitVec 14) : Word := t.wordPc + BitVec.ofInt 64 (4 * i.toInt)
/-- A team waits for no older region and for no ticket (R153, R168). -/
def mayAct (s : State) (tk : Nat) : Prop := (s.team tk).regions = [] ∧ unticketed s (s.team tk).gid = false
/-- The conditions of BRC by code (R211). -/
def brcRows : List (CC → Bool) :=
  [fun c => c.z, fun c => !c.z, fun c => c.n != c.v, fun c => !(c.n != c.v), fun c => c.z || c.n != c.v,
   fun c => !(c.z || c.n != c.v), fun c => c.c, fun c => !c.c, fun c => c.c || c.z, fun c => !(c.c || c.z), fun c => c.n,
   fun c => !c.n, fun c => c.v, fun c => !c.v, fun c => c.u, fun c => !c.u]
/-- Where a control word that changes no state but the pc sends its team: its target, or the word after the run (R181, R210
to R212, R215). -/
def goesTo (t : Team) (i : Instr) (next : Word) : Option Word :=
  let at_ := fun (x : BitVec 14) => t.pendPc + BitVec.ofInt 64 (4 * x.toInt)
  match i with
  | .bra f => some (at_ f.i)
  | .brc f => if f.d.toNat < 16 then some (if (brcRows.getD f.d.toNat fun _ => false) t.cc then at_ f.i else next) else none
  | .bmz f => some (if (List.range 32).all fun j => maskWord t.mask j == 0 then at_ f.i else next)
  | .bmnz f => some (if (List.range 32).all fun j => maskWord t.mask j == 0 then next else at_ f.i)
  | .yield _ => some next
  | _ => none
/-- The control words: each holds until its run's wait ends (R181). -/
def controlRows (b : FC) (a : FA) : List (Instr × List Reg) :=
  [(.bra b, []), (.brc b, []), (.bmz b, []), (.bmnz b, []), (.call b, []), (.ret a, [a.a]), (.jmpi a, [a.a]), (.mwhile b, []),
   (.exit a, []), (.yield a, []), (.waitcy a, [a.a]), (.trap b, []), (.tret a, []), (.wfe a, []), (.halt a, [])]
/-- No mask word of a team has an active lane (R19, R212). -/
def noneActive (t : Team) : Prop := ∀ j < 32, maskWord t.mask j = 0
/-- The lanes of the mask whose predicate is x, as a mask. -/
def lanesAre (t : Team) (m : Mask) (r : Reg) (x : Tri) : Prop :=
  ∀ l, m.getLsbD l = (decide (l < t.width) && t.mask.getLsbD l && decide (readPred t l r = x))
/-- A team after a word that changes its mask and stack alone. -/
def masked (t : Team) (m : Mask) (st : List Mask) : Team := { t with mask := m, stack := st }
/-- A word of one cycle that leaves s'. -/
def ActsOnce (s : State) (tk : Nat) (i : Instr) (s' : State) : Prop := Acts s tk i s' (s.team tk).clk ((s.team tk).clk + 1) 1
/-- A word traps at its own address (R307). -/
def TrapsAt (s : State) (tk : Nat) (i : Instr) (cause : Nat) : Prop :=
  exec i s = .next { trapEntry s tk cause (s.team tk).wordPc with cur := none }

/-- The lanes whose accesses a word makes for sure: not the helpers of a per-lane word (R17). -/
def sure (t : Team) (sc : Bool) (l : List Acc) : List Acc := l.filter fun a => sc || t.live.getLsbD a.lane
/-- The bytes an access resolves to; none where a helper's access faults (R17). -/
def reached (s : State) (tk : Nat) (k : AKind) (a : Acc) : List BLoc := match a.reach s tk k with | .ok l => l | _ => []
/-- Lines whose home knows them under the attribute of an access, or under none: the access recalls no copy (R124). -/
def keptAttrs (s : State) (lines : List (Nat × Nat)) : Prop :=
  ∀ x ∈ lines, isRemote (x.1 * 128) = true ∨
    ((∀ y ∈ lines, y.1 = x.1 → y = x) ∧ (tget 0 s.attrs x.1 = 0 ∨ tget 0 s.attrs x.1 = x.2 + 1))
/-- The lines of some accesses reach a U page. -/
def anyU (lines : List (Nat × Nat)) : Bool := lines.any fun x => x.2 == 2
/-- Accesses that meet nothing: a free token, no fault of those that the word makes for sure, and for all that it makes no
absent line, room in the L1 sets, and no wait for a region, a snoop, a recall or a peer (R123, R124, R129, R136, R152, R250
to R252, R403, R411). -/
def MeetNothing (s : State) (tk : Nat) (tok : BitVec 3) (k : AKind) (live made : List Acc) : Prop :=
  let hits := reachAll s tk k made
  let lines := globLines hits
  (s.team tk).tok.getLsbD tok.toNat = false ∧ firstFault s tk k live = none ∧
  (k = .read → absentLines (teamGroup s tk) hits = [] ∧ keptAttrs s lines) ∧ regionGate s tk (anyU lines) = none ∧
  roomGate s tk (if k == .read then lines else lines.map fun x => (x.1, 0)) = none ∧
  (k = .read ∨ (storesNow (s.team tk) tk = true ∧ anyU lines = false) → gates s tk lines (k == .write) = none)
/-- Nobody else has read anything that a store could invalidate (R129, R150). -/
def noOtherReads (s : State) (tk : Nat) : Prop :=
  (∀ x ∈ s.groups, x.2.rmarks = []) ∧ ∀ x ∈ s.teams, x.1 ≠ tk → ∀ r ∈ x.2.regions, r.reads = []
/-- No other agent takes notice of a store of a team: none has read what it changes, waits for its line, or watches a counter
(R150, R156, R376). -/
def unwatched (s : State) (tk : Nat) : Prop :=
  noOtherReads s tk ∧ (∀ x ∈ s.teams, x.1 ≠ tk → x.2.wantLines = []) ∧ ∀ d ∈ s.dies, d.2.watch = []
/-- The register writes of a word in flight, by place. -/
def lateWrites (e : Inflight) : List ((Nat × Nat) × Word) :=
  (e.vw.map fun x => ((0, x.key), x.val)) ++ e.sw.map fun x => ((1, x.key), x.val)
/-- A word in flight holds a token and the results of some lanes, which reach the registers when it arrives (R76, R182). -/
def Carries (t : Team) (e : Inflight) (tok : Option Nat) (w : LWait) (l : List (Nat × LaneOut)) (cbt : Option (List (BitVec 16))) : Prop :=
  e.id = t.nextId ∧ e.tok = tok ∧ e.run = t.run ∧ e.wait = w ∧ e.arrived = false ∧ e.applied = false ∧ e.cbt = cbt ∧
  (∀ r, t.regions.getLast? = some r → e.rid = r.rid) ∧
  (∀ x old, x.1 ≠ 2 → lastAt (lateWrites e) x old = lastAt (regWrites t l) x old) ∧
  ∀ k, (e.flw.filter fun x => x.1 == k).foldl (fun a x => a ||| x.2) 0 = flagsOf l k
/-- A team with one more word in flight and its token outstanding (R271). -/
def launched (t : Team) (e : Inflight) (tok : BitVec 3) : Team :=
  { t with nextId := t.nextId + 1, tok := t.tok ||| (1 <<< tok.toNat), inflight := t.inflight ++ [e] }
/-- The lanes that a load of some accesses gives results: `out` makes a lane's of its bytes; a helper whose access faults
receives 0 (R17, R253). -/
def loadLanes (s : State) (tk : Nat) (sc : Bool) (l : List Acc) (out : Nat → List Byte → LaneOut) : List (Nat × LaneOut) :=
  let t := s.team tk
  l.flatMap fun a =>
    let b := (reached s tk .read a).map (readB s tk)
    let o := out a.lane b
    if b.isEmpty && !sc && !t.live.getLsbD a.lane then [(a.lane, { regs := (o.regs.filter fun x => isV x.1).map fun x => (x.1, 0) })]
    else if sc then (a.lane, { regs := o.regs }) :: (activeLanes t).map fun k => (k, { flags := o.flags })
    else [(a.lane, o)]
/-- A load whose accesses meet nothing, those of live lanes and of helpers that would not fault: its lanes' results are in
flight, its lines are marked as read by the open region but for U lines and in careful mode, no byte of memory changes but
through the region of a U load, which commits at once (R17, R129, R152, R250 to R253). -/
def LoadEffect (s : State) (tk : Nat) (i : Instr) (tok : BitVec 3) (sc : Bool) (p : Passes) (l : List Acc)
    (out : Nat → List Byte → LaneOut) (cbt : List Byte → Option (List (BitVec 16))) : Prop :=
  let t := s.team tk
  let made := madeAccs s tk sc l
  let lines := globLines (reachAll s tk .read made)
  let u := anyU lines
  MeetNothing s tk tok .read (sure t sc l) made → (t.ordered = false ∨ higherStaged s tk (lines.map (·.1)) = false) →
  ∃ s1 t1 e,
    Acts s tk i (afterULoad s1 tk u) p.last p.fin 1 ∧ s1.team tk = t1 ∧ (∀ k, k ≠ tk → s1.team k = s.team k) ∧
    s1 = { s with teams := s1.teams, tlb := s1.tlb, free := s1.free, sPages := s1.sPages, remoteIn := s1.remoteIn, groups := s1.groups,
                  attrs := s1.attrs } ∧
    (isCtl tk = true ∨ unticketed s t.gid = false ∨ (t.regions ≠ [] ∧ t.careful = false ∧ u = false) → s1.groups = s.groups) ∧
    Carries t e (some tok.toNat) .arrival (loadLanes s tk sc l out)
      (cbt ((((l.map (reached s tk .read)).head?).getD []).map (readB s tk))) ∧
    t1 = launched { (if (t.careful && !t.excl) || isCtl tk || u then t else markReads t (lines.map (·.1))) with
      oiCount := t1.oiCount } e tok
/-- The claim of a load word: `acc` gives its passes and accesses. -/
def LoadClaim (i : Instr) (srcs : List Reg) (tok : BitVec 3) (sc : Nat → Bool) (acc : State → Nat → Passes × List Acc)
    (out : Team → Nat → List Byte → LaneOut) : Prop :=
  ∀ (s : State) (tk : Nat), Issues s tk i srcs →
    LoadEffect s tk i tok (sc tk) (acc s tk).1 (acc s tk).2 (out (s.team tk)) fun _ => none
/-- The accesses of a word with one part a lane, at an address of its registers. -/
def accesses (sc stash : Bool) (n : Nat) (ea : Team → Nat → Nat → Nat) (s : State) (tk : Nat) : Passes × List Acc :=
  memPasses s tk (s.team tk).clk sc stash fun t c l => [(ea t c l, n)]
/-- Effective addresses (R250): a register and an offset; a stash offset from the low half of a register; a gather of an
index (R259). -/
def baseOff (a : Reg) (off : BitVec 32) (t : Team) (c l : Nat) : Nat := (reg a t c l + off.signExtend 64).toNat
def stashOff (a : Reg) (off : BitVec 32) (t : Team) (c l : Nat) : Nat :=
  (((reg a t c l).setWidth 32).setWidth 64 + off.signExtend 64).toNat
def gatherAt (a : Reg) (x : W32) (t : Team) (c l : Nat) : Nat :=
  let i := reg a t c l
  let ix : Word := if x.getLsbD 7 then i else if x.getLsbD 8 then (i.setWidth 32).signExtend 64 else (i.setWidth 32).setWidth 64
  let ea := reg (x.extractLsb' 0 7) t c l + (ix <<< (x.extractLsb' 9 3).toNat)
  if x.getLsbD 12 then (ea.setWidth 32).toNat else ea.toNat
/-- Bytes of a size code: an integer of 1, 2, 4 or 8 bytes, signed for an odd code (R175). -/
def intBytes (sz : BitVec 4) : Nat := 2 ^ (sz.toNat / 2 % 4)
def intLoad (d : Reg) (sz : BitVec 4) (_ : Team) (_ : Nat) (b : List Byte) : LaneOut :=
  { regs := [(d, if sz.getLsbD 0 then (BitVec.ofNat (8 * intBytes sz) (leVal b)).signExtend 64 else BitVec.ofNat 64 (leVal b))] }
/-- The interval forms: IV32 and IB32 pairs of 16-bit bounds, IV64, IV128, MRW (R175, R254). -/
def ivLoad (d : Reg) (sz : BitVec 4) (_ : Team) (_ : Nat) (b : List Byte) : LaneOut :=
  let v := leVal b
  let f := fmtOf (sz.getLsbD 3)
  let r := if sz.extractLsb' 0 3 = 0 then cvtPair f16 f (v % 2 ^ 16) (v / 2 ^ 16)
    else if sz.extractLsb' 0 3 = 1 then cvtPair bf16 f (v % 2 ^ 16) (v / 2 ^ 16)
    else if sz.extractLsb' 0 3 = 2 then cvtPair f32 f (v % 2 ^ 32) (v / 2 ^ 32)
    else if sz.extractLsb' 0 3 = 3 then cvtPair f64 f (v % 2 ^ 64) (v / 2 ^ 64)
    else loadMrw f v
  { regs := ivRegs (sz.getLsbD 3) d r, flags := r.fl }
def intervalBytes (sz : BitVec 4) : Nat := if sz.extractLsb' 0 3 = 2 then 8 else if sz.extractLsb' 0 3 = 3 then 16 else 4
/-- The words of one shape over global memory and the stash, without and with an offset. -/
def intLoads (f : FL) (g : FLX) : List (Instr × Reg × BitVec 3 × Reg × BitVec 4 × Bool × (Team → Nat → Nat → Nat)) :=
  [(.ld f, f.d, f.k, f.a, f.sz, false, baseOff f.a 0), (.ldOffset g, g.d, g.k, g.a, g.sz, false, baseOff g.a g.x),
   (.lds f, f.d, f.k, f.a, f.sz, true, stashOff f.a 0), (.ldsOffset g, g.d, g.k, g.a, g.sz, true, stashOff g.a g.x)]
def ivLoads (f : FL) (g : FLX) : List (Instr × Reg × BitVec 3 × Reg × BitVec 4 × (Team → Nat → Nat → Nat)) :=
  [(.ldv f, f.d, f.k, f.a, f.sz, baseOff f.a 0), (.ldvOffset g, g.d, g.k, g.a, g.sz, baseOff g.a g.x)]
/-- Word i of a lane in its team's private segment, and the next for a 64-bit element (R138, R140, R260). -/
def privateAcc (d a : Reg) (sz : BitVec 4) (s : State) (tk : Nat) : Passes × List Acc :=
  let t := s.team tk
  let sc := isCtl tk || (isS d && isS a)
  let wide := sz == 6
  let ix := fun (u : Team) c l => ((reg a u c l).setWidth 32).toNat
  let at_ := fun (u : Team) i l => privOf s u + 4 * (i * u.width + l)
  let p := memPasses s tk t.clk sc false fun u c l => (at_ u (ix u c l) l, 4) :: (if wide then [(at_ u (ix u c l + 1) l, 4)] else [])
  (p.1, p.2.map fun x =>
    if ix t x.cyc x.lane + (if wide then 1 else 0) < t.plim.toNat then x else { x with priv := some (ix t x.cyc x.lane) })
/-- The accesses and the element of a narrow block load: a scale byte for 32 lanes and the code's bits (R255). -/
def blockAcc (a : Reg) (sz : BitVec 4) (off : BitVec 32) (s : State) (tk : Nat) : Passes × List Acc :=
  let t := s.team tk
  let b := (kindOf (sz.toNat % 8)).b
  let eb := fun u => baseOff a off u t.clk 0
  let sb := fun u => (reg (nextReg a) u t.clk 0).toNat
  memPasses s tk t.clk false false fun u _ l =>
    [((sb u + l / 32) % 2 ^ 64, 1),
     ((eb u + l / 32 * blockBytes (sz.toNat % 8) + b * (l % 32) / 8) % 2 ^ 64, (b * (l % 32 + 1) + 7) / 8 - b * (l % 32) / 8)]
def blockLoad (d : Reg) (sz : BitVec 4) (t : Team) (l : Nat) (x : List Byte) : LaneOut :=
  let b := (kindOf (sz.toNat % 8)).b
  let r := loadElem (fmtOf (sz.getLsbD 3)) (sz.toNat % 8) t.cbt (x.headD 0).toNat (leVal (x.drop 1) / 2 ^ (b * (l % 32) % 8) % 2 ^ b)
  { regs := ivRegs (sz.getLsbD 3) d r, flags := r.fl }
def blockLoads (f : FL) (g : FLX) : List (Instr × Reg × BitVec 3 × Reg × BitVec 4 × BitVec 32) :=
  [(.ldn f, f.d, f.k, f.a, f.sz, 0), (.ldnOffset g, g.d, g.k, g.a, g.sz, g.x)]

/-- The bytes that stores place, in order: by location in global memory, and by offset in scratch. -/
def storedBytes (s : State) (tk : Nat) (l : List (Acc × List Byte)) : List (BLoc × Byte) :=
  l.flatMap fun x => (reached s tk .write x.1).zip x.2
def storedAt (s : State) (tk : Nat) (l : List (Acc × List Byte)) : List (Nat × Byte) :=
  (storedBytes s tk l).filterMap fun x => match x.1 with | .gl loc _ => some (loc, x.2) | .sc _ => none
def storedScratch (s : State) (tk : Nat) (l : List (Acc × List Byte)) : List (Nat × Byte) :=
  (storedBytes s tk l).filterMap fun x => match x.1 with | .sc o => some (o, x.2) | .gl _ _ => none
/-- A store whose accesses meet nothing, in a state s reached from s0. In a region outside careful mode, and to a U page, its
bytes are buffered in the open region: its team alone sees them, every other byte reads as before to it, and no byte of
memory changes. Otherwise, in careful mode, on a controller, and with no region, memory changes at once in the stored bytes
alone, where the group has the ticket (R128, R143, R152, R156, R250 to R253, R262). -/
def StoreEffect (s0 s : State) (tk : Nat) (i : Instr) (tok : BitVec 3) (sc : Bool) (p : Passes) (l : List (Acc × List Byte))
    (fl : List (Nat × LaneOut)) : Prop :=
  let t := s.team tk
  let live := l.filter fun x => sc || t.live.getLsbD x.1.lane
  let lines := globLines (reachAll s tk .write (live.map (·.1)))
  let u := anyU lines
  let now := storesNow t tk && !u
  MeetNothing s tk tok .write (live.map (·.1)) (live.map (·.1)) →
  (now = false → ∃ s1 t1 e,
    Acts s0 tk i (afterU s1 tk u) p.last p.fin 1 ∧ s1.team tk = t1 ∧ (∀ k, k ≠ tk → s1.team k = s.team k) ∧
    s1 = { s with teams := s1.teams, tlb := s1.tlb, free := s1.free, sPages := s1.sPages } ∧ Carries t e (some tok.toNat) .arrival fl none ∧
    t1 = launched { t with regions := t1.regions, careful := t.careful && !u } e tok ∧ t1.regions.length = t.regions.length ∧
    t1.regions.dropLast = t.regions.dropLast ∧
    (∀ a, readLoc s1 tk a = lastAt (storedAt s tk live) a (readLoc s tk a)) ∧
    (∀ o, readScratch s1 tk o = lastAt (storedScratch s tk live) o (readScratch s tk o))) ∧
  (now = true → (isCtl tk = true ∨ unticketed s t.gid = false) → ∃ s1, Acts s0 tk i s1 p.last p.fin 1 ∧
    (∀ a, readMem s1 a = lastAt (storedAt s tk live) a (readMem s a)) ∧
    (unwatched s tk → (∀ x ∈ lines, x.2 = 0) → t.excl = false → ∃ e, s1.team tk = launched t e tok ∧
      Carries t e (some tok.toNat) .arrival fl none ∧ ∀ k, k ≠ tk → s1.team k = s.team k))
/-- The claim of a store word of one part a lane: the bytes and flags a lane stores. -/
def StoreClaim (i : Instr) (srcs : List Reg) (tok : BitVec 3) (sc : Nat → Bool) (acc : State → Nat → Passes × List Acc)
    (data : Team → Nat → Nat → List Byte × Flags) : Prop :=
  ∀ (s : State) (tk : Nat), Issues s tk i srcs →
    let t := s.team tk
    let l := (acc s tk).2
    StoreEffect s s tk i tok (sc tk) (acc s tk).1 (l.map fun a => (a, (data t a.cyc a.lane).1))
      (l.flatMap fun a => if sc tk then (activeLanes t).map fun k => (k, { flags := (data t a.cyc a.lane).2 })
                          else [(a.lane, { flags := (data t a.cyc a.lane).2 })])
/-- The little-endian bytes of a number. -/
def bytesOf (n : Nat) (x : Nat) : List Byte := (List.range n).map fun i => BitVec.ofNat 8 (x / 2 ^ (8 * i))
def intStore (d : Reg) (sz : BitVec 4) (t : Team) (c l : Nat) : List Byte × Flags := (bytesOf (intBytes sz) (reg d t c l).toNat, 0)
def ivStore (d : Reg) (sz : BitVec 4) (t : Team) (c l : Nat) : List Byte × Flags :=
  let f := fmtOf (sz.getLsbD 3)
  let x := readPairBits t c l (sz.getLsbD 3) d
  let pair := fun (g : Fmt) => let r := cvtPair f g x.1 x.2; (bytesOf (intervalBytes sz) (r.lo + 2 ^ g.width * r.hi), r.fl)
  if sz.extractLsb' 0 3 = 0 then pair f16 else if sz.extractLsb' 0 3 = 1 then pair bf16
  else if sz.extractLsb' 0 3 = 2 then pair f32 else if sz.extractLsb' 0 3 = 3 then pair f64
  else
    let y := readIv f x.1 x.2
    (bytesOf 4 (storeMrw y.1).1, y.2 ||| (storeMrw y.1).2)
def intStores (f : FL) (g : FLX) : List (Instr × Reg × BitVec 3 × Reg × BitVec 4 × Bool × (Team → Nat → Nat → Nat)) :=
  [(.st f, f.d, f.k, f.a, f.sz, false, baseOff f.a 0), (.stOffset g, g.d, g.k, g.a, g.sz, false, baseOff g.a g.x),
   (.sts f, f.d, f.k, f.a, f.sz, true, stashOff f.a 0), (.stsOffset g, g.d, g.k, g.a, g.sz, true, stashOff g.a g.x)]
def ivStores (f : FL) (g : FLX) : List (Instr × Reg × BitVec 3 × Reg × BitVec 4 × (Team → Nat → Nat → Nat)) :=
  [(.stv f, f.d, f.k, f.a, f.sz, baseOff f.a 0), (.stvOffset g, g.d, g.k, g.a, g.sz, baseOff g.a g.x)]
/-- A quantised block of a team's register for each active mask word: NCVT writes each lane its code under its block's scale,
and the scale (R256). -/
def blocksOf (s : State) (t : Team) (p : Passes) (k : Nat) (w : Bool) (a : Reg) : List (Nat × NBlock) :=
  p.at_.map fun x => (x.2, formBlock s t x.2 k w a x.1)
def ncvtLanes (d : Reg) (l : List (Nat × NBlock)) : List (Nat × LaneOut) :=
  l.flatMap fun x => x.2.codes.map fun y => (y.1, { regs := [(d, BitVec.ofNat 64 (y.2 + 2 ^ 8 * x.2.scale))], flags := x.2.fl })
/-- What STN stores of a block with a contributing lane: 32 packed codes at the element base, and the scale byte (R257). -/
def blockStore (eb sb n b : Nat) (x : Nat × NBlock) : List (Acc × List Byte) :=
  x.2.contrib.take 1 |>.map fun l =>
    ((⟨l, x.1, false, [((eb + x.2.j * n) % 2 ^ 64, n), ((sb + x.2.j) % 2 ^ 64, 1)], none⟩ : Acc),
     packCodes b ((List.range 32).map fun i =>
       ((x.2.codes.find? fun y => y.1 == x.2.j * 32 + i && x.2.contrib.contains y.1).map (·.2)).getD 0) ++ [BitVec.ofNat 8 x.2.scale])
def blockStores (f : FL) (g : FLX) : List (Instr × Reg × BitVec 3 × Reg × BitVec 4 × BitVec 32) :=
  [(.stn f, f.d, f.k, f.a, f.sz, 0), (.stnOffset g, g.d, g.k, g.a, g.sz, g.x)]

/-- What an atomic makes of memory m and operands v and c: the new value, the old one, and flags (R266). Types 0 to 3 are
I32, I64, N32 and N64; the last three atomics work on intervals. -/
def atomOf (op ty m v c : Nat) : Nat × Nat × Flags :=
  let w := decide (ty % 2 = 1)
  let x : Word := BitVec.ofNat 64 m
  let y : Word := BitVec.ofNat 64 v
  let int := fun (g : (n : Nat) → BitVec n → BitVec n → BitVec n) => ((atW w g x y).toNat, m, (0 : Flags))
  let iv := fun (g : Fmt → IV → IV → IvRes) =>
    let f := fmtOf (decide (ty = 1))
    let h := 2 ^ f.width
    let a := readIv f (m % h) (m / h)
    let b := readIv f (v % h) (v / h)
    let r := g f a.1 b.1
    (r.lo + r.hi * h, (writeIv f a.1).lo + (writeIv f a.1).hi * h, r.fl ||| a.2 ||| b.2)
  if op = 0 then int fun _ a b => a + b
  else if op = 1 then int fun _ a b => if ty < 2 then (if a.sle b then a else b) else (if a.ule b then a else b)
  else if op = 2 then int fun _ a b => if ty < 2 then (if a.sle b then b else a) else (if a.ule b then b else a)
  else if op = 3 then int fun _ a b => a &&& b
  else if op = 4 then int fun _ a b => a ||| b
  else if op = 5 then int fun _ a b => a ^^^ b
  else if op = 6 then (v, m, 0)
  else if op = 7 then (if m = c then v else m, m, 0)
  else if op = 8 then (if v ≤ m then 0 else m + 1, m, 0)
  else if op = 9 then (if m = 0 ∨ v < m then v else m - 1, m, 0)
  else if op = 10 then iv fAdd else if op = 11 then iv fMin else iv fMax
/-- The thirteen atomics by number, with the registers each reads. -/
def atomRows : List (Nat × (FL → Instr) × (FL → List Reg)) :=
  [(0, .aadd, fun f => [f.d, f.a]), (1, .amin, fun f => [f.d, f.a]), (2, .amax, fun f => [f.d, f.a]), (3, .aand, fun f => [f.d, f.a]),
   (4, .aor, fun f => [f.d, f.a]), (5, .axor, fun f => [f.d, f.a]), (6, .axchg, fun f => [f.d, f.a]),
   (7, .acas, fun f => [f.d, nextReg f.d, f.a]), (8, .ainc, fun f => [f.d, f.a]), (9, .adec, fun f => [f.d, f.a])] ++
  [(10, .afadd, fun f => f.a :: pairRegs (f.sz.getLsbD 2) f.d), (11, .afmin, fun f => f.a :: pairRegs (f.sz.getLsbD 2) f.d),
   (12, .afmax, fun f => f.a :: pairRegs (f.sz.getLsbD 2) f.d)]
/-- Bytes of an atomic in memory, and its alignment (R265). -/
def atomSize (op ty : Nat) : Nat := if op < 10 then (if ty % 2 = 0 then 4 else 8) else if ty = 0 then 8 else 16
def atomAlignment (op ty : Nat) : Nat := if op = 7 ∧ ty = 1 then 16 else atomSize op ty
/-- The operand and compare value of a lane: ACAS compares with the named register and swaps in the next (R266). -/
def atomArg (op ty : Nat) (d : Reg) (t : Team) (c l : Nat) : Nat × Nat :=
  if 10 ≤ op then
    let x := readPairBits t c l (decide (ty = 1)) d
    (x.1 + x.2 * 2 ^ (fmtOf (decide (ty = 1))).width, 0)
  else
    let r := fun (r : Reg) => if ty % 2 = 1 then (reg r t c l).toNat else ((reg r t c l).setWidth 32).toNat
    if op = 7 then (r (nextReg d), r d) else (r d, 0)
/-- One lane's event on memory as a function: what every byte reads, and the lane's old value and flags. -/
def atomStep (op ty : Nat) (m : Nat → Byte) (loc v c : Nat) : (Nat → Byte) × Nat × Flags :=
  let n := atomSize op ty
  let r := atomOf op ty (leVal ((List.range n).map fun i => m (loc + i))) v c
  (fun a => if loc ≤ a ∧ a < loc + n then BitVec.ofNat 8 (r.1 / 2 ^ (8 * (a - loc))) else m a, r.2.1, r.2.2)
/-- The lanes of an atomic, one event after another in lane order (R143, R266). -/
def atomSteps (op ty : Nat) : List (Nat × Nat × Nat × Nat) → (Nat → Byte) → (Nat → Byte) × List (Nat × Nat × Flags)
  | [], m => (m, [])
  | (lane, loc, v, c) :: r, m =>
    let x := atomStep op ty m loc v c
    let y := atomSteps op ty r x.1
    (y.1, (lane, x.2.1, x.2.2) :: y.2)
/-- The registers of an atomic's result. -/
def atomRegs (op ty : Nat) (d : Reg) (old : Nat) : List (Reg × Word) :=
  if 10 ≤ op then
    let h := 2 ^ (fmtOf (decide (ty = 1))).width
    ivRegs (decide (ty = 1)) d ⟨old % h, old / h, 0⟩
  else [(d, BitVec.ofNat 64 old)]
/-- The passes and accesses of an atomic: one cycle for each active lane of a mask word, with those of the teams that share
the pass (R24, R265). -/
def atomAcc (op : Nat) (f : FL) (sc : Bool) (s : State) (tk : Nat) : Passes × List Acc :=
  let t := s.team tk
  let p := if sc then ⟨[(0, t.clk)], t.clk, t.clk + 1⟩ else passesOf t t.clk fun j _ => lanesOfPass s tk j
  (p, (if sc then [0] else activeLanes t).map fun l =>
    ⟨l, passCycle p l, false, [((reg f.a t (passCycle p l) l).toNat, atomSize op (f.sz.toNat / 4))], none⟩)
/-- An atomic on this E9's memory whose turn has come (R153, R168): the lanes' events happen in lane order, every byte that
none of them stores reads as before, and the old values are in flight, but for the combining form (R265, R266). -/
def AtomEffect (s : State) (tk op : Nat) (i : Instr) (f : FL) : Prop :=
  let t := s.team tk
  let sc := isCtl tk || (isS f.d && isS f.a)
  let ty := f.sz.toNat / 4
  let l := sure t sc (atomAcc op f sc s tk).2
  let hits := l.filterMap fun a => match reached s tk .write a with
    | .gl loc _ :: _ => some (a.lane, loc, atomArg op ty f.d t a.cyc a.lane)
    | _ => none
  let run := atomSteps op ty (hits.map fun x => (x.1, x.2.1, x.2.2.1, x.2.2.2)) (readMem s)
  let lanes := if f.sz.toNat % 4 = 2 then [] else
    (run.2.map fun x => (x.1, ({ regs := atomRegs op ty f.d x.2.1 } : LaneOut))) ++
    ((atomAcc op f sc s tk).2.filter fun a => !(sc || t.live.getLsbD a.lane)).map fun a =>
      (a.lane, { regs := ((atomRegs op ty f.d 0).filter fun x => isV x.1).map fun x => (x.1, 0) })
  let flags := run.2.flatMap fun x => if sc then (activeLanes t).map fun k => (k, ({ flags := x.2.2 } : LaneOut)) else [(x.1, { flags := x.2.2 })]
  t.st = .issuing → mayAct s tk → t.placed = none → t.lanesDone = [] → t.tok.getLsbD f.k.toNat = false →
  (hits.length ≤ 1 ∨ unwatched s tk) → (∀ a ∈ l, ∀ x ∈ a.parts, x.1 % atomAlignment op ty = 0) → firstFault s tk .write l = none →
  (∀ x ∈ hits, isRemote x.2.1 = false) → gates s tk (globLines ((reachAll s tk .write l).map fun x => (x.1, x.2.take 1))) true = none →
  (op < 10 ∨ ∀ q, teamGrid s tk = some q → q.det = false) →
  ∃ s1, Acts s tk i (entryAfter s1 tk) (atomAcc op f sc s tk).1.last (atomAcc op f sc s tk).1.fin 1 ∧
    (∀ a, readMem s1 a = run.1 a) ∧
    (unwatched s tk → ∃ e, Carries t e (some f.k.toNat) .arrival (lanes ++ flags) none ∧ (∀ k, k ≠ tk → s1.team k = s.team k) ∧
      pastWord (s1.team tk) = pastWord (launched { t with oiCount := 0 } e f.k))

/-- A word parks its team, to issue again at its own address (R30, R184). -/
def ParksAt (s : State) (tk : Nat) (i : Instr) (p : Park) (w : ParkWait) : Prop :=
  ∃ s' u, exec i s = .next s' ∧ s'.team tk = u ∧ u.st = .parked ∧ u.park = p ∧ u.wait = w ∧ u.pc = (s.team tk).wordPc ∧ u.susp = true
/-- A word with an open region in its way closes it and waits for its commit (R149, R155). -/
def WaitsForCommit (s : State) (tk : Nat) (i : Instr) : Prop :=
  (s.team tk).careful = false → (s.team tk).regions ≠ [] →
  ParksAt s tk i .commit ⟨0, 0⟩ ∧ ∃ s', exec i s = .next s' ∧ (∀ a, readMem s' a = readMem s a) ∧
    (s'.team tk).regions.map (·.rid) = (s.team tk).regions.map (·.rid) ∧ ((s'.team tk).regions.getLast?.map (·.closed)) = some true
/-- A team's open region is closed; its older ones stand (R149). -/
def closedOpen (t : Team) : Team :=
  { t with regions := t.regions.dropLast ++ (t.regions.drop (t.regions.length - 1)).map fun r => { r with closed := true } }
/-- Every other team has arrived at a barrier, and the bit of a team's arrival (R268). -/
def arrivedAt (n : Nat) (cluster : Bool) (t : Team) : Bool := (if cluster then t.arrC else t.arrG).getLsbD n
/-- The words that act after every older region, with the registers each reads, and what must hold for its checks before
the wait to pass: the array held, a count or a mapping in its limits, the accesses aligned and without fault, the token free
(R148, R149, R153, R155, R251, R278). -/
def waitRows (f : FA) (x : FAX) (l : FL) : List (Instr × List Reg × (State → Nat → Prop)) :=
  let val := fun (s : State) tk r => reg r (s.team tk) (s.team tk).clk 0
  let at8 := fun (s : State) tk r k => (val s tk r).toNat % 8 = 0 ∧
    ∃ ps, xlateN s (teamCore s tk) (teamAs s tk) (val s tk r).toNat 8 k = .ok ps
  [(.commit f, [], fun _ _ => True), (.buffree f, [], fun _ _ => True), (.unseal f, [], fun _ _ => True),
   (.macq f, [], fun _ _ => True), (.sunmap f, [f.a], fun _ _ => True),
   (.bar f, [], fun s tk => (s.team tk).irrev = false), (.barc f, [], fun s tk => (s.team tk).irrev = false),
   (.mrel f, [], fun s tk => holdsArray s tk = true)] ++
  [(.bufdef x, [x.a, x.b], fun s tk => ∃ g, teamGroup s tk = some g ∧ let n := (val s tk x.b).toNat
      0 < n ∧ n ≤ 2 ^ 20 ∧ ((val s tk x.a).setWidth 32).toNat + n ≤ g.progBytes),
   (.smap x, [x.d, x.a], fun s tk => ∃ g, teamGroup s tk = some g ∧ let off := (val s tk x.d).toNat; let n := x.x.toNat
      off % 128 = 0 ∧ (val s tk x.a).toNat % 128 = 0 ∧ n % 128 = 0 ∧ 0 < n ∧ n ≤ 2 ^ 20 ∧ off + n ≤ g.progBytes),
   (.waitc x, [x.a, x.b], fun s tk => at8 s tk x.a .read),
   (.sigc f, [f.a, f.b], fun s tk => at8 s tk f.a .write ∧ (s.team tk).placed = none)] ++
  [(.seal l, [l.a], fun s tk => (s.team tk).tok.getLsbD l.k.toNat = false),
   (.launch l, [l.a], fun s tk => (s.team tk).tok.getLsbD l.k.toNat = false ∧ (s.team tk).placed = none ∧ (val s tk l.a).toNat % 64 = 0 ∧
      ∃ ps, xlateN s (teamCore s tk) (teamAs s tk) (val s tk l.a).toNat 192 .read = .ok ps),
   (.mcbk l, [l.a], fun s tk => (s.team tk).tok.getLsbD l.k.toNat = false ∧ holdsArray s tk = true ∧ (val s tk l.a).toNat % 32 = 0),
   (.mldb l, [l.a, nextReg l.a], fun s tk => (s.team tk).tok.getLsbD l.k.toNat = false ∧ holdsArray s tk = true ∧
      ((val s tk (nextReg l.a)).setWidth 32).toNat % 64 = 0 ∧ (l.sz.getLsbD 1 = true → (arrOf s (teamCore s tk)).paired = true) ∧
      ∃ r, slotOf s tk (l.d.toNat % 16) = some r ∧ srRoleB r = true)] ++
  atomRows.map fun r => (r.2.1 l, r.2.2 l, fun s tk =>
    let t := s.team tk
    let sc := isCtl tk || (isS l.d && isS l.a)
    let accs := sure t sc (atomAcc r.1 l sc s tk).2
    t.tok.getLsbD l.k.toNat = false ∧ t.placed = none ∧ firstFault s tk .write accs = none ∧
    ∀ a ∈ accs, ∀ y ∈ a.parts, y.1 % atomAlignment r.1 (l.sz.toNat / 4) = 0)
/-- A barrier word: a team that was released goes on; the last arrival releases every team; another parks (R155, R268). -/
def BarrierEffect (s : State) (tk : Nat) (i : Instr) (n : Nat) (cluster : Bool) : Prop :=
  let t := s.team tk
  (t.irrev = true → ActsOnce s tk i (entryAfter (s.setTeam tk { t with irrev := false }) tk)) ∧
  (t.irrev = false → t.regions = [] → t.st = .issuing → ∀ g, teamGroup s tk = some g → tk ∈ barTeams s g cluster →
    ((∀ k ∈ barTeams s g cluster, k ≠ tk → arrivedAt n cluster (s.team k) = true) →
      ∃ s1, ActsOnce s tk i (entryAfter s1 tk) ∧ (∀ k ∈ barTeams s g cluster, arrivedAt n cluster (s1.team k) = false) ∧
        (∀ k ∈ barTeams s g cluster, k ≠ tk → (s.team k).st = .parked → (s.team k).park = .barrier →
          saveDecided s k = false → (s1.team k).st = .ready) ∧
        ∀ a, readMem s1 a = readMem s a) ∧
    ((∃ k ∈ barTeams s g cluster, k ≠ tk ∧ arrivedAt n cluster (s.team k) = false) →
      ParksAt s tk i .barrier ⟨0, n⟩ ∧ ∃ s', exec i s = .next s' ∧ arrivedAt n cluster (s'.team tk) = true ∧
        (∀ k, k ≠ tk → s'.team k = s.team k) ∧ ∀ a, readMem s' a = readMem s a))
/-- The conditions of WAITC on the counter and the compare value (R276). -/
def waitcRows : List (Word → Word → Bool) :=
  [fun m v => m == v, fun m v => m != v, fun m v => v.ule m, fun m v => m.ule v, fun m v => v.sle m, fun m v => m.sle v]
/-- The counter after SIGC by mode (R277). -/
def sigcRows : List (Word → Word → Word) := [fun m v => m + v, fun m v => m - v, fun _ v => v]
/-- The handle of a group after a word, all other handles as before. -/
def HandleIs (s s' : State) (tk h : Nat) (x : Handle) : Prop :=
  handleOf s' tk h = x ∧ (∀ k, k ≠ h → handleOf s' tk k = handleOf s tk k) ∧ (∀ a, readMem s' a = readMem s a) ∧
  ∀ a, readScratch s' tk a = readScratch s tk a

/-- The lines of some bytes as an engine or an irrevocable word reaches them: those of another E9 at their home, but for a
page that is borrowed here (R161, R166, R410). -/
def engineLines (s : State) (ps : List (Nat × Place)) : List (Nat × Nat) :=
  (distinct (ps.map fun x => lineOf x.1)).map fun l => (l, counterCoh s (l * 128) 0)
/-- A chain as CPYGO queues it: at its first record, uncommitted but in a team with no region, with nothing to publish
(R271). -/
def freshChain (s : State) (tk ch head : Nat) (x : Chain) : Prop :=
  x.cid = s.nextCid ∧ x.tk = some tk ∧ x.gid = some (s.team tk).gid ∧ x.core = teamCore s tk ∧ x.ch = ch ∧ x.ctx = teamAs s tk ∧
  x.cur = head ∧ x.committed = (s.team tk).regions.isEmpty ∧ x.shadow = [] ∧ x.stepDue = false ∧ x.ended = false ∧ x.queueRec = none
/-- A scalar result of a word of one cycle; nothing but the team's registers changes. -/
def Gives (s : State) (tk : Nat) (i : Instr) (d : Reg) (v : Word) : Prop :=
  ∃ u, ActsOnce s tk i (s.setTeam tk u) ∧ Did (s.team tk) u [(0, { regs := [(d, v)] })]
/-- A team stands as before, or with one more word in flight that waits for something and carries no result. -/
def Holding (t u : Team) (tok : Option (BitVec 3)) (w : LWait) : Prop :=
  match tok with
  | none => u = t
  | some k => ∃ e, u = launched t e k ∧ Carries t e (some k.toNat) w [] none
/-- The operation that a matrix word has put at the end of its array's queue (R290), with the region that issued it and the
scratch lines that it will write, which are absent at once where no region holds it back (R294, R298); memory, the rest of
the array and every other team, core and group stand. -/
def Queues (s : State) (tk : Nat) (i : Instr) (entry : Bool) (tok : Option (BitVec 3)) (p : MOp → Prop) (lines : List Nat := []) : Prop :=
  let t := s.team tk
  let core := teamCore s tk
  let a := arrOf s core
  ∃ s1 o, ActsOnce s tk i (if entry then entryAfter s1 tk else s1) ∧
    o.mid = a.nextMid ∧ o.tk = tk ∧ o.gid = t.gid ∧ o.ins = i ∧ o.stage = .queued ∧ o.issue = t.clk ∧ o.shadow = none ∧
    o.slines = lines ∧ o.committed = t.regions.isEmpty ∧ (∀ r, t.regions.getLast? = some r → o.rid = r.rid) ∧ p o ∧
    s1.core core = { s.core core with arr := { a with ops := a.ops ++ [o], nextMid := a.nextMid + 1, issued :=
      (if bindable i then a.issued ++ [⟨o.mid, o.rid, o.committed, false⟩] else a.issued) } } ∧
    (∀ c, c ≠ core → s1.core c = s.core c) ∧ Holding t (s1.team tk) tok (.matrix core o.mid) ∧
    (∀ k, k ≠ tk → s1.team k = s.team k) ∧ s1 = { s with teams := s1.teams, cores := s1.cores, groups := s1.groups } ∧
    (t.regions ≠ [] ∨ lines = [] → s1.groups = s.groups) ∧ (∀ k, k ≠ t.gid → s1.group? k = s.group? k) ∧
    ∀ g, s.group? t.gid = some g → ∃ ab, s1.group? t.gid = some { g with absent := ab } ∧
      ∀ l, l ∈ ab ↔ l ∈ g.absent ∨ (t.regions = [] ∧ l ∈ lines ∧ mappedLine g l = false)
/-- The queue of the holder's array takes one more operation: none waits in it, and fewer than four shadows are held
(R290, R291). -/
def canQueue (s : State) (tk : Nat) : Prop :=
  holdsArray s tk = true ∧ (∀ o ∈ (arrOf s (teamCore s tk)).ops, o.stage ≠ .queued) ∧
  ((arrOf s (teamCore s tk)).ops.filter fun o => o.shadow.isSome).length < 4
/-- The low and the high half of a register. -/
def lowHalf (r : Reg) (t : Team) : Nat := (reg r t t.clk 0).toNat % 2 ^ 32
def highHalf (r : Reg) (t : Team) : Nat := (reg r t t.clk 0).toNat / 2 ^ 32
/-- The multiplies: pair form and radius form of each (R287). -/
def mulRows (f : FL) : List (Instr × Bool × Bool) :=
  [(.mma f, false, false), (.mmar f, false, true), (.mmaPair f, true, false), (.mmarPair f, true, true)]
/-- The rectangle of MSTORE and MLOADC (R294, R295). -/
def rectAt (f : FL) (t : Team) : Rect :=
  { acc0 := lowHalf f.d t, rows := highHalf f.d t % 2 ^ 16, cols := highHalf f.d t / 2 ^ 16, pitch := lowHalf (nextReg f.d) t,
    base := (reg f.a t t.clk 0).toNat, stride := (((reg (nextReg f.a) t t.clk 0).setWidth 32).toInt), form := f.sz.toNat % 8 }
/-- The entries of a rectangle run from its first to its last. -/
def span (r : Rect) : Nat × Nat := (r.acc0, r.last + 1 - r.acc0)
/-- A group of no deterministic grid whose hamper has a slot for every lane of a team (R45, R61). -/
def roomToPush (s : State) (g : Group) (t : Team) : Prop :=
  g.gid = t.gid ∧ g.hamper.length + t.width ≤ g.hamperN ∧ ∀ q, s.grid? g.seq = some q → q.det = false
/-- A pushing word: each live active lane that offers a payload pushes it, oldest lane first, reads T and keeps what the
offer leaves it; every other active lane reads F (R17, R45, R47, R48). -/
def Pushes (s : State) (tk : Nat) (i : Instr) (d : Reg) (bin : Nat) (offer : Group → Nat → Nat → Option (List Word × List (Reg × Word))) : Prop :=
  let t := s.team tk
  let p := passesOf t t.clk fun j _ => max 1 ((activeLanes t).filter fun l => l / 32 == j).length
  ∀ g, teamGroup s tk = some g → roomToPush s g t → t.st = .issuing →
    let out := fun l => if t.live.getLsbD l then offer g (passCycle p l) l else none
    ∃ s1 u rs g1, Acts s tk i s1 (p.fin - 1) p.fin (p.ready 4) ∧ s1.team tk = { u with regions := rs } ∧
      Did t u ((activeLanes t).map fun l => (l, match out l with
        | some o => { regs := o.2, preds := [(d, .t)] }
        | none => { preds := [(d, .f)] })) ∧
      s1.group? t.gid = some g1 ∧ g1.hamper.take g.hamper.length = g.hamper ∧
      ((g1.hamper.drop g.hamper.length).map fun e => (e.bin, e.pay)) = ((activeLanes t).filterMap fun l => (out l).map fun o => (bin, o.1)) ∧
      (∀ a, readMem s1 a = readMem s a)
/-- What SPLIT offers of a lane: the upper half in the payload, the lower half kept (R47). -/
def halves (f : FBW) (t : Team) (g : Group) (c l : Nat) : Option (List Word × List (Reg × Word)) :=
  match (ivOp f.w f.a t c l).1 with
  | .iv lo hi => (splitPoint (fmtOf f.w) lo hi).map fun m =>
      (patchPay g (framePay t g c l) f.a.toNat (ivVals f.w (writeIv (fmtOf f.w) (.iv m hi))),
       ivRegs f.w f.a (writeIv (fmtOf f.w) (.iv lo m)))
  | _ => none
/-- A number in the low 32 bits of a register. -/
def low32 (n : Nat) : Word := BitVec.ofNat 64 (n % 2 ^ 32)
/-- The uniform status registers that every level reads, of a team or a controller (R5, R14, R73, R77, R133, R139, R313). -/
def srRows (s : State) (t : Team) : List (Nat × Word) :=
  [(0x00, BitVec.ofNat 64 (featOf s)), (0x01, BitVec.ofNat 64 (stashCapOf s)), (0x02, BitVec.ofNat 64 t.clk), (0x03, tswBits t),
   (0x04, BitVec.ofNat 64 (ccBits t.cc)), (0x06, t.plim.setWidth 64), (0x11, BitVec.ofNat 64 t.width), (0x12, BitVec.ofNat 64 t.teami)]
/-- Those that a team's place and its grid's launch record give: PMAX, NTEAM, the group's coordinates, the grid's dimensions,
CLPOS, CORE and DIE (R14, R139, R312). -/
def srPlace (s : State) (tk : Nat) (g : Group) (q : Grid) : List (Nat × Word) :=
  [(0x07, BitVec.ofNat 64 (lrPmax q.lrec)), (0x13, low32 g.nteam), (0x14, low32 g.gx), (0x15, low32 g.gy), (0x16, low32 g.gz),
   (0x17, low32 (lrGdimx q.lrec)), (0x18, low32 (lrGdimy q.lrec)), (0x19, low32 q.gdimz), (0x1A, low32 g.clpos),
   (0x1B, BitVec.ofNat 64 (teamCore s tk % 96)), (0x1C, BitVec.ofNat 64 (dieOfCore (teamCore s tk)))]
/-- The save registers, which the handler level reads (R306, R312). -/
def srSaved (t : Team) : List (Nat × Word) :=
  [(0x20, t.ssw), (0x21, t.spc), (0x22, t.scause.setWidth 64), (0x23, t.saddr), (0x24, t.sinfo), (0x25, t.hvec),
   (0x26, tget 0 t.hs 0), (0x27, tget 0 t.hs 1), (0x28, tget 0 t.hs 2), (0x29, tget 0 t.hs 3)]
/-- A uniform value in a register: once for a scalar or a controller, in every active lane for a vector register (R311). -/
def uniform (t : Team) (tk : Nat) (d : Reg) (v : Word) : List (Nat × LaneOut) :=
  if isS d || isCtl tk then [(0, { regs := [(d, v)] })] else (activeLanes t).map fun l => (l, { regs := [(d, v)] })
/-- A status register takes a value: the team is otherwise as before. -/
def TakesSr (s : State) (tk : Nat) (f : FC) (u : Team) : Prop := ActsOnce s tk (.wrsr f) (s.setTeam tk u)

/-- A team stands at the waymark of a region, with an open empty region there (R151). -/
def AtWaymarkOf (u : Team) (w : Waymark) : Prop :=
  u.pc = w.pc ∧ u.live = w.live ∧ u.helper = w.helper ∧ u.mask = w.mask ∧ u.stack = w.stack ∧ u.p = w.p ∧ u.cc = w.cc ∧
  u.lvl = w.lvl ∧ u.wb = w.wb ∧ u.regcnt = w.regcnt ∧ u.st = .ready ∧ (w.inflight = [] → u.v = w.v ∧ u.s = w.s ∧ u.fl = w.fl) ∧
  ∃ r, u.regions.getLast? = some r ∧ r.wm = w ∧ r.closed = false ∧ r.reads = [] ∧ r.stores = []
/-- The only group of its grid that waits on a bin, on its die (R52, R57). -/
def alone (s : State) (g : Group) : Prop := dieGroups s g.seq (dieOfCore g.core) = [g]
/-- Entries of a bin that stand committed. -/
def standing (g : Group) (b : Nat) : List HEntry := g.hamper.filter fun e => e.bin == b && !e.spec && !e.taken

/-- The entries that a retiring operation writes to its own core's array, and of a pair to the other's (R288). -/
def ownResults (o : MOp) : List (Nat × Word) := o.results.filter fun x => x.1 < accSplit
def mateResults (o : MOp) : List (Nat × Word) := (o.results.filter fun x => accSplit ≤ x.1).map fun x => (x.1 - accSplit, x.2)
/-- Some scratch lines of a group have taken the bytes of a store, and are present from a cycle on (R136, R294). -/
def ScratchIn (s s' : State) (g : Group) (ls : List Nat) (data : List (Nat × Byte)) (c : Nat) : Prop :=
  SameMem s s' ∧ ∃ g1, s'.group? g.gid = some g1 ∧
    (∀ o, tget 0 g1.scratch o = lastAt (data.filter fun x => ls.contains (x.1 / 128)) o (tget 0 g.scratch o)) ∧
    (∀ l, l ∈ g1.absent ↔ l ∈ g.absent ∧ l ∉ ls) ∧ (∀ l ∈ ls, tget 0 g1.present l = c)
/-- An operation that stores. -/
def storesOut : Instr → Bool
  | .mstore _ | .msave _ => true
  | _ => false
/-- The command events, with the kind of record each accepts (R373). -/
def isCommand (q : Nat) (y : Instr × Nat) : Prop :=
  y ∈ [(.launchCommand q, 1), (.copyCommand q, 2), (.waitcCommand q, 3), (.sigcCommand q, 4), (.markCmd q, 5)]
/-- The invalidations and the TLBINV value of each (R399). -/
def isTlbinv (ctx va : Nat) (y : Instr × BitVec 8 × Option Nat) : Prop :=
  y ∈ [(.tlbinvPage ctx va, BitVec.ofNat 8 (ctx % 64), some (va % 2 ^ 57 / 4096 * 4096)),
   (.tlbinvContext ctx, BitVec.ofNat 8 (ctx % 64 + 64), none), (.tlbinvAll, 128, none)]

/-- A controller hears an event: one that waits runs, another keeps the event in its latch (R315, R418). -/
def Signalled (s s' : State) (c : Nat) : Prop :=
  ((s.ctl c).st = .waiting → (s'.ctl c).st = .running ∧ (s'.team (ctlKey c)).st = .ready) ∧
  ((s.ctl c).st ≠ .waiting → (s'.ctl c).latch = true ∧ (s'.ctl c).st = (s.ctl c).st)
/-- The events that end a running training step of a stack, with the result and the failing lanes of each (R426). -/
def endsStack (k : Nat) (old fail : BitVec 128) (y : Instr × Bool × BitVec 128) : Prop :=
  y ∈ [(Instr.dramTrainAbort k, false, old), (.dramTrainDone k fail, fail == 0, fail), (.dramTrainTimeout k, false, BitVec.allOnes 128)]
/-- The same for a host port's link (R427). -/
def endsLink (p : Nat) (pass : Bool) (y : Instr × Bool) : Prop :=
  y ∈ [(Instr.linkTrainAbort p, false), (.linkTrainDone p pass 0, pass), (.linkTrainTimeout p, false)]
/-- The write that a back-invalidation's dirty data make (R403, R406). -/
def backWrite (line : Nat) (data : List Byte) : HostReq := ⟨0, false, true, false, 0, line * 128, 128, data, false, 0⟩

end Sys2Proof.Claims

open Sys2Proof Sys2Proof.Machine Sys2Proof.Safety Sys2Proof.Claims

/-- R200 to R202: the two-source integer instructions.
R203: the one-source integer instructions.
R197, R200, R202: the forms with an immediate. -/
def Obligations.IntegerArithmetic : Prop :=
  (∀ o ∈ int2Rows, ∀ f : FAW, LaneClaim (o.ins f) [f.a, f.b] [f.d, f.a, f.b] (fun _ _ _ => (o.cl f.w).1) (o.cl f.w).2
     (o.out f.w f.d (reg f.a) (reg f.b)) (o.cc f.w (reg f.a) (reg f.b))) ∧
  (∀ o ∈ int1Rows, ∀ f : FAW, LaneClaim (o.ins f) [f.a] [f.d, f.a] (fun _ _ _ => 1) 1
     (o.two.out f.w f.d (reg f.a) (lit 0)) (o.two.cc f.w (reg f.a) (lit 0))) ∧
  (∀ o ∈ immRows, ∀ f : FBW, LaneClaim (o.1 f) [f.a] [f.d, f.a] (fun _ _ _ => (o.2.1.cl f.w).1) (o.2.1.cl f.w).2
     (o.2.1.out f.w f.d (reg f.a) (lit (immVal o.2.2 f.i))) (o.2.1.cc f.w (reg f.a) (lit (immVal o.2.2 f.i))))
/-- R66, R200, R204, R207: multiply-add and the bit fields, which write Z and N and clear C and V; the moves and
literals, which write no CC. -/
def Obligations.FieldsAndMoves : Prop :=
  (∀ f : FAW, LaneClaim (.imad f) [f.d, f.a, f.b] [f.d, f.a, f.b] (fun _ _ _ => (tMul f.w).1) (tMul f.w).2
    (one f.d (imadVal f)) (ccRes f.w (imadVal f))) ∧
  (∀ f : FAWX, LaneClaim (.bfx f) [f.a] [f.d, f.a] (fun _ _ _ => 1) 1 (one f.d (bfxOf f)) (ccRes f.w (bfxOf f))) ∧
  (∀ f : FAWX, LaneClaim (.bfi f) [f.d, f.a] [f.d, f.a] (fun _ _ _ => 1) 1 (one f.d (bfiOf f)) (ccRes f.w (bfiOf f))) ∧
  (∀ f : FAW, LaneClaim (.mov f) [f.a] [f.d, f.a] (fun _ _ _ => 1) 1
    (one f.d fun t c l => atW f.w (fun _ a _ => a) (reg f.a t c l) 0) sameCC) ∧
  (∀ f : FCW, LaneClaim (.movi f) [] [f.d] (fun _ _ _ => 1) 1
    (one f.d (lit (atW f.w (fun _ a _ => a) (f.i.signExtend 64) 0))) sameCC) ∧
  (∀ f : FM, LaneClaim (.movl f) [] [f.d] (fun _ _ _ => 1) 1
    (one f.d (lit (if f.w then f.hi ++ f.lo else f.lo.setWidth 64))) sameCC) ∧
  (∀ f : FA, LaneClaim (.movKill f) [] [f.d] (fun _ _ _ => 1) 1 (one f.d (lit 0)) sameCC)
/-- R208: LEA has the OPC 0x078 + sh and computes (a + (b << sh)) mod 2^64 from all 64 bits of a and b; it writes no CC and
raises nothing, whatever the address. -/
def Obligations.AddressWord : Prop :=
  (∀ f : FE, (encode (.lea f)).map (fun x => (wordOpc x).toNat) = [0x078 + f.sh.toNat]) ∧
  (∀ f : FE, LaneClaim (.lea f) [f.a, f.b] [f.d, f.a, f.b] (fun _ _ _ => 1) 1
    (one f.d fun t c l => BitVec.ofNat 64 (((reg f.a t c l).toNat + (reg f.b t c l).toNat * 2 ^ f.sh.toNat) % 2 ^ 64)) sameCC)
/-- R205: SEL takes a source by a three-valued predicate, or leaves the destination. -/
def Obligations.SelectByPredicate : Prop :=
  ∀ f : FAWX, PerLaneClaim (.sel f) [f.a, f.b] 1 1 fun t c l =>
    let a := (f.d, atW f.w (fun _ x _ => x) (reg f.a t c l) 0)
    let b := (f.d, atW f.w (fun _ x _ => x) (reg f.b t c l) 0)
    { regs := match readPred t l (f.x.extractLsb' 0 7) with
        | .t => [a]
        | .f => [b]
        | .u => if f.x.extractLsb' 8 2 = 0 then [] else if f.x.extractLsb' 8 2 = 1 then [a] else [b] }
/-- R206: ICMP writes T or F, and the scalar class writes CC as ISUB would. -/
def Obligations.IntegerCompare : Prop :=
  ∀ o ∈ icmpRows, ∀ f : FAW, LaneClaim (o.1 f) [f.a, f.b] [f.a, f.b] (fun _ _ _ => 1) 1
    (fun t c l => { preds := [(f.d, triBool (testW f.w o.2 (reg f.a t c l) (reg f.b t c l)))] })
    (opSub.cc f.w (reg f.a) (reg f.b))

/-- R88 to R93, R225 to R230: the two-source interval instructions, with the half rate of straddling multiplicands.
R232, R233: the one-source interval instructions. -/
def Obligations.IntervalArithmetic : Prop :=
  ((∀ o ∈ float2Rows, ∀ f : FAW, LaneClaim (o.1 f) (pairRegs f.w f.a ++ pairRegs f.w f.b) [f.d, f.a, f.b]
     (fun _ _ _ => (o.2.1 f.w).1) (o.2.1 f.w).2 (float2Out f o.2.2) sameCC) ∧
   (∀ f : FAW, LaneClaim (.fmul f) (pairRegs f.w f.a ++ pairRegs f.w f.b) [f.d, f.a, f.b]
     (mulIvl f (allScalar [f.d, f.a, f.b])) (tAdd f.w).2 (float2Out f fMul) sameCC) ∧
   (∀ f : FAW, LaneClaim (.ffma f) (pairRegs f.w f.d ++ pairRegs f.w f.a ++ pairRegs f.w f.b) [f.d, f.a, f.b]
     (mulIvl f (allScalar [f.d, f.a, f.b])) (tAdd f.w).2 (ffmaOut f) sameCC)) ∧
  (∀ o ∈ float1Rows, ∀ f : FAW, LaneClaim (o.1 f) (pairRegs f.w f.a) [f.d, f.a] (fun _ _ _ => (o.2.1 f.w).1) (o.2.1 f.w).2
     (float1Out f o.2.2) sameCC)
/-- R227, R231, R234, R235, R237: the forms of two results, of raw bits, and FCLASS. -/
def Obligations.IntervalPieces : Prop :=
  (∀ f : FAW, LaneClaim (.fdiv2 f) (pairRegs f.w f.a ++ pairRegs f.w f.b) [f.d, f.a, f.b] (fun _ _ _ => (tQuot f.w).1) (tQuot f.w).2
    (fdiv2Out f) sameCC) ∧
  (∀ f : FAW, LaneClaim (.fbis f) (pairRegs f.w f.a) [f.d, f.a] (fun _ _ _ => (tAdd f.w).1) (tAdd f.w).2 (fbisOut f) sameCC) ∧
  (∀ f : FAW, LaneClaim (.fmake f) (pairRegs f.w f.a ++ pairRegs f.w f.b) [f.d, f.a, f.b] (fun _ _ _ => (tAdd f.w).1) (tAdd f.w).2
    (fmakeOut f) sameCC) ∧
  (∀ f : FAW, LaneClaim (.fclass f) (pairRegs f.w f.a) [f.d, f.a] (fun _ _ _ => (tAdd f.w).1) (tAdd f.w).2 (fclassOut f) sameCC)
/-- R238 to R241: the conversions; the codebook forms run where no codebook load is unawaited (R183). -/
def Obligations.IntervalConversions : Prop :=
  (∀ f : FAW, LaneClaim (.cvtf f) (if f.b == 1 || (f.w && 16 ≤ f.b.toNat) then [f.a, nextReg f.a] else [f.a]) [f.d, f.a]
    (fun _ _ _ => (tAdd f.w).1) (tAdd f.w).2 (cvtfOut f) sameCC) ∧
  (∀ f : FAW, LaneClaim (.cvti f) (pairRegs f.w f.a) [f.d, f.a] (fun _ _ _ => (tAdd f.w).1) (tAdd f.w).2 (cvtiOut f) sameCC) ∧
  (∀ f : FAW, LaneClaim (.cvfi f) [f.a] [f.d, f.a] (fun _ _ _ => (tAdd f.w).1) (tAdd f.w).2 (cvfiOut f) sameCC) ∧
  (∀ (f : FAW) (s : State) (tk : Nat), Issues s tk (.cbx f) [f.a] → cbtHazard (s.team tk) = false →
    LaneEffect s tk (.cbx f) [f.d, f.a] (fun _ _ _ => (tAdd f.w).1) (tAdd f.w).2 (cbxOut f) sameCC) ∧
  (∀ (f : FAW) (s : State) (tk : Nat), Issues s tk (.cbq f) (pairRegs f.w f.a) → cbtHazard (s.team tk) = false →
    LaneEffect s tk (.cbq f) [f.d, f.a] (fun _ _ _ => (tAdd f.w).1) (tAdd f.w).2 (cbqOut f) sameCC)
/-- R94, R226, R236: FCMP writes a three-valued predicate, and the scalar class CC. -/
def Obligations.IntervalCompare : Prop :=
  ∀ o ∈ fcmpRows, ∀ f : FAW, LaneClaim (o.1 f) (pairRegs f.w f.a ++ pairRegs f.w f.b) [f.a, f.b] (fun _ _ _ => (tAdd f.w).1)
    (tAdd f.w).2 (fcmpOut f o.2) (fcmpCC f o.2)
/-- R220, R221: predicate logic, PMOV and PSEL. -/
def Obligations.PredicateLogic : Prop :=
  (∀ o ∈ predRows, ∀ f : FA, PerLaneClaim (o.1 f) [] 1 1 fun t _ l => { preds := [(f.d, o.2 f (readPred t l))] }) ∧
  (∀ f : FAX, PerLaneClaim (.psel f) [] 1 1 fun t _ l => { preds := [(f.d, pselVal f (readPred t l))] })
/-- R222, R223: PTOI, ITOP and VOTE. -/
def Obligations.PredicatesAndIntegers : Prop :=
  (∀ (f : FA) (s : State) (tk : Nat), Issues s tk (.ptoi f) (if isS f.d then [f.b] else []) →
    let t := s.team tk
    let j := (reg f.b t t.clk 0).toNat % 32
    let bit := fun (x : Tri) i => decide (∃ l ∈ voters t, l / 32 = j ∧ l % 32 = i ∧ readPred t l f.a = x)
    (isS f.d = false → Sweeps s tk (.ptoi f) 1 1 t.cc fun _ => (activeLanes t).map fun l => (l, { regs := [(f.d, code (readPred t l f.a))] })) ∧
    (isS f.d = true → ∃ x : Word, (∀ i < 32, x.getLsbD i = bit .t i ∧ x.getLsbD (32 + i) = bit .u i) ∧
      Sweeps s tk (.ptoi f) 1 1 t.cc fun _ => [(0, { regs := [(f.d, x)] })])) ∧
  (∀ (f : FA) (s : State) (tk : Nat), Issues s tk (.itop f) (if f.b == 2 then [f.a, nextReg f.a] else [f.a]) →
    let t := s.team tk
    let j := (reg (nextReg f.a) t t.clk 0).toNat % 32
    Sweeps s tk (.itop f) 1 1 t.cc fun p => ((activeLanes t).filter fun l => decide (f.b ≠ 2) || decide (l / 32 = j)).map fun l =>
      (l, { preds := [(f.d, itopVal f (reg f.a t (passCycle p l) l) l)] })) ∧
  (∀ (f : FA) (s : State) (tk : Nat), Issues s tk (.vote f) [] →
    let t := s.team tk
    let xs := (voters t).map fun l => readPred t l f.a
    let n := fun (x : Tri) => BitVec.ofNat 64 (xs.filter fun y => decide (y = x)).length
    Sweeps s tk (.vote f) 1 3 t.cc fun _ =>
      if f.b = 0 then (activeLanes t).map fun l => (l, { preds := [(f.d, xs.foldl tAnd .t)] })
      else if f.b = 1 then (activeLanes t).map fun l => (l, { preds := [(f.d, xs.foldl tOr .f)] })
      else everyOrOnce t f.d { regs := [(f.d, if f.b = 2 then n .t else if f.b = 3 then n .f else n .u)] })
/-- R244 to R247: the reductions and scans over the lanes that take part, and the shuffle. -/
def Obligations.ReductionsAndShuffles : Prop :=
  (∀ (f : FA) (s : State) (tk : Nat), Issues s tk (.redi f) [f.a] →
    let t := s.team tk
    let w := f.b.getLsbD 3
    let r := fun p => rediFold (f.b.toNat % 8) w ((voters t).map fun l => reg f.a t (passCycle p l) l)
    Sweeps s tk (.redi f) 1 8 (if isS f.d then ccZN w t.cc (r (passesOf t t.clk fun _ _ => 1)) false false else t.cc) fun p =>
      everyOrOnce t f.d { regs := [(f.d, r p)] }) ∧
  (∀ (f : FA) (s : State) (tk : Nat), Issues s tk (.redf f) (pairRegs (f.b.getLsbD 3) f.a) →
    let t := s.team tk
    let w := f.b.getLsbD 3
    Sweeps s tk (.redf f) (if w then 4 else 1) (if w then 14 else 8) t.cc fun p =>
      let r := redfFold (f.b.toNat % 8) w ((voters t).map fun l => redfSrc w t (passCycle p l) l f.a)
      everyOrOnce t f.d { regs := ivRegs w f.d r } ++ (activeLanes t).map fun l => (l, { flags := r.fl })) ∧
  (∀ (f : FA) (s : State) (tk : Nat), Issues s tk (.scan f) (pairRegs (f.b.toNat / 8 % 4 == 3) f.a) →
    let t := s.team tk
    let w := f.b.getLsbD 3
    let before := fun l => (voters t).filter fun k => decide (k < l) || (!f.b.getLsbD 5 && k == l)
    if f.b.getLsbD 4 then
      Sweeps s tk (.scan f) (if w then 4 else 1) (if w then 14 else 8) t.cc fun p => (activeLanes t).map fun l =>
        let r := redfFold (f.b.toNat % 8) w ((before l).map fun k => redfSrc w t (passCycle p k) k f.a)
        (l, { regs := ivRegs w f.d r, flags := r.fl })
    else
      Sweeps s tk (.scan f) 1 8 t.cc fun p => (activeLanes t).map fun l =>
        (l, { regs := [(f.d, rediFold (f.b.toNat % 8) w ((before l).map fun k => reg f.a t (passCycle p k) k))] })) ∧
  (∀ (f : FA) (s : State) (tk : Nat), Issues s tk (.shfl f) [f.a, f.b] →
    let t := s.team tk
    let narrow := decide (t.width ≤ 32)
    Sweeps s tk (.shfl f) (if narrow then 1 else 2) (if narrow then 4 else 6) t.cc fun p => (activeLanes t).map fun l =>
      let src := ((reg f.b t (passCycle p l) l).setWidth 32).toNat
      (l, { regs := [(f.d, if t.width ≤ src then 0 else fromLane t (passCycle p l) src f.a)] }))
/-- R18: QXCH and QBC read the named register of every lane of the quad, masked-off partners included; a vacant partner
supplies 0; results go only to lanes whose mask bit is 1. -/
def Obligations.QuadExchange : Prop :=
  (∀ f : FA, PerLaneClaim (.qxch f) [f.a] 1 2 fun t c l => { regs := [(f.d, fromLane t c (partner f.b l) f.a)] }) ∧
  (∀ f : FA, PerLaneClaim (.qbc f) [f.a] 1 2 fun t c l => { regs := [(f.d, fromLane t c (l / 4 * 4 + f.b.toNat % 4) f.a)] })
/-- R346, R67, R21, R24, R45, R229: the word after one that acted, where it ends no run: the pc goes on, and nothing else of the
team changes but its cycle, which in a packed slot is no earlier than the end of the pass that its joined teams share; the
unit that took the word is in use; a team of the other pipe changes at most in its cycle, and not even in that where the word
is not for the SFU or the SFU lanes are free; a controller's clock goes on. -/
def Obligations.WordGoesOn : Prop :=
  ∀ (s : State) (tk : Nat) (i : Instr) (f e rdy : Nat), hasRoom s tk → (s.team tk).st ≠ .free → i.ebit = false → isTrl i = false →
    let s' := finishWord s tk i f e rdy
    let t := s.team tk
    let c := teamCore s tk
    let e := slotFin s tk e
    s'.team tk = pastWord { t with
      clk := max (f + rdy) e, inRun := true, irrev := false, waymarked := false, susp := false,
      runWords := t.runWords + (t.nextPc - t.wordPc).toNat / 4, pc := t.nextPc } ∧
    (∀ a, readMem s' a = readMem s a) ∧ s' = { s with teams := s'.teams, cores := s'.cores, ctls := s'.ctls } ∧
    (∀ k, k ≠ tk → ∃ n m, s'.team k = { s.team k with clk := n, readyAt := m }) ∧
    ((isCtl tk = true ∨ isSfuWord i = false ∨ ∀ p u, t.pipe = some p → tget? (s.core c).sfu (1 - p) = some u → u.fin ≤ t.clk) →
      ∀ k, k ≠ tk → s'.team k = s.team k) ∧
    (isCtl tk = true → teamCyc s' tk = max (teamCyc s tk) f ∧ s'.cores = s.cores) ∧
    (isCtl tk = false → s'.ctls = s.ctls ∧
      (isScalarWord i = true → s'.core c = { s.core c with scalarAt := max (s.core c).scalarAt e, coFin := (s'.core c).coFin }) ∧
      (isScalarWord i = false → isHamperWord i = true → s'.core c = { s.core c with hamAt := max (s.core c).hamAt e, coFin := (s'.core c).coFin }))
/-- R180: at the end of a run with nothing in flight: a trailer that awaits an outstanding token parks its team; otherwise
the team is ready at the word after the run. A word with E = 1 other than TRL awaits every token: while one is outstanding
its team parks with the cause TOKENS.
R181: a control word that TRL follows takes its effect at its own address when the run's wait ends: at once where no awaited
token is outstanding, and else at the arrival that frees the last of them. -/
def Obligations.RunEnd : Prop :=
  (∀ (s : State) (tk : Nat) (f : FT), Issues s tk (.trl f) [] → hasRoom s tk → lastInSlot s tk → (s.team tk).st = .issuing →
    let t := s.team tk
    (t.inflight = [] → t.pend = none →
      if t.tok &&& f.await = 0 then TurnsTo s tk (.trl f) t.nextPc fun u => { u with pendPc := t.pendPc }
      else TurnsParked s tk (.trl f) .trailer ⟨t.tok &&& f.await, 0⟩) ∧
    (t.inflight = [] → ∀ i pc, t.pend = some i → goesTo t i t.nextPc = some pc →
      if t.tok &&& f.await = 0 then TurnsTo s tk (.trl f) pc fun u => { u with pendPc := t.pendPc }
      else TurnsParked s tk (.trl f) .trailer ⟨t.tok &&& f.await, 0⟩ ∧
        ∀ s', exec (.trl f) s = .next s' → (s'.team tk).pend = some i ∧ (s'.team tk).pendPc = t.pendPc)) ∧
  (∀ (s : State) (tk : Nat) (i : Instr) (f e rdy : Nat), hasRoom s tk → (s.team tk).st ≠ .free → i.ebit = true → isTrl i = false →
    (s.team tk).inflight = [] → (s.team tk).tok ≠ 0 →
    let s' := finishWord s tk i f e rdy
    let t := s.team tk
    (s'.team tk).st = .parked ∧ (s'.team tk).park = .tokens ∧ (s'.team tk).wait = ⟨t.tok, 0⟩ ∧ (s'.team tk).pc = t.nextPc ∧
    (s'.team tk).susp = false ∧ (s'.team tk).pend = t.pend ∧ (s'.team tk).pendPc = t.pendPc ∧ (s'.team tk).t = [] ∧
    (∀ a, readMem s' a = readMem s a)) ∧
  (∀ (s : State) (tk id : Nat) (f : Inflight) (i : Instr) (pc : Word), let t := s.team tk
    t.st = .parked → t.park = .trailer ∨ t.park = .tokens → t.pend = some i → goesTo t i t.pc = some pc → saveDecided s tk = false →
    t.inflight = [f] → f.id = id → f.arrived = false → f.wait = .arrival → f.due = 0 → f.vw = [] → f.sw = [] → f.flw = [] → f.cbt = none →
    Does (.longLatencyArrival tk id) s fun s' => (s'.team tk).pc = pc ∧ (s'.team tk).st = .ready ∧ (s'.team tk).park = .none ∧
      (s'.team tk).pend = none ∧ SameMem s s')

/-- R144, R264, R306: NOP, PREF and TRL change nothing themselves; TRL acts at the end of the run.
R181: a control word stands with its address until its run's wait ends. -/
def Obligations.WordsThatStand : Prop :=
  (∀ (s : State) (tk : Nat),
     (∀ f, Issues s tk (.nop f) [] → ActsOnce s tk (.nop f) s) ∧ (∀ f, Issues s tk (.trl f) [] → ActsOnce s tk (.trl f) s) ∧
     (∀ f, Issues s tk (.pref f) [f.a] → ActsOnce s tk (.pref f) s) ∧
     (∀ f, Issues s tk (.prefOffset f) [f.a] → ActsOnce s tk (.prefOffset f) s)) ∧
  (∀ (s : State) (tk : Nat) (b : FC) (a : FA), ∀ x ∈ controlRows b a, Issues s tk x.1 x.2 →
     ActsOnce s tk x.1 (s.setTeam tk { s.team tk with pend := some x.1, pendPc := (s.team tk).wordPc }))
/-- R210 to R212, R215, R216: the transfers that no register names, and the waits for a turn or a cycle. -/
def Obligations.BranchesAndWaits : Prop :=
  ∀ (s : State) (tk : Nat), let t := s.team tk
    (∀ f, Turns s tk (.bra f) [] → TurnsTo s tk (.bra f) (target t f.i)) ∧
    (∀ f, ∀ n < 16, f.d.toNat = n → Turns s tk (.brc f) [] →
      TurnsTo s tk (.brc f) (if (brcRows.getD n fun _ => false) t.cc then target t f.i else t.nextPc)) ∧
    (∀ f, Turns s tk (.bmz f) [] → (noneActive t → TurnsTo s tk (.bmz f) (target t f.i)) ∧
      (¬noneActive t → TurnsTo s tk (.bmz f) t.nextPc)) ∧
    (∀ f, Turns s tk (.bmnz f) [] → (noneActive t → TurnsTo s tk (.bmnz f) t.nextPc) ∧
      (¬noneActive t → TurnsTo s tk (.bmnz f) (target t f.i))) ∧
    (∀ f, Turns s tk (.yield f) [] → TurnsTo s tk (.yield f) t.nextPc) ∧
    (∀ f, Turns s tk (.waitcy f) [f.a] →
      let v := (readReg (readyTeam t 0) t.clk 0 f.a).toNat
      if v ≤ t.clk then TurnsTo s tk (.waitcy f) t.nextPc else TurnsParked s tk (.waitcy f) .cycle ⟨0, v⟩)
/-- R213: CALL leaves the address after the run in its register; RET and JMPI go to a valid run start in a register. -/
def Obligations.CallsAndReturns : Prop :=
  ∀ (s : State) (tk : Nat), let t := s.team tk
    (∀ f, Turns s tk (.call f) [] → ∃ s' u, exec (.call f) s = .next s' ∧ TeamEnds s s' tk u ∧
      Did (readyTeam t (target t f.i)) u [(0, { regs := [(f.d, t.nextPc)] })]) ∧
    (∀ f, ∀ i ∈ [Instr.ret f, Instr.jmpi f], Turns s tk i [f.a] →
      let a := readReg (readyTeam t 0) t.clk 0 f.a
      targetOk s tk a = true → TurnsTo s tk i a)
/-- R214, R218: EXIT makes the active lanes vacant and MWHILE goes round while a lane's predicate is T. -/
def Obligations.LoopsAndExits : Prop :=
  ∀ (s : State) (tk : Nat), let t := s.team tk
    (∀ f m, Turns s tk (.mwhile f) [] → lanesAre t m f.d .t →
      (m ≠ 0 → TurnsTo s tk (.mwhile f) (target t f.i) fun u => { u with mask := m }) ∧
      (m = 0 → ∀ k r, t.stack = k :: r → TurnsTo s tk (.mwhile f) t.nextPc fun u => { u with mask := k, stack := r })) ∧
    (∀ f, Turns s tk (.exit f) [] → mayAct s tk → (vacate t t.mask).live ||| (vacate t t.mask).helper ≠ 0 →
      TurnsTo s tk (.exit f) t.nextPc fun u => enterRegion { vacate u u.mask with oiCount := 0 } t.nextPc) ∧
    (∀ f, Turns s tk (.exit f) [] → mayAct s tk → (vacate t t.mask).live ||| (vacate t t.mask).helper = 0 →
      (∃ g, teamGroup s tk = some g ∧ ∃ k ∈ g.teamKeys, k ≠ tk ∧ (s.team k).st ≠ .free) →
      ∃ s', exec (.exit f) s = .next s' ∧ s'.team tk = Team.none ∧ ∀ a, readMem s' a = readMem s a)
/-- R307, R308, R310, R315: TRAP enters the handler with its code, a team's in a region of its own; TRET restores; WFE and HALT stop a controller.
The model's choices: TRET leaves OPEN and EXCL (log 18), and TRAP opens its region with the waymark at HVEC (log 23). -/
def Obligations.TrapsAndReturns : Prop :=
  ∀ (s : State) (tk : Nat), let t := s.team tk
    (∀ f, Turns s tk (.trap f) [] → mayAct s tk → t.lvl = false → t.hvec ≠ 0 →
      ∃ s' u, exec (.trap f) s = .next s' ∧ TeamEnds { s with remoteIn := s'.remoteIn, remoteOut := s'.remoteOut } s' tk u ∧ u.lvl = true ∧ u.pc = t.hvec ∧ u.spc = t.nextPc ∧
        u.ssw = tswBits t ∧ u.scause = 2 ∧ u.saddr = t.wordPc ∧
        u.sinfo = BitVec.ofNat 64 (t.regcnt.toNat + 2 ^ 16 * f.i.toNat) ∧
        u = (fun x => if isCtl tk then x else enterRegion x t.hvec) (pastWord { t with
          lvl := true, pc := u.pc, ssw := u.ssw, spc := u.spc, scause := u.scause, saddr := u.saddr, sinfo := u.sinfo,
          spcW := false, spcWay := false, pendFault := none, t := [], run := u.run, runWords := 0, inRun := false, susp := false, pend := none,
          pendPc := t.wordPc, wordPc := t.wordPc, irrev := false, refill := none, st := .ready, park := .none,
          readyAt := u.readyAt, clk := u.clk, pipe := none, waymarked := false, oiCount := 0 })) ∧
    (∀ f, Turns s tk (.tret f) [] → t.lvl = true → tretBad s tk = false →
      let w := t.ssw.toNat
      TurnsTo s tk (.tret f) t.spc fun u => { u with
        lvl := false, wb := w / 2 ^ 8 % 16, careful := t.ssw.getLsbD 15, regcnt := t.ssw.extractLsb' 16 16,
        metered := t.ssw.getLsbD 32, ordered := t.ssw.getLsbD 33, pev := t.ssw.getLsbD 34, prio := w / 2 ^ 36 % 4,
        tswRes := 0, waymarked := !t.spcW && t.spcWay }) ∧
    (∀ c f, tk = ctlKey c → Turns s tk (.wfe f) [] →
      ∃ s', exec (.wfe f) s = .next s' ∧ (s'.team tk).pc = t.nextPc ∧ (∀ a, readMem s' a = readMem s a) ∧
        if (s.ctl c).latch then (s'.ctl c).latch = false ∧ (s'.ctl c).st = (s.ctl c).st ∧ (s'.team tk).st = .ready
        else (s'.ctl c).st = .waiting ∧ (s'.team tk).st = .parked) ∧
    (∀ c f, tk = ctlKey c → Turns s tk (.halt f) [] →
      ∃ s', exec (.halt f) s = .next s' ∧ (s'.team tk).pc = t.nextPc ∧ (s'.ctl c).st = .halted ∧ ∀ a, readMem s' a = readMem s a)
/-- R217: the hierarchical mask: two levels pushed by MIF, its other side by MELSE, the unknown lanes by MUND, and MEND. -/
def Obligations.HierarchicalMask : Prop :=
  ∀ (s : State) (tk : Nat), let t := s.team tk
    (∀ f m n, Issues s tk (.mif f) [] → lanesAre t m f.a .t → lanesAre t n f.a .u →
      if t.stack.length ≤ 62 then ActsOnce s tk (.mif f) (s.setTeam tk
        (if f.b = 1 then masked t (m ||| n) (0 :: t.mask :: t.stack)
         else if f.b = 2 then masked t m (0 :: t.mask :: t.stack) else masked t m (n :: t.mask :: t.stack)))
      else TrapsAt s tk (.mif f) cMASK) ∧
    (∀ f u p r, t.stack = u :: p :: r →
      (Issues s tk (.melse f) [] → ActsOnce s tk (.melse f) (s.setTeam tk (masked t (p &&& ~~~u &&& ~~~t.mask) t.stack))) ∧
      (Issues s tk (.mund f) [] → ActsOnce s tk (.mund f) (s.setTeam tk (masked t (u &&& p) t.stack))) ∧
      (Issues s tk (.mend f) [] → ActsOnce s tk (.mend f) (s.setTeam tk (masked t p r)))) ∧
    (∀ f, t.stack.length < 2 → ∀ i ∈ [Instr.melse f, Instr.mund f, Instr.mend f], Issues s tk i [] → TrapsAt s tk i cMASK)
/-- R63, R209, R219: MSET, MGET and the window base. -/
def Obligations.MasksAndWindow : Prop :=
  ∀ (s : State) (tk : Nat), let t := s.team tk
    (∀ f, Issues s tk (.mset f) (if f.b == 2 then [f.d, f.a] else []) →
      let j := (reg f.d t t.clk 0).toNat % 32
      (f.b = 0 → if t.stack.length ≤ 63 then ActsOnce s tk (.mset f) (s.setTeam tk (masked t t.mask (t.mask :: t.stack)))
                 else TrapsAt s tk (.mset f) cMASK) ∧
      (f.b = 1 → (∀ m r, t.stack = m :: r → ActsOnce s tk (.mset f) (s.setTeam tk (masked t (m &&& (t.live ||| t.helper)) r))) ∧
                 (t.stack = [] → TrapsAt s tk (.mset f) cMASK)) ∧
      (f.b = 2 → ∃ m : Mask, ActsOnce s tk (.mset f) (s.setTeam tk (masked t m t.stack)) ∧ ∀ l < 1024, m.getLsbD l =
        if l / 32 = j then (reg f.a t t.clk 0).getLsbD (l % 32) && decide (l < t.width) && (t.live ||| t.helper).getLsbD l
        else t.mask.getLsbD l) ∧
      (2 < f.b.toNat → ActsOnce s tk (.mset f) (s.setTeam tk (masked t (t.live ||| t.helper) t.stack)))) ∧
    (∀ f, Issues s tk (.mget f) (if f.b == 0 then [f.a] else []) → ∃ u, ActsOnce s tk (.mget f) (s.setTeam tk u) ∧
      Did t u [(0, { regs := [(f.d, (if f.b = 0 then maskWord t.mask ((reg f.a t t.clk 0).toNat % 32) else summary t).setWidth 64)] })]) ∧
    (∀ f, Issues s tk (.wbaseImm f) [] → ActsOnce s tk (.wbaseImm f) (s.setTeam tk { t with wb := f.i.toNat / 32 })) ∧
    (∀ f, Issues s tk (.wbaseReg f) [f.a] →
      let v := (reg f.a t t.clk 0).toNat
      if v % 32 = 0 ∧ v ≤ 416 then ActsOnce s tk (.wbaseReg f) (s.setTeam tk { t with wb := v / 32 })
      else TrapsAt s tk (.wbaseReg f) cILLEGAL)

/-- R250 to R253, R261: integer loads from global memory and the stash.
R254: interval loads.
The model's choices: the bytes loaded are those of the cycle of issue and the word arrives as a whole (log 4); a controller
marks no lines (log 34). -/
def Obligations.LaneLoads : Prop :=
  (∀ (f : FL) (g : FLX), ∀ x ∈ intLoads f g,
     let (i, d, k, a, sz, stash, ea) := x
     LoadClaim i [a] k (fun tk => isCtl tk || (isS d && isS a))
       (fun s tk => accesses (isCtl tk || (isS d && isS a)) stash (intBytes sz) ea s tk) (intLoad d sz)) ∧
  (∀ (f : FL) (g : FLX), ∀ x ∈ ivLoads f g,
     let (i, d, k, a, sz, ea) := x
     LoadClaim i [a] k (fun tk => isCtl tk || (isS d && isS a))
       (fun s tk => accesses (isCtl tk || (isS d && isS a)) false (intervalBytes sz) ea s tk) (ivLoad d sz))
/-- R138 to R140, R258 to R260: gathers and private loads.
The model's choices: the bytes loaded are those of the cycle of issue and the word arrives as a whole (log 4); an all-scalar
LDL reads the word of lane 0 (log 19). -/
def Obligations.GathersAndPrivateLoads : Prop :=
  (∀ f : FLX, LoadClaim (.ldg f) [f.a, f.x.extractLsb' 0 7] f.k (fun _ => false)
    (accesses false (f.x.getLsbD 12) (if f.x.getLsbD 13 then intervalBytes f.sz else intBytes f.sz) (gatherAt f.a f.x))
    (if f.x.getLsbD 13 then ivLoad f.d f.sz else intLoad f.d f.sz)) ∧
  (∀ f : FL, LoadClaim (.ldl f) [f.a] f.k (fun tk => isCtl tk || (isS f.d && isS f.a)) (privateAcc f.d f.a f.sz)
    (intLoad f.d f.sz))
/-- R255, R242: narrow block loads from an element base that is a multiple of 8, and the codebook load of 32 bytes.
The model's choice: the bytes loaded are those of the cycle of issue and the word arrives as a whole (log 4). -/
def Obligations.BlockAndCodebookLoads : Prop :=
  (∀ (f : FL) (g : FLX), ∀ x ∈ blockLoads f g,
    let (i, d, k, a, sz, off) := x
    ∀ (s : State) (tk : Nat), Issues s tk i [a, nextReg a] → baseOff a off (s.team tk) (s.team tk).clk 0 % 8 = 0 →
      LoadEffect s tk i k false (blockAcc a sz off s tk).1 (blockAcc a sz off s tk).2 (blockLoad d sz (s.team tk)) fun _ => none) ∧
  (∀ (f : FL) (s : State) (tk : Nat), Issues s tk (.cbld f) [f.a] →
    let c := (s.team tk).clk
    let ea := (reg f.a (s.team tk) c 0).toNat
    ea % 32 = 0 →
      LoadEffect s tk (.cbld f) f.k true ⟨[(0, c)], c, c + 1⟩ [⟨0, c, false, [(ea, 32)], none⟩] (fun _ _ => {}) fun b =>
        some ((List.range 16).map fun i => BitVec.ofNat 16 ((nth 0 b (2 * i)).toNat + 2 ^ 8 * (nth 0 b (2 * i + 1)).toNat)))

/-- R128, R250 to R253, R261, R262: integer stores to global memory and the stash.
R254: interval stores, with the flags of their conversion.
The model's choices: with no region open memory changes at once (log 11), so do a controller's stores (log 34), and flags
come at the word's arrival (log 4). -/
def Obligations.LaneStores : Prop :=
  (∀ (f : FL) (g : FLX), ∀ x ∈ intStores f g,
     let (i, d, k, a, sz, stash, ea) := x
     StoreClaim i [d, a] k (fun tk => isCtl tk || (isS d && isS a))
       (fun s tk => accesses (isCtl tk || (isS d && isS a)) stash (intBytes sz) ea s tk) (intStore d sz)) ∧
  (∀ (f : FL) (g : FLX), ∀ x ∈ ivStores f g,
     let (i, d, k, a, sz, ea) := x
     StoreClaim i (a :: pairRegs (sz.getLsbD 3) d) k (fun tk => isCtl tk || (isS d && isS a))
       (fun s tk => accesses (isCtl tk || (isS d && isS a)) false (intervalBytes sz) ea s tk) (ivStore d sz))
/-- R138 to R140, R258 to R260: scatters and private stores.
The model's choices: with no region open memory changes at once (log 11); an all-scalar STL writes the word of lane 0 (log
19). -/
def Obligations.ScattersAndPrivateStores : Prop :=
  (∀ f : FLX, StoreClaim (.stg f) (f.a :: f.x.extractLsb' 0 7 :: pairRegs (f.x.getLsbD 13 && f.sz.getLsbD 3) f.d) f.k (fun _ => false)
    (accesses false (f.x.getLsbD 12) (if f.x.getLsbD 13 then intervalBytes f.sz else intBytes f.sz) (gatherAt f.a f.x))
    (if f.x.getLsbD 13 then ivStore f.d f.sz else intStore f.d f.sz)) ∧
  (∀ f : FL, StoreClaim (.stl f) [f.d, f.a] f.k (fun tk => isCtl tk || (isS f.d && isS f.a)) (privateAcc f.d f.a f.sz)
    (intStore f.d f.sz))
/-- R256, R257: NCVT and the narrow block stores. A value the spec leaves open in a block is a free value (log 5). The model's
choices: with no region open memory changes at once (log 11), helper lanes raise flags too (log 30), and a CB4 block takes
its scale by the rule of the other kinds (log 16). -/
def Obligations.NarrowBlocks : Prop :=
  (∀ (f : FA) (s : State) (tk : Nat), Issues s tk (.ncvt f) (pairRegs (f.b.getLsbD 3) f.a) →
    let t := s.team tk
    let w := f.b.getLsbD 3
    let p := passesOf t t.clk fun _ _ => if w then 4 else 1
    ∃ u, Acts s tk (.ncvt f) ((drawBlocks s).setTeam tk u) p.last p.fin (p.ready (if w then 14 else 8)) ∧
      Did t u (ncvtLanes f.d (blocksOf s t p (f.b.toNat % 8) w f.a))) ∧
  (∀ (f : FL) (g : FLX), ∀ x ∈ blockStores f g,
    let (i, d, k, a, sz, off) := x
    ∀ (s : State) (tk : Nat), Issues s tk i (a :: nextReg a :: pairRegs (sz.getLsbD 3) d) →
      let t := s.team tk
      let eb := baseOff a off t t.clk 0
      let sb := (reg (nextReg a) t t.clk 0).toNat
      let n := blockBytes (sz.toNat % 8)
      let p := passesOf t t.clk fun j _ => max 1 (partLines ((passTeams s tk).flatMap fun m => let u := s.team m
        if maskWord (u.mask &&& u.live) j == 0 then []
        else [((baseOff a off u t.clk 0 + j * n) % 2 ^ 64, n), (((reg (nextReg a) u t.clk 0).toNat + j) % 2 ^ 64, 1)])).length
      let bs := blocksOf s t p (sz.toNat % 8) (sz.getLsbD 3) d
      eb % 8 = 0 → StoreEffect s (drawBlocks s) tk i k false p (bs.flatMap (blockStore eb sb n (kindOf (sz.toNat % 8)).b))
        (bs.flatMap fun x => x.2.codes.map fun y => (y.1, { flags := x.2.fl })))
/-- R265, R266: the thirteen atomics. -/
def Obligations.Atomics : Prop :=
  ∀ r ∈ atomRows, ∀ (f : FL) (s : State) (tk : Nat), Issues s tk (r.2.1 f) (r.2.2 f) → AtomEffect s tk r.1 (r.2.1 f) f
/-- R155, R268: the barriers of a group and of a cluster. -/
def Obligations.Barriers : Prop :=
  ∀ (f : FA) (s : State) (tk : Nat),
    (Issues s tk (.bar f) [] → BarrierEffect s tk (.bar f) (f.b.toNat % 16) false) ∧
    (Issues s tk (.barc f) [] → BarrierEffect s tk (.barc f) (f.b.toNat % 16) true)
/-- R148, R149, R153, R155, R280: the words that act after every older region close the open one and park until it commits:
the barriers, the atomics, the handle, counter, mapping and launch words, and those of records and arrays, once their
checks before the wait pass (R278); EXIT and TRAP at the end of their run. -/
def Obligations.WordsThatWaitForCommit : Prop :=
  (∀ (f : FA) (x : FAX) (l : FL) (s : State) (tk : Nat), isCtl tk = false →
    ∀ r ∈ waitRows f x l, Issues s tk r.1 r.2.1 → r.2.2 s tk → WaitsForCommit s tk r.1) ∧
  (∀ (f : FA) (b : FC) (s : State) (tk : Nat), isCtl tk = false → (s.team tk).careful = false → (s.team tk).regions ≠ [] →
    ∀ i ∈ [Instr.exit f, Instr.trap b], Turns s tk i [] → TurnsParked s tk i .commit ⟨0, 0⟩ ∧
      ∀ s', exec i s = .next s' → (s'.team tk).regions = (closedOpen (s.team tk)).regions)
/-- R269, R270: the handles: what BUFDEF, BUFWAIT and BUFFREE do in each state of one, where no ERROR has made the team ready;
a count of 0 or above 2^20 traps. -/
def Obligations.BufferHandles : Prop :=
  ∀ (s : State) (tk : Nat), let t := s.team tk
    t.bufErr = none →
    (∀ f, Issues s tk (.bufdef f) [f.a, f.b] → ∀ g, teamGroup s tk = some g →
      let off := ((reg f.a t t.clk 0).setWidth 32).toNat
      let n := (reg f.b t t.clk 0).toNat
      let h := f.x.toNat % 64
      (n = 0 ∨ 2 ^ 20 < n → TrapsAt s tk (.bufdef f) cILLEGAL) ∧
      (0 < n → n ≤ 2 ^ 20 → off + n ≤ g.progBytes → t.regions = [] →
        ((handleOf s tk h).st = .free → ∃ s1, ActsOnce s tk (.bufdef f) (entryAfter s1 tk) ∧ HandleIs s s1 tk h ⟨.filling, off, n, n⟩) ∧
        ((handleOf s tk h).st ∈ [HState.filling, .full, .draining] → ParksAt s tk (.bufdef f) .buffer ⟨0, h⟩))) ∧
    (∀ f, Issues s tk (.bufwait f) [] →
      let h := f.b.toNat % 64
      ((handleOf s tk h).st = .full → ActsOnce s tk (.bufwait f) s) ∧
      ((handleOf s tk h).st = .filling → ParksAt s tk (.bufwait f) .buffer ⟨1, h⟩) ∧
      ((handleOf s tk h).st ∈ [HState.free, .draining] → TrapsAt s tk (.bufwait f) cILLEGAL)) ∧
    (∀ f, Issues s tk (.buffree f) [] → t.regions = [] →
      let h := f.b.toNat % 64
      let x := handleOf s tk h
      let new := if x.st = .full then Handle.reset
        else if x.st = .filling ∨ x.st = .error then
          (if handleBusy s t.gid h then { x with st := .draining } else Handle.reset)
        else x
      teamGroup s tk ≠ none → (x.st = .error → t.lvl = true) →
        ∃ s1, ActsOnce s tk (.buffree f) (entryAfter s1 tk) ∧ HandleIs s s1 tk h new)
/-- R143, R145, R148, R275: REGION closes the region that stood open and begins a new one at the next word while fewer than
four stand, and else parks; its team's registers, mask and all else stand. COMMIT ends once every region has committed. -/
def Obligations.RegionWords : Prop :=
  ∀ (f : FA) (s : State) (tk : Nat), let t := s.team tk
    isCtl tk = false →
    (Issues s tk (.region f) [] → t.careful = false →
      (t.regions.length < 4 → ∃ s1, ActsOnce s tk (.region f) s1 ∧ s1.team tk = enterRegion (closedOpen t) t.nextPc ∧
        (s1.team tk).regcnt = t.regcnt + 1 ∧
        (s1.team tk).regions.length = t.regions.length + 1 ∧ (s1.team tk).regions.getLast?.map (·.wm.pc) = some t.nextPc ∧
        (∀ k, k ≠ tk → s1.team k = s.team k) ∧ s1 = { s with teams := s1.teams } ∧ ∀ a, readMem s1 a = readMem s a) ∧
      (t.regions.length = 4 → ParksAt s tk (.region f) .commit ⟨0, 3⟩ ∧ ∃ s', exec (.region f) s = .next s' ∧
        (s'.team tk).regions = (closedOpen t).regions ∧ SameMem s s')) ∧
    (Issues s tk (.commit f) [] → t.regions = [] →
      ActsOnce s tk (.commit f) (s.setTeam tk (enterRegion t t.nextPc)))
/-- R276, R277, R357: WAITC goes on with the counter when its condition holds and else watches it, but in ordered mode it traps
where a later group has staged a write of the counter's line; SIGC changes the counter's eight bytes alone. -/
def Obligations.Counters : Prop :=
  ∀ (s : State) (tk : Nat), let t := s.team tk
    (∀ f, Issues s tk (.waitc f) [f.a, f.b] → ∀ ps, xlateN s (teamCore s tk) (teamAs s tk) (reg f.a t t.clk 0).toNat 8 .read = .ok ps →
      (reg f.a t t.clk 0).toNat % 8 = 0 → t.regions = [] → ∀ loc pl r, ps = (loc, pl) :: r → isRemote loc = false →
      gates s tk [(lineOf loc, pl.coh)] false = none → keptAttrs s [(lineOf loc, pl.coh)] →
      let later := t.ordered = true ∧ higherStaged s tk [lineOf loc] = true
      let m := BitVec.ofNat 64 (leVal (ps.map fun x => readLoc s tk x.1))
      let holds := (waitcRows.getD f.x.toNat fun _ _ => false) m (reg f.b t t.clk 0)
      f.x.toNat < 6 →
      (holds = true → ∃ s1 u, ActsOnce s tk (.waitc f) (entryAfter s1 tk) ∧ s1.team tk = u ∧ Did t u [(0, { regs := [(f.d, m)] })] ∧
        (∀ a, readMem s1 a = readMem s a)) ∧
      (holds = false → ¬later → ParksAt s tk (.waitc f) .counter ⟨0, loc⟩) ∧
      (holds = false → later → ∃ s1, exec (.waitc f) s = .next { trapEntry s1 tk cORDER (reg f.a t t.clk 0) with cur := none } ∧
        s1 = { s with teams := s1.teams, groups := s1.groups, remoteIn := s1.remoteIn, attrs := s1.attrs } ∧
        s1.team tk = { t with oiCount := 0 } ∧ ∀ k, k ≠ tk → s1.team k = s.team k)) ∧
    (∀ f, Issues s tk (.sigc f) [f.a, f.b] → ∀ ps, xlateN s (teamCore s tk) (teamAs s tk) (reg f.a t t.clk 0).toNat 8 .write = .ok ps →
      (reg f.a t t.clk 0).toNat % 8 = 0 → mayAct s tk → t.placed = none → ∀ loc pl r, ps = (loc, pl) :: r → isRemote loc = false →
      gates s tk [(lineOf loc, pl.coh)] true = none → f.d.toNat < 3 →
      let n := (sigcRows.getD f.d.toNat fun _ v => v) (BitVec.ofNat 64 (readMemN s loc 8)) (reg f.b t t.clk 0)
      ∃ s1, ActsOnce s tk (.sigc f) (entryAfter s1 tk) ∧
        (∀ a, readMem s1 a = lastAt ((ps.map (·.1)).zip (bytesOf 8 n.toNat)) a (readMem s a)) ∧
        (unwatched s tk → pl.coh ≠ 1 → pastWord (s1.team tk) = pastWord { t with oiCount := 0 } ∧ ∀ k, k ≠ tk → s1.team k = s.team k))
/-- R135, R263: SMAP maps scratch lines onto memory; SUNMAP makes them scratch again. -/
def Obligations.StashMappings : Prop :=
  ∀ (s : State) (tk : Nat), let t := s.team tk
    ∀ g, teamGroup s tk = some g → t.regions = [] →
    (∀ f, Issues s tk (.smap f) [f.d, f.a] →
      let off := (reg f.d t t.clk 0).toNat
      let va := (reg f.a t t.clk 0).toNat
      let n := f.x.toNat
      off % 128 = 0 → va % 128 = 0 → n % 128 = 0 → 0 < n → n ≤ 2 ^ 20 → off + n ≤ g.progBytes → g.maps.length < 8 →
      (∀ m ∈ g.maps, overlaps off n m.off m.len = false ∧ overlaps va n m.addr m.len = false) →
      (∀ i < n / 128, g.absent.contains (off / 128 + i) = false) →
      ActsOnce s tk (.smap f) (entryAfter (s.setGroup { g with
        maps := g.maps ++ [⟨off, n, va⟩], spoison := g.spoison.filter fun l => !(decide (off ≤ l * 128) && decide (l * 128 < off + n)),
        scratch := g.scratch.filter fun x => !(decide (off ≤ x.1) && decide (x.1 < off + n)) }) tk)) ∧
    (∀ f m, Issues s tk (.sunmap f) [f.a] → g.maps.find? (fun m => m.off == (reg f.a t t.clk 0).toNat) = some m → g.gid = t.gid →
      ∃ s1 h, ActsOnce s tk (.sunmap f) (entryAfter s1 tk) ∧ s1 = { s.setGroup h with free := s1.free } ∧
        h.maps = g.maps.filter (fun x => x.off != m.off) ∧
        (∀ l, l ∈ h.mapLines ↔ l ∈ g.mapLines ∧ ¬(m.off / 128 ≤ l ∧ l < m.off / 128 + m.len / 128)) ∧
        h = { g with maps := h.maps, mapLines := h.mapLines, scratch := h.scratch } ∧
        (∀ o, g.mapLines.contains (o / 128) = true ∨ ¬(m.off / 128 ≤ o / 128 ∧ o / 128 < m.off / 128 + m.len / 128) →
          tget 0 h.scratch o = tget 0 g.scratch o) ∧
        ∀ a, readMem s1 a = readMem s a)
/-- R271, R274: CPYGO queues a chain on a channel with fewer than 16, and holds its token where it names one, and with no region
open the presence bits of the scratch lines its records write go out at once, in ordered mode with the ticket (R136, R356);
CPYST reads a
channel; PUBL marks the chain in hand of its own group. -/
def Obligations.CopyWords : Prop :=
  ∀ (f : FA) (s : State) (tk : Nat), let t := s.team tk; let core := teamCore s tk; let ch := f.b.toNat % 4
    (Issues s tk (.cpygo f) [f.a] →
      let head := (reg f.a t t.clk 0).toNat
      let tok := if f.b.getLsbD 2 then some (f.b.extractLsb' 3 3) else none
      (head % 64 ≠ 0 → (∀ k, tok = some k → t.tok.getLsbD k.toNat = false) → TrapsAt s tk (.cpygo f) cILLEGAL) ∧
      (head % 64 = 0 → (chanOf s core ch).heads.length < 16 → (∀ k, tok = some k → t.tok.getLsbD k.toNat = false) →
        ∃ s1 x, ActsOnce s tk (.cpygo f) s1 ∧ s1.chain? s.nextCid = some x ∧ freshChain s tk ch head x ∧
          (chanOf s1 core ch).heads = (chanOf s core ch).heads ++ [s.nextCid] ∧
          (∀ c h, (c, h) ≠ (core, ch) → chanOf s1 c h = chanOf s c h) ∧ (∀ c, c ≠ s.nextCid → s1.chain? c = s.chain? c) ∧
          Holding t (s1.team tk) tok (.chain s.nextCid) ∧ (∀ k, k ≠ tk → s1.team k = s.team k) ∧
          s1 = { s with teams := s1.teams, cores := s1.cores, chains := s1.chains, groups := s1.groups, nextCid := s.nextCid + 1 } ∧
          let x0 := { x with slines := [] }
          s1.groups = (if t.regions = [] ∧ unticketed s t.gid = false then clearPresence (queueChain s { x0 with committed := false }) x0
            else s).groups ∧ (∀ k, k ≠ t.gid → s1.group? k = s.group? k) ∧
          ∀ g, s.group? t.gid = some g → ∃ ab, s1.group? t.gid = some { g with absent := ab } ∧ ∀ l ∈ g.absent, l ∈ ab)) ∧
    (Issues s tk (.cpyst f) [] →
      let x := chanOf s core ch
      Gives s tk (.cpyst f) f.d (BitVec.ofNat 64 (x.heads.length % 32 + (if x.heads = [] then 0 else 2 ^ 5) +
        (if x.stopped then 2 ^ 6 else 0) + 2 ^ 8 * x.lastSt + 2 ^ 32 * (x.done % 2 ^ 32)))) ∧
    (Issues s tk (.publ f) [] →
      (∀ x, ((chanOf s core ch).heads.head?.bind s.chain?) = some x → x.gid = some t.gid →
        ActsOnce s tk (.publ f) (s.setChain { x with publ := true })) ∧
      ((∀ x, ((chanOf s core ch).heads.head?.bind s.chain?) = some x → x.gid ≠ some t.gid) → ActsOnce s tk (.publ f) s))

/-- R116, R281, R282: SEAL puts a record that breaks no rule of R116 into a slot of its group and else traps with the reason;
UNSEAL empties a slot.
R279, R283, R284, R297, R298: MACQ answers whether its team holds the array, and gives it a free one scrubbed of another
context; MREL frees it once its operations have retired; MSTAT reads and clears the status; MDEP binds the last operation. -/
def Obligations.RecordsAndArrays : Prop :=
  (∀ (s : State) (tk : Nat) (g : Group), let t := s.team tk
     teamGroup s tk = some g → t.regions = [] →
     (∀ f, Issues s tk (.seal f) [f.a] → t.tok.getLsbD f.k.toNat = false →
       let va := (reg f.a t t.clk 0).toNat
       ∀ ps, va % 64 = 0 → xlateN s (teamCore s tk) (teamAs s tk) va 64 .read = .ok ps →
         gates s tk (engineLines s ps) false = none → keptAttrs s (engineLines s ps) →
         let rec_ := (List.range 8).map fun i => leVal (((ps.map fun x => readLoc s tk x.1).drop (8 * i)).take 8)
         (sealReason va rec_ = 0 → ∃ s1 g1, ActsOnce s tk (.seal f) (entryAfter s1 tk) ∧ s1.group? t.gid = some g1 ∧
           g1 = { g with slots := g1.slots, rmarks := g1.rmarks } ∧ tget? g1.slots (f.d.toNat % 16) = some (rec_.map (BitVec.ofNat 64)) ∧
           (∀ n, n ≠ f.d.toNat % 16 → tget? g1.slots n = tget? g.slots n) ∧
           s1 = { s with groups := s1.groups, remoteIn := s1.remoteIn, attrs := s1.attrs }) ∧
         (sealReason va rec_ ≠ 0 → ∃ s1, s1 = { s with remoteIn := s1.remoteIn, groups := s1.groups, attrs := s1.attrs } ∧
           s1.group? t.gid = some { g with rmarks := ((s1.group? t.gid).map (·.rmarks)).getD [] } ∧
           exec (.seal f) s = .next { trapEntry s1 tk cSEAL (BitVec.ofNat 64 va) (sealReason va rec_) with cur := none })) ∧
     (∀ f, Issues s tk (.unseal f) [] → ∃ s1 g1, ActsOnce s tk (.unseal f) (entryAfter s1 tk) ∧ s1.group? t.gid = some g1 ∧
       g1 = { g with slots := g1.slots } ∧ tget? g1.slots (f.b.toNat % 16) = none ∧
       (∀ n, n ≠ f.b.toNat % 16 → tget? g1.slots n = tget? g.slots n) ∧ s1 = { s with groups := s1.groups })) ∧
  (∀ (f : FA) (s : State) (tk : Nat), let t := s.team tk; let core := teamCore s tk; let a := arrOf s core; let o := arrOf s (core ^^^ 1)
     (Issues s tk (.macq f) [] → t.regions = [] →
       let pair := f.b.getLsbD 0
       let mine := holdsArray s tk = true ∧ (pair = true → a.paired = true)
       let free := a.holder = none ∧ (pair = true → o.holder = none)
       (mine ∨ ¬free → ∃ u, ActsOnce s tk (.macq f) (entryAfter (s.setTeam tk u) tk) ∧
         (mine → Did { t with cc := CC.zero } u [(0, { regs := [(f.d, 1)] })]) ∧
         (¬mine → Did { t with cc := { CC.zero with z := true } } u [(0, { regs := [(f.d, 0)] })])) ∧
       (¬mine → free → ∃ s1 u, ActsOnce s tk (.macq f) (entryAfter s1 tk) ∧ s1.team tk = u ∧
         Did { t with cc := CC.zero } u [(0, { regs := [(f.d, 1)] })] ∧
         (arrOf s1 core).holder = some tk ∧ (arrOf s1 core).paired = pair ∧ (arrOf s1 core).follower = false ∧
         (pair = true → (arrOf s1 (core ^^^ 1)).holder = some tk ∧ (arrOf s1 (core ^^^ 1)).follower = true) ∧
         (a.lastCtx = none ∨ a.lastCtx = some (teamCtx s tk) → (arrOf s1 core).acc = a.acc ∧ (arrOf s1 core).resB = a.resB) ∧
         (a.lastCtx ≠ none → a.lastCtx ≠ some (teamCtx s tk) → (arrOf s1 core).acc = [] ∧ (arrOf s1 core).resB = none ∧
           (arrOf s1 core).mstat = 0) ∧
         s1 = { s with teams := s1.teams, cores := s1.cores })) ∧
     (Issues s tk (.mrel f) [] →
       (holdsArray s tk = false → TrapsAt s tk (.mrel f) cILLEGAL) ∧
       (holdsArray s tk = true → t.regions = [] → (∀ x ∈ a.ops, x.stage = .retired) →
         ∃ s1, ActsOnce s tk (.mrel f) (entryAfter s1 tk) ∧ (arrOf s1 core).holder = none ∧ (arrOf s1 core).acc = a.acc ∧
           (a.paired = true → (arrOf s1 (core ^^^ 1)).holder = none) ∧ s1 = { s with cores := s1.cores })) ∧
     (Issues s tk (.mstat f) [] →
       let q := (a.ops.filter fun x => x.stage = .queued ∨ x.stage = .running).length
       ∃ s1 u, ActsOnce s tk (.mstat f) s1 ∧ s1.team tk = u ∧ Did t u [(0, { regs := [(f.d, if holdsArray s tk then BitVec.ofNat 64
           (a.mstat % 32 + 2 ^ 8 + (if a.paired then 2 ^ 9 else 0) + 2 ^ 10 * (q % 4) + 2 ^ 16 * (a.outcnt % 2 ^ 16)) else 0)] })] ∧
         arrOf s1 core = (if holdsArray s tk = true ∧ f.b.getLsbD 0 = true then { a with mstat := 0, outcnt := 0 } else a) ∧
         (∀ c, c ≠ core → s1.core c = s.core c) ∧ s1 = { s with teams := s1.teams, cores := s1.cores }) ∧
     (Issues s tk (.mdep f) [f.a] →
       let va := (reg f.a t t.clk 0).toNat
       (holdsArray s tk = false ∨ va % 8 ≠ 0 ∨ a.issued = [] → TrapsAt s tk (.mdep f) cILLEGAL) ∧
       (∀ x, holdsArray s tk = true → va % 8 = 0 → a.issued.getLast? = some x → x.bound = false →
         ∃ s1, ActsOnce s tk (.mdep f) s1 ∧ ((∀ y ∈ a.mdeps, y.made = false) → ∃ m, (arrOf s1 core).mdeps = a.mdeps ++ [m] ∧ m.made = false ∧ m.mid = x.mid ∧ m.va = va ∧
             m.tk = tk ∧ m.gid = t.gid ∧ m.ctx = teamAs s tk ∧ (t.regions = [] → m.committed = true) ∧
             ∀ r, t.regions.getLast? = some r → m.rid = r.rid ∧ m.committed = false) ∧
           (arrOf s1 core).issued.getLast? = some { x with bound := true } ∧ s1 = { s with cores := s1.cores })))
/-- R285 to R287, R290, R293 to R296: each matrix word of the holder puts its operation at the end of the queue, with the record
and the entries it names, and holds its token; the lines of a store to scratch that no region holds back are absent at once;
nothing else changes. -/
def Obligations.MatrixQueue : Prop :=
  ∀ (s : State) (tk : Nat), let t := s.team tk; canQueue s tk →
    (∀ f, Issues s tk (.mzero f) [f.a] → 0 < highHalf f.a t → lowHalf f.a t + highHalf f.a t ≤ 98304 →
      Queues s tk (.mzero f) false none fun o => o.writes = (lowHalf f.a t, highHalf f.a t) ∧ o.reads = (0, 0) ∧ o.mem = false) ∧
    (∀ f : FL, t.tok.getLsbD f.k.toNat = false →
      let va := (reg f.a t t.clk 0).toNat
      (Issues s tk (.mcbk f) [f.a] → va % 32 = 0 → checkReads s tk false [(va, 32)] = none → t.regions = [] →
        Queues s tk (.mcbk f) true (some f.k) fun o => o.ra = va ∧ o.committed = true) ∧
      (Issues s tk (.mldb f) [f.a, nextReg f.a] → ∀ l, slotOf s tk (f.d.toNat % 16) = some l → srRoleB l = true →
        lowHalf (nextReg f.a) t % 64 = 0 → (f.sz.getLsbD 1 = true → (arrOf s (teamCore s tk)).paired = true) →
        checkReads s tk (f.sz.getLsbD 0) (tileReads l (lowHalf f.a t) (lowHalf (nextReg f.a) t)) = none → t.regions = [] →
        Queues s tk (.mldb f) true (some f.k) fun o =>
          o.lrec = l ∧ o.committed = true ∧ o.setsB = (if f.sz.getLsbD 1 then 2 else 1) ∧ o.writes = (0, 0)) ∧
      (∀ x ∈ mulRows f, let (i, pair, radius) := x
        Issues s tk i [f.a, nextReg f.a] → ∀ l b, slotOf s tk (f.d.toNat % 16) = some l → residentB s (teamCore s tk) 0 = some b →
        let m := highHalf f.a t
        let acc0 := lowHalf (nextReg f.a) t
        srRoleB l = false → (radius = true → srRad l = true) → srImode l = b.2.2 → 0 < m → m ≤ 98304 / b.2.1 → acc0 + m * b.2.1 ≤ 98304 →
        highHalf (nextReg f.a) t % 64 = 0 →
        (pair = true → (arrOf s (teamCore s tk)).paired = true ∧ residentB s (teamCore s tk) 1 = some b) →
        checkReads s tk (f.sz.getLsbD 0) (mulReads l radius (lowHalf f.a t) m (highHalf (nextReg f.a) t) (if pair then 16 else 8)) = none →
        Queues s tk i false (some f.k) fun o =>
          o.lrec = l ∧ o.reads = (acc0, m * b.2.1) ∧ o.writes = (acc0, m * b.2.1) ∧ o.usesB = (if pair then 3 else 1) ∧
          o.occ = m * srW l + m * srOslots l ∧ o.lat = (if pair then 16 else 12)) ∧
      (Issues s tk (.mstore f) [f.d, nextReg f.d, f.a, nextReg f.a] → (rectAt f t).bad = false →
        checkWrites s tk (f.sz.getLsbD 3) (rectAt f t).parts = none →
        Queues s tk (.mstore f) false (some f.k) (fun o =>
          o.reads = span (rectAt f t) ∧ o.writes = (0, 0) ∧ o.toScratch = f.sz.getLsbD 3)
          (if f.sz.getLsbD 3 then (rectAt f t).lines else [])) ∧
      (Issues s tk (.mloadc f) [f.d, nextReg f.d, f.a, nextReg f.a] → (rectAt f t).bad = false →
        checkReads s tk (f.sz.getLsbD 3) (rectAt f t).parts = none →
        (f.sz.getLsbD 3 = true → ∀ g, teamGroup s tk = some g → ∀ l ∈ (rectAt f t).lines, g.absent.contains l = false) →
        Queues s tk (.mloadc f) false (some f.k) fun o => o.writes = span (rectAt f t) ∧ o.reads = (0, 0)) ∧
      (let img := f.sz.getLsbD 0
       let srcs := if f.sz = 0 then [f.a, f.d] else [f.a]
       let r := if img then (0, 98304) else (lowHalf f.d t, highHalf f.d t)
       let n := if img then 1114112 else 8 * r.2
       r.1 + r.2 ≤ 98304 → va % (if img then 4096 else 8) = 0 →
       (Issues s tk (.msave f) srcs → checkWrites s tk false [(va, n)] = none →
         Queues s tk (.msave f) false (some f.k) fun o => o.reads = r ∧ o.writes = (0, 0) ∧ o.ra = va) ∧
       (Issues s tk (.mrst f) srcs → checkReads s tk false [(va, n)] = none →
         Queues s tk (.mrst f) false (some f.k) fun o => o.writes = r ∧ o.reads = (0, 0) ∧ o.ra = va)))

/-- R45, R47, R48, R299, R300: SPLIT and FORK push from each live active lane in lane order.
R53, R54, R301, R302, R305: TAKE makes the live active lanes vacant, their helpers keeping their state, and fills vacant lanes
with the newest committed entries of its bin, and parks where no lane is left and it has none; HSTAT and LSTAT read; LAUNCH
copies its record into the launch queue and holds its token. -/
def Obligations.TasksAndLaunch : Prop :=
  (∀ (s : State) (tk : Nat),
     (∀ f, Issues s tk (.split f) (pairRegs f.w f.a ++ frameRegs s) →
       Pushes s tk (.split f) f.d (f.i.toNat % 8) fun g c l => halves f (s.team tk) g c l) ∧
     (∀ f, Issues s tk (.fork f) (frameRegs s) →
       Pushes s tk (.fork f) f.d (f.i.toNat % 8) fun g c l => some (framePay (s.team tk) g c l, []))) ∧
  (∀ (s : State) (tk : Nat) (g : Group), let t := s.team tk
     teamGroup s tk = some g → g.gid = t.gid →
     (∀ f, Issues s tk (.take f) [] → (∀ q, s.grid? g.seq = some q → q.quiescent = false ∧ q.det = false) →
       let b := f.i.toNat % 8
       let t1 := vacateLive t (t.mask &&& t.live)
       let got := (vacantLanes t1).zip ((g.hamper.filter fun e => e.bin = b ∧ e.spec = false ∧ e.taken = false).reverse)
       let p := passesOf t t.clk fun j _ => max 1 ((activeLanes t).filter fun l => l / 32 == j).length
       (got = [] → t1.live = 0 → ParksAt s tk (.take f) .take ⟨0, b⟩) ∧
       (got ≠ [] ∨ t1.live ≠ 0 → ∃ s1, Acts s tk (.take f) s1 (p.fin - 1) p.fin 4 ∧
         s1.team tk = takeTeam t1 g f.d (vacantLanes t1) got ∧
         (∀ k, k ≠ tk → s1.team k = s.team k) ∧ s1 = { s with teams := s1.teams, groups := s1.groups, grids := s1.grids } ∧
         ∃ g1, s1.group? t.gid = some g1 ∧ g1 = { g with hamper := g1.hamper } ∧
           (t.regions = [] → g1.hamper = g.hamper.filter fun e => !(got.map fun x => x.2.slot).contains e.slot) ∧
           (t.regions ≠ [] → (g1.hamper.filter fun e => !e.taken) =
             g.hamper.filter fun e => !e.taken && !(got.map fun x => x.2.slot).contains e.slot))) ∧
     (∀ f, Issues s tk (.hstat f) [] → f.b.getLsbD 3 = false → g.hlog ≠ 0 →
       Gives s tk (.hstat f) f.d (BitVec.ofNat 64 (
         (g.hamper.filter fun e => e.bin = f.b.toNat % 8 ∧ e.spec = false ∧ e.taken = false).length % 2 ^ 14 +
           2 ^ 16 * (g.hamper.length % 2 ^ 14)))) ∧
     (∀ f, Issues s tk (.lstat f) [] →
       Gives s tk (.lstat f) f.d (BitVec.ofNat 64 (g.lstat.toNat / 8 * 8 + g.launchq.length))) ∧
     (∀ f, Issues s tk (.launch f) [f.a] → t.tok.getLsbD f.k.toNat = false → mayAct s tk → t.placed = none → g.launchq.length < 4 →
       let va := reg f.a t t.clk 0
       ∀ ps, va.toNat % 64 = 0 → xlateN s (teamCore s tk) (teamAs s tk) va.toNat 192 .read = .ok ps →
         gates s tk (engineLines s ps) false = none → keptAttrs s (engineLines s ps) →
         ∃ s1 g1 x, ActsOnce s tk (.launch f) (entryAfter s1 tk) ∧ s1.group? t.gid = some g1 ∧
           g1 = { g with launchq := g.launchq ++ [x], launchSeq := g.launchSeq + 1 } ∧ x.addr = va ∧ x.tk = tk ∧
           (∀ i < 24, i ≠ 12 → i ≠ 13 →
             nth 0 x.lrec i = BitVec.ofNat 64 (leVal (((ps.map fun y => readNow s tk y.1).drop (8 * i)).take 8))) ∧
           x.inflightId = t.nextId ∧
           Holding { t with oiCount := 0, placed := (s1.team tk).placed } (s1.team tk) (some f.k) (.launch g.gid g.launchSeq) ∧
           (∀ k, k ≠ tk → s1.team k = s.team k) ∧
           s1 = { s with teams := s1.teams, groups := s1.groups, remoteIn := s1.remoteIn, attrs := s1.attrs }))

/-- R310 to R313: RDSR reads a uniform register once or in every active lane, a per-lane register lane by lane, and the save
registers at handler level alone; WRSR writes what its access column allows and else traps.
R314, R400: LDIO puts a register's value in flight and STIO writes one, where the access table of the register's block
grants it; else they trap with ACCESS. -/
def Obligations.SystemRegisters : Prop :=
  (∀ (f : FC) (s : State) (tk : Nat), let t := s.team tk
     (Issues s tk (.rdsr f) [] →
       (∀ x ∈ srRows s t, f.i.toNat = x.1 → ∃ u, ActsOnce s tk (.rdsr f) (s.setTeam tk u) ∧ Did t u (uniform t tk f.d x.2)) ∧
       (∀ g q, teamGroup s tk = some g → s.grid? g.seq = some q → ∀ x ∈ srPlace s tk g q, f.i.toNat = x.1 →
         ∃ u, ActsOnce s tk (.rdsr f) (s.setTeam tk u) ∧ Did t u (uniform t tk f.d x.2)) ∧
       (∀ c, tk = ctlKey c → f.i.toNat = 0x30 →
         ∃ u, ActsOnce s tk (.rdsr f) (s.setTeam tk u) ∧ Did t u (uniform t tk f.d (BitVec.ofNat 64 c))) ∧
       (∀ x ∈ srSaved t, f.i.toNat = x.1 →
         (t.lvl = true → ∃ u, ActsOnce s tk (.rdsr f) (s.setTeam tk u) ∧ Did t u (uniform t tk f.d x.2)) ∧
         (t.lvl = false → TrapsAt s tk (.rdsr f) cILLEGAL)) ∧
       (f.i.toNat = 0x05 → Sweeps s tk (.rdsr f) 1 1 t.cc fun _ =>
         (activeLanes t).map fun l => (l, { regs := [(f.d, (tget 0 t.fl l).setWidth 64)] })) ∧
       (f.i.toNat = 0x10 → Sweeps s tk (.rdsr f) 1 1 t.cc fun _ =>
         (activeLanes t).map fun l => (l, { regs := [(f.d, BitVec.ofNat 64 l)] }))) ∧
     (Issues s tk (.wrsr f) [f.d] →
       let x := reg f.d t t.clk 0
       (f.i.toNat = 0x00 → TakesSr s tk f t) ∧
       (f.i.toNat = 0x04 → TakesSr s tk f { t with cc := ⟨x.getLsbD 0, x.getLsbD 1, x.getLsbD 2, x.getLsbD 3, x.getLsbD 4⟩ }) ∧
       (f.i.toNat = 0x05 → ∃ u, u = { t with fl := u.fl } ∧
         (let p := passesOf t t.clk fun _ _ => 1
          Acts s tk (.wrsr f) (s.setTeam tk u) p.last p.fin 1 ∧
          ∀ l, tget 0 u.fl l = if l ∈ activeLanes t then (reg f.d t (passCycle p l) l).setWidth 5 else tget 0 t.fl l)) ∧
       (t.lvl = true →
         (f.i.toNat = 0x06 → TakesSr s tk f { t with plim := BitVec.ofNat 32 (min (x.toNat % 2 ^ 32) (pmaxOf s tk)) }) ∧
         (f.i.toNat = 0x20 → ∃ w : Word, TakesSr s tk f { t with ssw := w } ∧ w.extractLsb' 8 4 = x.extractLsb' 8 4 ∧
           (∀ j < 38, j < 8 ∨ 12 ≤ j → w.getLsbD j = t.ssw.getLsbD j) ∧ w.extractLsb' 38 26 = x.extractLsb' 38 26) ∧
         (f.i.toNat = 0x21 → TakesSr s tk f { t with spc := x, spcW := true }) ∧
         (∀ j < 4, f.i.toNat = 0x26 + j → TakesSr s tk f { t with hs := tset 0 t.hs j x })) ∧
       (f.i.toNat ∈ [0x01, 0x02, 0x03, 0x07, 0x10, 0x11, 0x12, 0x13, 0x14, 0x15, 0x16, 0x17, 0x18, 0x19, 0x1A, 0x1B, 0x1C] ∨
           f.i.toNat ∈ [0x22, 0x23, 0x24, 0x25, 0x30] → TrapsAt s tk (.wrsr f) cILLEGAL) ∧
       (t.lvl = false → f.i.toNat ∈ [0x06, 0x20, 0x21, 0x26, 0x27, 0x28, 0x29] → TrapsAt s tk (.wrsr f) cILLEGAL))) ∧
  (∀ (f : FL) (s : State) (tk : Nat), let t := s.team tk
     t.tok.getLsbD f.k.toNat = false →
     let k := tk - 2 ^ 60
     let a := (reg f.a t t.clk 0).toNat
     let n := if f.sz = 6 then 8 else 4
     (Issues s tk (.ldio f) [f.a] →
       (ioOk s k a n false = true → ∃ u e, ActsOnce s tk (.ldio f) (s.setTeam tk u) ∧ u = launched t e f.k ∧
         Carries t e (some f.k.toNat) .arrival
           [(0, { regs := [(f.d, BitVec.ofNat 64 (leVal (regBytesRead s ⟨1, k⟩ (fun b => (regAt b).2) a n)))] })] none) ∧
       (ioOk s k a n false = false → exec (.ldio f) s = .next { trapEntry s tk cACCESS (BitVec.ofNat 64 a) with cur := none })) ∧
     (Issues s tk (.stio f) [f.d, f.a] →
       (ioOk s k a n true = true → ∃ u e, u = launched t e f.k ∧ Carries t e (some f.k.toNat) .arrival [] none ∧
         ActsOnce s tk (.stio f) (regBytesWrite (s.setTeam tk u) ⟨1, k⟩ (fun b => (regAt b).2) a
           (bytesOf n (reg f.d t t.clk 0).toNat))) ∧
       (ioOk s k a n true = false →
         exec (.stio f) s = .next { trapEntry s tk cACCESS (BitVec.ofNat 64 a) 0 0 1 with cur := none })))

/-- R21, R24, R38, R67, R76, R157, R171, R182, R216: what the scheduler's events do.
R129, R149 to R151: a closed region whose accesses have been performed commits: memory takes its stores as one event; a
conflict sends a team back to the waymark of the region that it hits.
The model's choices: a word arrives as a whole (log 4), and a waymark holds the lane conditions and the words in flight (log
28). -/
def Obligations.SchedulerAndRegionEvents : Prop :=
  (∀ (s : State) (tk core pipe die id : Nat), let t := s.team tk
     (readyTeams s core = [tk] → t.st = .ready → (teamGroup s tk).isSome = true → pipe < 2 → clockRuns s core = true →
       tget 0 (s.core core).pipes pipe = 0 →
       let q := pairOfCore core
       let at_ := max (max (tget 0 (s.core core).pipes (2 + pipe)) (s.pair q).cyc) (t.readyAt + 1)
       (pipe = 1 → ∀ z, selectAt s core 0 = some z → at_ < z) → selectFirst s q at_ = true →
       Does (.pipeSelect core pipe) s fun s' => ∃ s1, s' = startRun s1 tk ∧
         s1.team tk = { t with st := .issuing, pipe := some pipe, age := 0, clk := at_, runAt := at_ } ∧
         (∀ k, k ≠ tk → s1.team k = s.team k) ∧ tget 0 (s1.core core).pipes pipe = tk + 1 ∧
         s1 = { s with teams := s1.teams, cores := s1.cores }) ∧
     (∀ f, (t.inflight.map (·.id)).Nodup → f ∈ t.inflight → f.id = id → f.arrived = false → f.wait = .arrival →
       t.park ≠ .trailer → t.park ≠ .tokens →
       let exact := f.due ≠ 0 ∧ isCtl tk = false
       (exact → clockRuns s (teamCore s tk) = true ∧ eventFirst s (pairOfCore (teamCore s tk)) f.due = true) →
       Does (.longLatencyArrival tk id) s fun s' => ∃ s1 u, (exact → s1 = setCyc s tk f.due) ∧ (¬exact → s1 = s) ∧ s' = s1.setTeam tk u ∧
         (f.run ≠ t.run → ∀ x, x.1 ≠ 2 → regAtPlace u x = lastAt (lateWrites f) x (regAtPlace t x)) ∧
         (f.run = t.run → u = { t with inflight := u.inflight, tok := u.tok }) ∧
         (∀ k, f.tok = some k → (∀ g ∈ t.inflight, g.id ≠ id → g.arrived = false → g.tok ≠ some k) → u.tok.getLsbD k = false)) ∧
     (∀ k, t.refill = some k →
       (2 ^ 20 ≤ k → Does (.registerRefill tk) s fun s' => ∃ u, s' = s.setTeam tk u ∧
         u = { t with salloc := u.salloc, nextVer := t.nextVer + 1, refill := none }) ∧
       (k < 2 ^ 20 → ∀ ps, xlateN s (teamCore s tk) (teamAs s tk) (spillVa s t (k / 32) (k % 32 * 32)) (8 * min 32 t.width) .read = .ok ps →
         Does (.registerRefill tk) s fun s' => ∃ u, s' = spillPressure (s.setTeam tk u) (teamCore s tk) ∧
           u = { t with v := u.v, alloc := u.alloc, nextVer := t.nextVer + 1, refill := none } ∧
           ∀ i < min 32 t.width, tget 0 u.v (vKey (k / 32) (k % 32 * 32 + i)) =
             BitVec.ofNat 64 (leVal (((ps.map fun x => readMem s x.1).drop (8 * i)).take 8)))) ∧
     (t.st = .issuing → Config.spinLimit ≤ t.oiCount →
       Does (.orderInversion tk) s fun s' => s' = trapEntry (s.setTeam tk { t with oiCount := 0, faultAddr := 0 }) tk cORDER t.faultAddr) ∧
     (t.st = .ready → t.age < t.prio → t.readyAt + 1024 * (t.age + 1) ≤ teamCyc s tk →
       Does (.priorityAgeing tk) s fun s' => s' = s.setTeam tk { t with age := t.age + 1 }) ∧
     (t.st = .parked → t.park = .cycle → saveDecided s tk = false →
       let q := pairOfCore (teamCore s tk)
       let c := if isCtl tk then t.wait.val else max (s.pair q).cyc t.wait.val
       (isCtl tk = true ∨ ((s.pair q).stopped = false ∧ eventFirst s q c = true)) →
       Does (.cycleReached tk) s fun s' =>
         s'.team tk = { t with st := .ready, park := .none, readyAt := c, age := 0, wait := ⟨0, 0⟩ } ∧
         t.wait.val ≤ teamCyc s' tk ∧ s' = { s with teams := s'.teams, pairs := s'.pairs, ctls := s'.ctls }) ∧
     Does (.exclDeferralExpiry die) s fun s' => (∀ n ∈ (s'.die die).deferred, n % 2 = 1) ∧
       (∀ n ∈ (s.die die).deferred, n / 2 * 2 + 1 ∈ (s'.die die).deferred) ∧ s' = { s with dies := s'.dies }) ∧
  (∀ (s : State) (tk : Nat), let t := s.team tk
     t.st ≠ .swapped → t.park ≠ .fault → unticketed s t.gid = false → groupReleasing s t.gid = false →
     (∀ r rest, t.regions = r :: rest → r.closed = true → accessesDone s tk r.rid = true → commitGate s tk r = none →
       (∀ e ∈ r.evts, ∀ c ∈ e, (tget? r.stores c.1).isSome = true) →
       Does (.regionCommit tk) s fun s' => (∀ a, readMem s' a = lastAt r.stores a (readMem s a)) ∧
         (unwatched s tk → r.spages = [] → (s'.team tk).regions.map (·.rid) = rest.map (·.rid))) ∧
     (∀ idx r, (t.regions.drop idx).head? = some r → r.reads ≠ [] ∨ r.stores ≠ [] → t.careful = false → t.escalRid ≠ r.rid →
       Does (.conflict tk idx) s fun s' => AtWaymarkOf (s'.team tk) r.wm ∧ (s'.team tk).regions.length = idx + 1 ∧
         (s'.team tk).escal = 1 ∧ SameMem s s'))
/-- R26 to R28, R31, R34 to R37, R78, R302, R304, R305, R377: groups come, go out, come back and end.
The model's choices: a device launch inherits its queue and modes (log 44), and entries of a freed group join the cistern
without a check of its bound (log 80). -/
def Obligations.GroupEvents : Prop :=
  ∀ (s : State) (gid : Nat),
    (∀ q c g0, s.handed = [q.seq] → s.grid? q.seq = some q → q.prio < 4 → q.next < gridUnits q → lrCl2 q.lrec = false →
      place s (unitNeed s q) false = some c →
      newGroup s q (unitCoords q q.next).1 (unitCoords q q.next).2.1 (unitCoords q q.next).2.2 c 0 none = some g0 →
      Does .groupAdmit s fun s' => ∃ s1 f, s' = journalStep s1 q.seq f ∧ s1.nextGid = s.nextGid + 1 ∧ s1.group? s.nextGid = some g0 ∧
        (s1.grid? q.seq).map (·.next) = some (q.next + 1) ∧ SameMem s s1 ∧
        ∀ i < g0.nteam, let u := s1.team (teamKey s.nextGid i)
          u.st = .ready ∧ u.gid = s.nextGid ∧ u.teami = i ∧ u.pc = BitVec.ofNat 64 (lrCodeBase q.lrec + lrEntry q.lrec) ∧
          u.live = launchLive (lrWidth q.lrec) i (lrLanes q.lrec) ∧ u.helper = launchHelper (lrWidth q.lrec) i (lrLanes q.lrec) ∧
          u.mask = u.live ||| u.helper ∧ u.regcnt = 1 ∧ (∀ r < 8, tget 0 u.s r = nth 0 q.lrec (16 + r)) ∧ u.v = [] ∧ u.p = []) ∧
    (∀ g, s.group? gid = some g → g.gid = gid →
      (∀ p rest q, g.launchq = p :: rest → p.acc = none → s.grid? g.seq = some q →
        gates s (launchAgent gid) (codeFar s q.ctx p.lrec) false = none →
        let x := acceptLaunch s ⟨p.lrec, q.ctx, q.queue, q.det, q.replay, true, lrPrio p.lrec, p.addr.toNat, launchAgent gid⟩
        let b := BitVec.ofNat 8 x.2 :: bytesOf 4 s.sched.jseq
        let s2 := x.1.modGroup gid fun h => { h with
          launchq := (h.launchq.take 1).map (fun e => { e with acc := some b }) ++ h.launchq.drop 1
          lstat := BitVec.ofNat 64 ((if x.2 = 0 then 0 else 8) + 2 ^ 8 * x.2 + 2 ^ 32 * (s.sched.jseq % 2 ^ 32)) }
        Does (.launchAcceptance gid) s fun s' => ∀ h, s2.group? gid = some h → h.gid = gid → h.launchq ≠ [] →
          ∀ ps, xlateN s2 h.core h.as (p.addr.toNat + 11) 5 .write = .ok ps → (∀ y ∈ ps, isRemote y.1 = false) →
            gates s2 (launchAgent gid) ((ps.map fun y => (lineOf y.1, y.2.coh)).eraseDups) true = none →
            ∃ s3 c, (∀ a, readMem s3 a = lastAt ((ps.map (·.1)).zip b) a (readMem s2 a)) ∧
              let s4 := s3.modGroup gid fun h => { h with launchq := h.launchq.drop 1 }
              s' = makeReadyAll (arrive s4 p.tk p.inflightId c)
                (teamsWhere (arrive s4 p.tk p.inflightId c) fun _ t => t.gid == gid && t.park == .launchq)) ∧
      (g.st = .resident → g.mate = none → g.teamKeys ≠ [] → (∀ k ∈ g.teamKeys, (s.team k).st = .parked ∧ isCtl k = false ∧ (s.team k).gid = gid) →
        (gid, 16) ∉ s.saveBusy →
        let q := pairOfCore g.core
        let c := max (s.pair q).cyc ((g.teamKeys.map fun k => (s.team k).parkedAt).foldl max 0 + s.sched.swapwait.toNat + 1)
        clockRuns s g.core = true → eventFirst s q c = true →
        Does (.swapwaitExpiry gid) s fun s' => s'.saveBusy = s.saveBusy ++ [(gid, 16)] ∧
          (∀ k ∈ g.teamKeys, (s.team k).parkedAt + s.sched.swapwait.toNat < teamCyc s' k) ∧
          (s'.pair q).cyc = c ∧ s' = { s with pairs := s'.pairs, saveBusy := s'.saveBusy }) ∧
      (∀ s1, g.st = .resident → unticketed s gid = false → (gid, 16) ∈ s.saveBusy → (∀ k ∈ g.teamKeys, (s.team k).st = .swapped) → scratchBusy s gid = false →
        (g.launchq.any fun p => p.acc.isSome) = false → (arrOf s g.core).holder = none → savePut s g (groupSaveVa g) (groupBytes s g) = (s1, none) →
        Does (.groupSave gid) s fun s' => (s'.group? gid).map (·.st) = some .swapped ∧ (∀ x ∈ s'.saveBusy, x.1 ≠ gid) ∧ SameMem s1 s') ∧
      (∀ c, g.st = .swapped → g.mate = none → (∃ k ∈ g.teamKeys, wantsBack (s.team k) = true) →
        place s ⟨slotsNeed g.width g.nteam, g.stashSize, bits (descDw s g.ctx 0) 1 1 == 1, g.hold⟩ false = some c →
        Does (.groupRestore gid) s fun s' => s' = restoreGroup s g c) ∧
      (∀ q, g.st = .draining → drained s g = true → s.grid? g.seq = some q → q.seq = g.seq →
        (∀ c ∈ s.cores, (c.2.arr.holder.map (· / 16)) ≠ some gid) →
        Does (.groupFree gid) s fun s' => ∃ s1 q1, (s' = if q.left - 1 = 0 then finishGrid s1 g.seq else s1) ∧ s1.group? gid = none ∧
          SameMem s s1 ∧ s1.grid? g.seq = some q1 ∧ q1.left = q.left - 1 ∧
          ∀ b < 8, q1.cist (dieOfCore g.core) b = q.cist (dieOfCore g.core) b ++
            (g.hamper.filter fun e => e.bin == b).map fun e => { e with spec := false, taken := false, drawer := 0, slot := 0 }))
/-- R51, R52, R57 to R61: a refill moves the newest entries of a cistern's bin, a forage takes a donor's oldest, a lost path loses
what moves on it, and two idle sweeps make a grid quiescent.
The model's choice: entries that arrive by forage join the cistern without a check of its bound (log 80). -/
def Obligations.HamperEvents : Prop :=
  ∀ (s : State) (gid seq die bin : Nat), bin < 8 → die < 8 →
    (∀ g q, s.group? gid = some g → g.gid = gid → s.grid? g.seq = some q → q.seq = g.seq → g.st = .resident → alone s g →
      waitsTake s g bin = true → standing g bin = [] → g.hamper.length < g.hamperN → (∀ e ∈ q.cist (dieOfCore g.core) bin, e.drawer = 0) →
      (q.cist (dieOfCore g.core) bin).Nodup → q.cist (dieOfCore g.core) bin ≠ [] →
      let all := q.cist (dieOfCore g.core) bin
      let k := min all.length (min (g.hamperN / 2) (g.hamperN - g.hamper.length))
      Does (.hamperRefill gid bin) s fun s' => ∃ g1 q1, s'.group? gid = some g1 ∧ s'.grid? g.seq = some q1 ∧
        g1.hamper.take g.hamper.length = g.hamper ∧
        ((g1.hamper.drop g.hamper.length).map fun e => e.pay) = ((all.drop (all.length - k)).map fun e => e.pay) ∧
        q1.cist (dieOfCore g.core) bin = all.take (all.length - k) ∧ SameMem s s') ∧
    (∀ q, s.grid? seq = some q → q.seq = seq → (q.det = false ∨ q.replay = false) → tget? q.forage die = none → forageDue s seq die bin = true →
      (∀ d, d ≠ die → (∀ e ∈ q.cist d bin, e.drawer = 0) ∧ (q.cist d bin).Nodup) →
      let from_ := (donors die).find? fun d => pathOk s die d && !(q.cist d bin).isEmpty
      Does (.forageRequest seq die bin) s fun s' => ∃ q1, s'.grid? seq = some q1 ∧ SameMem s s' ∧
        (∀ d, from_ = some d → let n := forageShare (q.cist d bin).length
          tget? q1.forage die = some ⟨bin, some d, (q.cist d bin).take n, false⟩ ∧ q1.cist d bin = (q.cist d bin).drop n) ∧
        (from_ = none → tget? q1.forage die = some ⟨bin, none, [], true⟩)) ∧
    (∀ q f, s.grid? seq = some q → q.seq = seq → q.det = false → tget? q.forage die = some f →
      (f.resting = false → Does (.forageTransferArrival seq die) s fun s' => ∃ q1, s'.grid? seq = some q1 ∧ SameMem s s' ∧
        tget? q1.forage die = none ∧ q1.cist die f.bin = f.moving ++ q.cist die f.bin) ∧
      (f.resting = true → forageDue s seq die f.bin = false → Does (.forageRestart seq die) s fun s' => ∃ q1, s'.grid? seq = some q1 ∧
        tget? q1.forage die = none ∧ q1.cistern = q.cistern ∧ SameMem s s')) ∧
    (∀ a b, a < 8 → b < 8 → a ≠ b → pathOk s a b = true → (∀ x ∈ s.grids, x.2.forage = []) →
      Does (.ringPathLost a b) s fun s' => pathOk s' a b = false ∧ s' = { s with ringDown := s'.ringDown }) ∧
    (∀ q, s.grids = [(seq, q)] → q.seq = seq → q.quiescent = false → lrHlog q.lrec ≠ 0 → sweepCounts s q = [0, 0, 0, 0] →
      let ch := (List.range 8).map fun d => tget 0 q.change d
      Does .quiescenceSweep s fun s' => ∃ q1, s'.grid? seq = some q1 ∧ q1.quiescent = decide (q.lastSweep = some ch) ∧
        (q.lastSweep ≠ some ch → q1.lastSweep = some ch) ∧ SameMem s s')
/-- R136, R137, R159, R168, R271 to R274: a transfer record's end goes into the chain's next step; an element that arrives is written
to scratch; a sluice step publishes the chain's bytes as one event, but for those that another E9 has taken under U.
The model's choices: lines under U of another E9 are written there before the step (log 73), and the lines of a chain become
present one by one as each arrives (log 40). -/
def Obligations.CopyEngineEvents : Prop :=
  ∀ (s : State) (cid : Nat) (c : Chain), s.chain? cid = some c → c.cid = cid → clockRuns s c.core = true →
    (∀ l, c.busy = false → c.stepDue = false → c.ended = false → (chanOf s c.core c.ch).heads.head? = some cid →
      readRecord s c.gid c.core c.ctx c.cur = .ok l → nth 0 l 0 % 2 = 1 →
      (bits (nth 0 l 0) 3 1 = 1 → c.committed = true ∧ ∀ g, c.gid = some g → unticketed s g = false) →
      let c1 := { c with busy := true, dw0 := nth 0 l 0, done := 0, stat := 0 }
      let ok := recordOk l ((c.gid.bind s.group?).map (·.progBytes))
      (ok = false → ∀ ps, xlateN s c.core c.ctx c.cur 16 .write true = .ok ps →
        Does (.copyRecord cid) s fun s' => ∃ x, s'.chain? cid = some x ∧ x.stop = 4 ∧ x.ended = true ∧ x.stepDue = true ∧ x.busy = false ∧
          tget? x.shadow (nth 0 (ps.map (·.1)) 12) ≠ none ∧ SameMem s s') ∧
      (ok = true → gates s (chainAgent cid) (srcLines s c1 l) false = none → ((recElems l).foldl (copyElem s l) c1).arrivals = [] →
        Does (.copyRecord cid) s fun s' => let c2 := (recElems l).foldl (copyElem s l) c1
          s' = endRecord (dropReplies (copyMark s c2 l) (chainAgent cid) (srcLines s c1 l)) c2)) ∧
    (∀ a rest g gid b, c.arrivals = a :: rest → c.gid = some gid → s.group? gid = some g → g.gid = gid → g.maps = [] →
      a.handle = none → a.bytes = some b →
      Does (.scratchArrival cid) s fun s' => ∃ g1 x, s'.group? gid = some g1 ∧ s'.chain? cid = some x ∧ SameMem s s' ∧
        (∀ o, tget 0 g1.scratch o = if a.off ≤ o ∧ o < a.off + a.size then nth 0 b (o - a.off) else tget 0 g.scratch o) ∧
        (rest ≠ [] → x.arrivals = rest ∧ x.done = c.done + a.size)) ∧
    (let far := c.shadow.filter fun x => c.ulines.contains (lineOf x.1)
     let c1 := { c with logged := true }
     let near := c.shadow.filter fun x => !c.ulines.contains (lineOf x.1)
     c.stepDue = true → c.committed = true → (∀ g q, c.gid.bind s.group? = some g → s.grid? g.seq = some q → q.det = false) →
      (∀ g, c.gid = some g → unticketed s g = false) → (∀ q n, c.queueRec = some (q, n) → (s.queue q).det = false) →
      (∀ y ∈ c.vas, tget? s.nacks y.1 = none) → wrlGate (s.setChain c1) (chainAgent cid) far = none →
      gates s noTeam ((distinct (near.map fun x => lineOf x.1)).map fun l => (l, 0)) true = none →
      Does (.sluiceStep cid) s fun s' => ∃ s1,
        (∀ a, readMem s1 a = lastAt near a (readMem s a)) ∧
        s' = let x := { c with shadow := [], spages := [], ulines := [], vas := [], poisonLines := [], stepDue := false, logged := false }
             if c.ended then endChain s1 x else s1.setChain x)
/-- R164, R288, R290, R291, R294, R298: the queued operation begins in its cycle when nothing it needs is outstanding, and
reads memory then; it leaves the array after its occupancy; in the cycle in which it retires it writes the accumulators of
both arrays of a pair, or sends its bytes to memory, or leaves them in scratch, whose lines are then present; a due binding
decrements its counter, or asks another E9 to.
The model's choices: operands are captured at issue and memory is read when the operation begins (log 65), a binding counts
when its operation retires (log 67), and a fault of its decrement is dropped (log 42). -/
def Obligations.MatrixEvents : Prop :=
  ∀ (s : State) (core : Nat), let a := arrOf s core; let q := pairOfCore core; clockRuns s core = true →
    (∀ o, a.ops.find? (fun o => o.stage == .queued) = some o → (∀ e ∈ a.ops, e.stage ≠ .running) →
      (∀ e ∈ a.ops, e.mid < o.mid → e.stage = .retired ∨ opNeeds o e = false) →
      (∀ g, s.group? o.gid = some g → ∀ l ∈ opScratchLines s o, g.absent.contains l = false) →
      let since := fun l => ((s.group? o.gid).map fun g => tget 0 g.present l).getD 0
      let c := opCycle s core o (((opScratchLines s o).map since).foldl max (max o.issue a.freeAt))
      let lines := engLines s core o.ctx (opGlobal s o)
      eventFirst s q c = true → gates s (arrayAgent core) lines false = none → keptAttrs s lines →
      (∀ o1, opRun s core o = .ok o1 → Does (.matrixOpBegin core) s fun s' =>
        (arrOf s' core).ops = (a.ops.map fun x => if x.mid == o1.mid then
          { o1 with stage := .running, beginC := c, shadow := opShadow a o1 } else x) ∧
        (arrOf s' core).acc = a.acc ∧ (s'.pair q).cyc = max (s.pair q).cyc c ∧
        (unticketed s o.gid = false → s'.groups = s.groups) ∧
        s' = { s with cores := s'.cores, pairs := s'.pairs, groups := s'.groups, remoteIn := s'.remoteIn, attrs := s'.attrs }) ∧
      (∀ ca v, opRun s core o = .fault ca v → uBusy (s.team o.tk) = false → Does (.matrixOpBegin core) s fun s' => s' = opFault (cycTo s q c) core o ca v)) ∧
    (∀ o, a.ops.find? (fun o => o.stage == .running) = some o →
      let c := opCycle s core o (o.beginC + o.occ)
      eventFirst s q c = true →
      Does (.matrixOccupancyEnd core) s fun s' => (arrOf s' core).freeAt = c ∧
        (arrOf s' core).ops = (a.ops.map fun x => if x.mid == o.mid then { x with stage := .latency, occ := c - x.beginC } else x) ∧
        (arrOf s' core).acc = a.acc ∧ (s'.pair q).cyc = max (s.pair q).cyc c ∧ s' = { s with cores := s'.cores, pairs := s'.pairs }) ∧
    (∀ o at_, nextOut s core = some (.retire o at_) →
      let c := opCycle s core o at_
      eventFirst s q c = true →
      (o.toScratch = false → Does (.matrixOpRetire core) s fun s' => ∃ s1,
        (∀ e, tget 0 (arrOf s1 core).acc e = lastAt (ownResults o) e (tget 0 a.acc e)) ∧
        (∀ e, tget 0 (arrOf s1 (core ^^^ 1)).acc e = lastAt (mateResults o) e (tget 0 (arrOf s (core ^^^ 1)).acc e)) ∧
        (∀ x ∈ (arrOf s1 core).ops, x.mid = o.mid → x.stage = .retired) ∧ s1 = { s with cores := s1.cores, pairs := s1.pairs } ∧
        (storesOut o.ins = true → s' = storeChain s1 core o) ∧
        (storesOut o.ins = false → (o.token = none → s' = s1) ∧ ∀ id, o.token = some id → s' = arrive s1 o.tk id c)) ∧
      (∀ g, o.toScratch = true → storesOut o.ins = true → s.group? o.gid = some g → g.gid = o.gid → g.maps = [] →
        let ls := o.slines.filter fun l => !o.slinesIn.contains l
        Does (.matrixOpRetire core) s fun s' => ∃ s1, ScratchIn s s1 g ls o.data c ∧
          (∀ x ∈ (arrOf s1 core).ops, x.mid = o.mid → x.stage = .retired) ∧
          (o.token = none → s' = s1) ∧ ∀ id, o.token = some id → s' = arrive s1 o.tk id c)) ∧
    (∀ o ls at_, nextOut s core = some (.lines o ls at_) →
      let c := opCycle s core o at_
      eventFirst s q c = true → ∀ g, s.group? o.gid = some g → g.gid = o.gid → g.maps = [] →
        Does (.matrixOpRetire core) s fun s' => ScratchIn s s' g ls o.data c ∧
          (arrOf s' core).ops = a.ops.map fun x => if x.mid == o.mid then { x with slinesIn := x.slinesIn ++ ls } else x) ∧
    (∀ d loc pl r, a.mdeps.find? (fun d => bindDue a d && !unticketed s d.gid) = some d →
      d.va ≠ 0 → xlateN s 0 d.ctx d.va 8 .write = .ok ((loc, pl) :: r) →
      (∃ pl1 r1, xlateN s core d.ctx d.va 8 .write = .ok ((loc, pl1) :: r1)) →
      (isRemote loc = false → gates s noTeam [(lineOf loc, 0)] true = none →
        Does (.mdepDecrement core) s fun s' =>
          ∀ b, readMem s' b = lastAt ((loc :: r.map (·.1)).zip (bytesOf 8
            ((leVal ((loc :: r.map (·.1)).map (readMem s)) + (2 ^ 64 - 1)) % 2 ^ 64))) b (readMem s b)) ∧
      (isRemote loc = true → s.borrowed = [] → freshTag s < 4096 →
        Does (.mdepDecrement core) s fun s' => SameMem s s' ∧
          tget? s'.remoteOut (freshTag s) = some ⟨7, loc, bindKey core d.mid⟩ ∧
          ∀ m ∈ (arrOf s' core).mdeps, m ∈ a.mdeps ∨ m = { d with made := true, sent := true }))
/-- R371 to R375: the queue registers, and the acceptance of the record whose turn it is. -/
def Obligations.QueueEvents : Prop :=
  ∀ (s : State) (q : Nat) (v : BitVec 64), q < 64 → let x := s.queue q
    (s.lock.hosten = false → Does (.qheadWrite q v) s (fun s' => s' = s) ∧ Does (.qctlWrite q v) s (fun s' => s' = s) ∧
      Does (.qstatHaltClear q) s fun s' => s' = s) ∧
    (s.lock.hosten = true → Does (.qheadWrite q v) s fun s' => s' = s.setQueue q (if 16 ≤ x.heads.length then { x with ovf := true }
      else { x with heads := x.heads ++ [bits v.toNat 6 51 * 64] })) ∧
    (s.lock.hosten = true → Does (.qctlWrite q v) s fun s' => s' = s.setQueue q (if x.busy
      then { x with en := v.getLsbD 0, prio := bits v.toNat 1 2, weight := bits v.toNat 4 4 }
      else { x with en := v.getLsbD 0, prio := bits v.toNat 1 2, weight := bits v.toNat 4 4, det := v.getLsbD 8,
                    replay := v.getLsbD 9, ctx := bits v.toNat 16 6 })) ∧
    (s.lock.hosten = true → Does (.qstatHaltClear q) s fun s' => s' = s.setQueue q { x with halt := false }) ∧
    (∀ y va l ps, isCommand q y → servedQueue s = some q → nextRec s q = .found va l → lrKind l = y.2 →
      xlateN s 0 (ctxAs s x.ctx) va 16 .write true = .ok ps → recordGate s q ps = none → uLinesOf ps = [] →
      let s0 := commandRead s q (ctxAs s x.ctx) va l.length
      let st := if y.2 = 1 then launchStatus s l x.ctx x.det false else (cmdStatus s (ctxAs s x.ctx) l).1
      let cells := (nth 0 (ps.map (·.1)) 0, BitVec.ofNat 8 (lrDw l 0 % 256 / 2 * 2)) ::
        ((ps.map (·.1)).drop 11).zip (BitVec.ofNat 8 st :: bytesOf 4 s.sched.jseq)
      (st = 0 → cmdGate s q (ctxAs s x.ctx) l = none →
        Does y.1 s fun s' => ∃ s1, s1 = writeEvent s0 none cells ((sPagesOf ps).take 1) ∧
          (∀ a, readMem s1 a = lastAt cells a (readMem s a)) ∧
          s' = startCommand (advanceQueue (spendTurn s1 q) q l) q va l) ∧
      (st ≠ 0 → y.2 ≠ 1 → Does y.1 s fun s' => ∃ s1 s2 s3, s1 = writeEvent s0 none cells ((sPagesOf ps).take 1) ∧
        (∀ a, readMem s1 a = lastAt cells a (readMem s a)) ∧ s2 = advanceQueue (spendTurn s1 q) q l ∧
        s3 = journalNew s2 (cmdRec s2 q y.2 va l 3 st (cmdStatus s (ctxAs s x.ctx) l).2) ∧
        s' = s3.setQueue q { s3.queue q with lastst := st }))
/-- R276, R376, R389, R390, R398, R399: a waiter's counter is read again; the driver's answers; fault records; invalidations. -/
def Obligations.DriverEvents : Prop :=
  ∀ (s : State),
    (∀ tk d w, s.dies = [d] → d.2.watch = [w] → w.who = .team tk → w.inTable = false → w.met = false → isRemote w.loc = false →
      gates s tk [(lineOf w.loc, 0)] false = none → keptAttrs s [(lineOf w.loc, 0)] → (s.team tk).st = .parked → saveDecided s tk = false →
      let m := BitVec.ofNat 64 (readMemN s w.loc 8)
      Does (.counterReread tk) s fun s' => SameMem s s' ∧
        (condMet w.cond m w.val = true → (s'.team tk).st = .ready ∧ ∀ x ∈ s'.dies, x.2.watch = []) ∧
        (condMet w.cond m w.val = false → s'.teams = s.teams ∧ s'.dies = s.dies)) ∧
    (∀ tag x, s.lock.hosten = true → s.tags.find? (fun x => x.tag == tag) = some x → (s.team x.tk).st = .parked → saveDecided s x.tk = false →
      Does (.tresumeResume tag) s (fun s' => (s'.team x.tk).st = .ready ∧ (s'.team x.tk).tag = none ∧ (∀ y ∈ s'.tags, y.tag ≠ tag) ∧
        (∀ k, k ≠ x.tk → s'.team k = s.team k) ∧ s' = { s with teams := s'.teams, tags := s'.tags }) ∧
      ∀ g, s.group? (s.team x.tk).gid = some g →
        Does (.tresumeFail tag) s fun s' => ∃ s1, s' = stopGrid s1 g.seq (s.team x.tk).faultCause (g.idx % 2 ^ 32) (s.team x.tk).faultAddr ∧
          (∀ y ∈ s1.tags, y.tag ≠ tag) ∧ s1 = { s with teams := s1.teams, tags := s1.tags }) ∧
    (∀ f rest, s.faultWait = f :: rest → (∀ x ∈ s.faultWait, x.tag ≠ none) → s.sched.frprod - s.sched.frcons < s.sched.frsize / 32 →
      Does .faultRecordWrite s fun s' => ∃ s1,
        s1 = physWrite s (s.sched.frbase + 32 * (s.sched.frprod % (s.sched.frsize / 32))) (faultBytes f) ∧
        s' = { s1 with faultWait := rest, sched := { s1.sched with frprod := s1.sched.frprod + 1 } }) ∧
    (∀ ctx va y, isTlbinv ctx va y → (s.lock.hosten = false → Does y.1 s fun s' => s' = s) ∧ (s.lock.hosten = true →
      (s.sched.tlbBusy = false → Does y.1 s fun s' => s'.sched.tlbinv = y.2.1 ∧ s'.sched.tlbBusy = true ∧
        s'.sched.tlbPage = y.2.2.getD s.sched.tlbva ∧ s' = { s with sched := s'.sched }) ∧
      (s.sched.tlbBusy = true → Does y.1 s fun s' => s'.sched.tlbHeld = s.sched.tlbHeld ++ [y.2.1.setWidth 64] ∧
        s'.sched.tlbinv = s.sched.tlbinv ∧ s' = { s with sched := s'.sched }))) ∧
    (s.sched.tlbBusy = true → s.sched.tlbWait = none → s.sched.tlbHeld = [] → (∀ h ∈ tlbHolders s, tlbPending s h = false) →
      Does .tlbinvDone s fun s' => s'.sched.tlbBusy = false ∧ (∀ e ∈ s'.tlb, tlbHit s e = false) ∧
        (∀ e ∈ s.tlb, tlbHit s e = false → e ∈ s'.tlb) ∧ s' = { s with tlb := s'.tlb, sched := s'.sched })
/-- R370, R378, R418 to R425: the registers and fuses of the scheduling block and of the lockkeeper, module reset, controller resets
and doorbells, power, and the service of SPDM.
The model's choices: register events are admitted writes (log 55), registers the spec gives no reset value start at 0 (log
2), and the contents of an SPDM answer beyond its fixed fields are the firmware's (log 14). -/
def Obligations.BlockEvents : Prop :=
  ∀ (s : State) (v : BitVec 64), let l := s.lock
    (∀ tee, l.hosten = true → tdiLocked s = false →
      Does (.registerWrite 0x101010 v tee) s (fun s' => s' = { s with sched := { s.sched with swapwait := v.setWidth 32 } }) ∧
      Does (.registerWrite 0x101018 v tee) s (fun s' => s' = { s with sched := { s.sched with jbase := v } })) ∧
    (∀ off tee, l.hosten = false → Does (.registerWrite off v tee) s fun s' => s' = s) ∧
    (l.hosten = true → Does (.measureMailboxWrite 0x40 v) s fun s' =>
      (5 ≤ v.toNat ∧ v.toNat < 8 → s'.lock.mbStatus = 2 ∧
        s'.lock.mbQueue = l.mbQueue ++ [(v.toNat, (List.range 64).map fun i => tget 0 l.mbDigest i)]) ∧
      (¬(5 ≤ v.toNat ∧ v.toNat < 8) → s'.lock.mbStatus = 1 ∧ s'.lock.mbQueue = l.mbQueue)) ∧
    (∀ i, l.mbQueue = [] → Does (.mregExtend i) s fun s' => (∀ k, k ≠ i → tget 0 s'.lock.mreg k = tget 0 l.mreg k) ∧
      tget 0 s'.lock.mreg i = if 8 ≤ i ∨ (l.mlock = true ∧ i < 5) then tget 0 l.mreg i
        else mregOf (sha512 (mregBytes (tget 0 l.mreg i) ++ mextDigest l))) ∧
    Does (.mlockWrite v) s (fun s' => s'.lock = { l with mlock := l.mlock || v.getLsbD 0 } ∧ s' = { s with lock := s'.lock }) ∧
    Does .otpProgramOwner s (fun s' => s' = if l.owner = 0 then { s with lock := { l with
      owner := 1, ownerKey := (List.range 32).map fun i => tget 0 l.otpkey i } } else s) ∧
    Does .otpRevokeOwner s (fun s' => s' = { s with lock := { l with owner := 2 } }) ∧
    Does .otpRevokeVendor s (fun s' => s' = { s with lock := { l with vendor := 2 } }) ∧
    (∀ n, n < 256 → Does (.otpSvnRaise n) s fun s' => s' = { s with lock := { l with svnmin := max l.svnmin n } }) ∧
    Does .moduleReset s (fun s' => s'.lock.owner = l.owner ∧ s'.lock.vendor = l.vendor ∧ s'.lock.svnmin = l.svnmin ∧
      s'.lock.ownerKey = l.ownerKey ∧ s'.lock.vendorKey = l.vendorKey ∧ s'.flash = s.flash ∧ s'.groups = [] ∧ s'.grids = [] ∧
      s'.queues = [] ∧ s'.sched = Sched.reset ∧ s'.lock.hosten = false ∧ s'.lock.mlock = false) ∧
    Does (.pwrctlWrite v) s (fun s' => s'.lock = { l with pwrctl := v.setWidth 34 } ∧
      s' = { s with lock := s'.lock, hostDirty := s'.hostDirty }) ∧
    (∀ d, d < 8 → Does (.vcoreWrite d v) s fun s' => vcoreOf s' d = min 500 (max 400 (v.toNat % 1024)) ∧
      (∀ k, k ≠ d → vcoreOf s' k = vcoreOf s k) ∧ s' = { s with lock := { l with vcore := s'.lock.vcore } }) ∧
    Does (.ctlrstWrite v) s (fun s' => ∀ c, 1 ≤ c → c ≤ 10 → (c = 10 → s.variant ≠ .noLink) →
      (v.getLsbD c = false → (s'.ctl c).st = .reset) ∧
      (v.getLsbD c = true → (s.ctl c).st = .reset → (s'.ctl c).st = .running ∧ (s'.team (ctlKey c)).st = .ready ∧
        (s'.team (ctlKey c)).pc = BitVec.ofNat 64 (ctlSram c + 128 + bits (imgDw s c 3) 0 32)) ∧
      (v.getLsbD c = true → (s.ctl c).st ≠ .reset → s'.ctl c = s.ctl c ∧ s'.team (ctlKey c) = s.team (ctlKey c))) ∧
    (∀ c, c < 11 → Does (.evdbWrite c) s fun s' => Signalled s s' c ∧ s' = { s with ctls := s'.ctls, teams := s'.teams }) ∧
    Does (.hostenWrite v) s (fun s' => s' = { s with lock := { l with hosten := v.getLsbD 0 } }) ∧
    Does (.powerGoodChange v) s (fun s' => s' = { s with lock := { l with pwrgood := v.setWidth 34 &&& l.pwrctl } }) ∧
    (∀ code, (s.ctl 0).st = .running → spdmServed s (code % 256) = false → Does (.spdmRequest code) s fun s' => s' = s) ∧
    (∀ code, (s.ctl 0).st = .running → spdmServed s (code % 256) = true → Does (.spdmRequest code) s fun s' =>
      s'.hostOut = s.hostOut ++ [(true, spdmAnswer s code)] ∧
      (code % 256 = 12 → s.tdi = .unlocked → s'.tdi = .locked) ∧ (code % 256 = 13 → s.tdi = .locked → s'.tdi = .run) ∧
      (code % 256 = 14 → s.tdi = .locked ∨ s.tdi = .run → s'.tdi = .unlocked) ∧ (code % 256 < 12 → s'.tdi = s.tdi))
/-- R426 to R428: a step starts in its order or sets SEQERR; its end sets DONE, PASS and LAST and signals the steward; DMEN enables
a stack after step 7 alone; a Swiust port whose step 5 passes is up.
The model's choices on a step that runs, repeats or fails are those of log 53. -/
def Obligations.TrainingEvents : Prop :=
  ∀ (s : State) (k n : Nat) (v : BitVec 64), n < 16 →
    (k < 16 → let x := s.stack k
      (x.tr.busy = false → n ≠ 0 → n ≤ 7 → n ≤ x.tr.last + 1 →
        Does (.dramTrainStart k n) s fun s' => s' = s.setStack k { x with tr := { x.tr with done := false, step := n, busy := true } }) ∧
      (x.tr.busy = false → n = 0 ∨ 7 < n ∨ x.tr.last + 1 < n → Does (.dramTrainStart k n) s fun s' =>
        s' = s.setStack k { x with tr := { x.tr with done := false, step := n, seqerr := true } }) ∧
      (x.tr.busy = true → Does (.dramTrainStart k n) s fun s' => s' = s.setStack k { x with tr := { x.tr with seqerr := true } }) ∧
      (∀ y fail, endsStack k x.fail fail y → x.tr.busy = true →
        Does y.1 s fun s' => ∃ s1, s1 = s.setStack k { x with fail := y.2.2, tr := { x.tr with
            busy := false, done := true, pass := y.2.1, last := if y.2.1 then max x.tr.last x.tr.step else x.tr.last } } ∧
          Signalled s1 s' (1 + k / 2) ∧ s' = { s1 with ctls := s'.ctls, teams := s'.teams }) ∧
      Does (.dmenWrite k v) s fun s' => s' = s.setStack k (if v.getLsbD 0 = false then { x with dmen := false }
        else if x.tr.last = 7 then { x with dmen := true } else { x with tr := { x.tr with seqerr := true } })) ∧
    (∀ p, 18 ≤ p → p < 20 → let x := s.hport (p - 18)
      (Does (.linkTrainStart p n) s fun s' => s' = s.setHPort (p - 18) { x with tr :=
        if x.tr.busy then { x.tr with seqerr := true }
        else if n = 0 ∨ 4 < n ∨ x.tr.last + 1 < n then { x.tr with done := false, step := n, seqerr := true }
        else { x.tr with done := false, step := n, busy := true } }) ∧
      (∀ y pass, endsLink p pass y → x.tr.busy = true → x.tr.step ≠ 3 →
        Does y.1 s fun s' => ∃ s1, s1 = s.setHPort (p - 18) { x with tr := { x.tr with
            busy := false, done := true, pass := y.2, last := if y.2 then max x.tr.last x.tr.step else x.tr.last } } ∧
          Signalled s1 s' 9 ∧ s' = { s1 with ctls := s'.ctls, teams := s'.teams })) ∧
    (∀ p peer, p < 18 → let x := s.port p
      x.tr.busy = true → x.tr.step = 5 → x.peer ≠ x.heldPeer →
        Does (.linkTrainDone p true peer) s fun s' => (s'.port p).st = 2 ∧ (s'.port p).txSeq = 0 ∧ (s'.port p).rxSeq = 0 ∧
          (s'.port p).tr.last = max x.tr.last 5 ∧ s' = { s with ports := s'.ports, ctls := s'.ctls, teams := s'.teams })
/-- R378, R429 to R433: the clock of a pair, droop, hot cores, and soft errors.
The model's choice: which write of PCLK counts as a write of MODE (log 52). -/
def Obligations.ClockAndErrorEvents : Prop :=
  ∀ (s : State) (p mv core : Nat) (v : BitVec 64), p < 384 → core < 768 → let x := s.pair p
    (Does (.clockModeWrite p v) s fun s' => (s'.pair p = if pairEmpty s p
      then { x with metered := v.getLsbD 0, switching := true, stopped := false, swerr := x.swerr && !v.getLsbD 2 }
      else { x with swerr := !(v.getLsbD 2 && v.getLsbD 0 == x.metered) }) ∧ (∀ k, k ≠ p → s'.pair k = s.pair k) ∧
      (∀ k, (s'.die k).modeReq = (s.die k).modeReq.filter fun r => r.1 != p ∨ k ≠ p / 48) ∧
      s' = { s with pairs := s'.pairs, dies := s'.dies }) ∧
    (Does (.clockRelockDone p) s fun s' => s' = s.setPair p { x with switching := false }) ∧
    (x.metered = true → x.switching = false → x.stopped = false → mv + x.mfloor ≤ vcoreOf s (p / 48) →
      Does (.meteredClockHalt p mv) s fun s' => ∃ s1 r, s' = rasEvent s1 r ∧ (s1.pair p).stopped = true ∧
        (s1.pair p).memerg = (if x.memerg = BitVec.allOnes 32 then x.memerg else x.memerg + 1) ∧ r.site = 0x09 ∧ r.die = p / 48 ∧
        s1 = { s with pairs := s1.pairs, free := s1.free }) ∧
    (x.stopped = true → vcoreOf s (p / 48) < mv + x.mfloor →
      Does (.meteredClockResume p mv) s fun s' => s' = s.setPair p { x with stopped := false }) ∧
    (x.metered = false → x.switching = false → Does (.droopLevelTrip p mv) s fun s' =>
      (mv + x.drBase ≤ vcoreOf s (p / 48) → s' = s.setPair p { x with drcnt := x.drcnt + 1 }) ∧
      ((∀ k < 8, vcoreOf s (p / 48) < mv + x.drBase + k * x.drStep) → s' = s)) ∧
    (∀ temp win,
      (8 * s.sched.thot.toNat < temp.toNat ∨ s.sched.dhot.toNat < win.toNat →
        Does (.coreHotSet core temp win) s fun s' => (s'.core core).hot = true ∧ (s'.pair (core / 2)).temp = temp ∧
          (s'.pair (core / 2)).drwin = win ∧ s' = { s with cores := s'.cores, pairs := s'.pairs }) ∧
      (temp.toNat + 64 ≤ 8 * s.sched.thot.toNat → win.toNat ≤ s.sched.dhot.toNat →
        Does (.coreHotClear core temp win) s fun s' => (s'.core core).hot = false ∧ (s'.pair (core / 2)).temp = temp ∧
          (s'.pair (core / 2)).drwin = win ∧ s' = { s with cores := s'.cores, pairs := s'.pairs })) ∧
    (∀ obj addr,
      (Does (.softError ⟨.dram, obj, addr, true⟩) s fun s' => ∃ r, s' = rasEvent s r ∧ r.site = 1 ∧ r.sev = 0) ∧
      (Does (.softError ⟨.dram, obj, addr, false⟩) s fun s' => ∃ s1 r, s' = rasEvent s1 r ∧ r.site = 1 ∧ r.sev = 1 ∧
        lineOf ((physLoc addr).getD addr) ∈ s1.poison ∧ s1 = { s with poison := s1.poison }))
/-- R4, R157, R165, R402 to R406: host reads and writes of device memory, the host's copies, snoops, and function level reset.
The model's choices: what an FLR clears (log 54), and that the two host ports serve one queue (log 56). -/
def Obligations.HostPortEvents : Prop :=
  ∀ (s : State),
    (∀ (h0 : HostReq) (loc : Nat), let h := { h0 with keep := if h0.cxl then h0.keep % 3 else 0 }
      h.bar0 = false → s.hostWait = [] → physLoc h.addr = some loc → isHost loc = false → hostRefused s h loc = false →
      tdiBreach s h = false → hostWaits s h (lineOf loc) = none →
      (h.write = true → Does (.hostAccess h0) s fun s' =>
        ∀ a, readMem s' a = lastAt ((List.range h.len).map fun i => (loc + i, nth 0 h.data i)) a (readMem s a)) ∧
      (h.write = false → s.poison.contains (lineOf loc) = false → Does (.hostAccess h0) s fun s' =>
        s'.hostOut = s.hostOut ++ [(true, (List.range h.len).map fun i => readMem s (loc + i))] ∧ SameMem s s' ∧
        s' = { s with hostOut := s'.hostOut, hostLines := s'.hostLines })) ∧
    (∀ (h : HostReq) (loc : Nat), h.bar0 = false → s.hostWait = [] → physLoc h.addr = some loc → isHost loc = false → hostRefused s h loc = true →
      Does (.hostAccess h) s fun s' => s'.aer = s.aer ++ [h.addr] ∧ SameMem s s' ∧
        (h.cxl = false → s'.hostOut = s.hostOut ++ (if h.write then [] else [(false, [])])) ∧
        (h.cxl = true → ∃ b : List Byte, s'.hostOut = s.hostOut ++ [(false, b)] ∧ b.length = max 1 h.len) ∧
        s' = { s with aer := s'.aer, hostOut := s'.hostOut, free := s'.free }) ∧
    (∀ addr, s.variant = .noLink → Does (.hostSnoop addr) s fun s' => s' = s) ∧
    (∀ addr, s.variant ≠ .noLink → exclGate s noTeam (addr / 128) = none → s.poison.contains (addr / 128) = false →
      Does (.hostSnoop addr) s fun s' => (addr / 128 ∉ s.hostDirty → s' = { s with hostOut := s.hostOut ++ [(true, [])] }) ∧
        (addr / 128 ∈ s.hostDirty → ∃ s1, s' = { s1 with hostOut := s1.hostOut ++
            [(true, (List.range 128).map fun i => readMem s (addr / 128 * 128 + i))] } ∧
          s1 = hitReaders { s with hostDirty := s.hostDirty.filter fun l => l != addr / 128 } none fun l => l == addr / 128)) ∧
    (∀ line x data, s.hostLines.find? (fun x => x.line == line && x.snoop != 0) = some x →
      (x.excl = true → data ≠ [] → data.length ≤ 128 → (x.tee = true ∨ tdiBreach s (backWrite line data) = false) →
        Does (.birsp line data) s fun s' =>
        ∀ a, readMem s' a = lastAt (data.zipIdx.map fun b => (line * 128 + b.2, b.1)) a (readMem s a)) ∧
      (data = [] → Does (.birsp line data) s fun s' => SameMem s s' ∧ (∀ y ∈ s'.hostLines, y.line = line → x.snoop = 1 ∧ y.snoop = 0 ∧ y.excl = false)) ∧
      Does (.birspTimeout line) s fun s' => ∃ s1 r, s' = rasEvent s1 r ∧ r.site = 0x0A ∧ line ∈ s1.poison ∧ (∀ y ∈ s1.hostLines, y.line ≠ line)) ∧
    (s.borrowed = [] → s.pages = [] → (∀ c < 64, descDw s c 0 % 2 = 0) → Does .flr s fun s' => s'.flr = .draining ∧ s'.groups = [] ∧ s'.grids = [] ∧ s'.chains = [] ∧
      (∀ x ∈ s'.teams, isCtl x.1 = true) ∧ (∀ x ∈ s'.queues, x.2.en = false ∧ x.2.heads = [] ∧ x.2.running = []) ∧ SameMem s s') ∧
    (s.flr = .draining → s.pages = [] → Does .flrDrainDeadline s fun s' => s'.ide = [] ∧ s'.hostDirty = [] ∧ SameMem s s' ∧
      (s.tdi = .locked ∨ s.tdi = .run → s'.flr = .zeroing ∧ s'.tdi = .error) ∧
      (s.tdi = .unlocked ∨ s.tdi = .error → s'.flr = .none ∧ s'.tdi = .unlocked ∧ s'.sched.frbase = 0 ∧ s'.sched.rasbase = s.sched.rasbase)) ∧
    (s.flr = .zeroing → Does .flrZeroDone s fun s' => s'.flr = .none ∧ s'.tdi = .unlocked ∧
      ∀ a, readMem s' a = if isDram a && !isRemote a then 0 else readMem s a)
/-- R4, R157, R407 to R414: flits, the messages of peers to this home and to this borrower, and the loss of a port.
The model's choices: the bytes of an ATOM message (log 20), the tags of requests and replies (log 38), and those of RECALL
and RETN (log 89). -/
def Obligations.LinkEvents : Prop :=
  ∀ (s : State) (p : Nat) (m : Msg), p < 18 →
    (∀ f, (s.port p).st = 2 →
      match flitOpen f with
      | none => Does (.flitReceive p f) s fun s' => s' = s.setPort p (sendFlit (s.port p) 2 (s.port p).rxSeq [])
      | some b => bits (leVal (b.take 4)) 16 3 = 0 → bits (leVal (b.take 4)) 0 8 = (s.port p).rxSeq →
        Does (.flitReceive p f) s fun s' => (s'.port p).rxSeq = ((s.port p).rxSeq + 1) % 256 ∧
          s'.agenda = (((parseMsgs 60 (b.drop 4)).filter fun x => knownOp x.1).map fun x => Move.msg p x.1 x.2) ++ s.agenda ∧
          (s'.port p).tx.length = (s.port p).tx.length + 1 ∧ s' = { s with ports := s'.ports, agenda := s'.agenda }) ∧
    (∀ cause, cause < 16 → (s.port p).st ≠ 0 → s.pages = [] → s.borrowed = [] → s.remoteOut = [] →
      Does (.portDown p cause) s fun s' => ∃ s1, (s1.port p).st = 0 ∧ (s1.port p).downev = true ∧ (s1.port p).dcause = cause ∧
        (s1.port p).out = [] ∧ (∀ r ∈ s1.route, r.2.getLsbD p = false) ∧ SameMem s s1 ∧
        s1 = { s with ports := s1.ports, route := s1.route } ∧
        s' = ctlSignal (if (s.port p).st = 2 then rasEvent s1 (rasMake 0x07 3 0 p none 0) else s1) 10) ∧
    (let loc := (physLoc m.off).getD 0
     s.peerWait = [] → s.variant ≠ .noLink →
     (peerRefused s m false = true → Does (.rdl p m) s fun s' => s' = reply s 0x0B m (BitVec.ofNat 32 cACCESS) []) ∧
     (peerRefused s m false = false → peerGate s (lineOf loc) m.src false = none → s.poison.contains (lineOf loc) = false →
       Does (.rdl p m) s fun s' => s' = reply s 0x03 m 0 ((List.range 128).map fun i => readMem s (lineOf loc * 128 + i))) ∧
     (peerRefused s m true = false → peerGate s (lineOf loc) m.src true = none →
       (Does (.wrl p m) s fun s' => ∃ s1, s' = reply s1 0x04 m 0 [] ∧ ∀ a, readMem s1 a =
         lastAt (((List.range 128).filter fun i => (nth 0 m.body (i / 8)).getLsbD (i % 8)).map fun i =>
           (lineOf loc * 128 + i, nth 0 m.body (16 + i))) a (readMem s a)) ∧
       (s.poison.contains (lineOf loc) = false →
         let op := (m.flags.toNat - 0x200) % 16
         let ty := bits m.flags.toNat 12 2
         let n := atomBytes op ty
         let old := leVal ((List.range n).map fun i => readMem s (loc + i))
         let r := atomApply op ty old (leVal (m.body.take 16)) (leVal (m.body.drop 16))
         Does (.atom p m) s fun s' => ∃ s1, (∀ a, readMem s1 a = lastAt ((List.range n).zip (bytesOf n r.new) |>.map fun x => (loc + x.1, x.2)) a (readMem s a)) ∧
           s' = if bits m.flags.toNat 10 2 = 2 then reply s1 0x04 m 0 [] else reply s1 0x03 m 0 (bytesOf 128 old))) ∧
     (let page := loc / 4096
      let e := s.pageEntry page
      (peerRefused s m false = false → pageGate s page m.src false = none → (∀ r ∈ e.recalls, r.1 ≠ m.src) → e.sharers.length < 4 →
        Does (.pgs p m) s fun s' => (s'.pageEntry page).sharers = (e.sharers.filter fun d => d != m.src) ++ [m.src] ∧ SameMem s s') ∧
      (peerRefused s m true = false → pageHeld s page = none → pageGate s page m.src true = none →
        (∀ r ∈ e.recalls, r.1 ≠ m.src) → (∀ h ∈ s.hostLines, h.line / 32 ≠ page) →
        Does (.pgm p m) s fun s' => ∃ s1, s' = grantPage s1 m page true ∧ s1 = hitReaders s none fun l => l / 32 == page) ∧
      (m.tag = 0 ∨ (∃ r ∈ (s.pageEntry (reqPage 9 m)).recalls, r.1 = m.src ∧ tget 0 (s.pageEntry (reqPage 9 m)).rtags m.src = m.tag) →
        Does (.retn p m) s fun s' => ∃ n, s' = s.setPageEntry (reqPage 9 m) n ∧ (∀ r ∈ n.recalls, r.1 ≠ m.src) ∧ n.owner ≠ some m.src ∧
        (m.src ∈ n.sharers → (m.src, true) ∈ (s.pageEntry (reqPage 9 m)).recalls ∧ (s.pageEntry (reqPage 9 m)).owner = some m.src)) ∧
      (m.tag ≠ 0 → (∀ r ∈ (s.pageEntry (reqPage 9 m)).recalls, r.1 = m.src → tget 0 (s.pageEntry (reqPage 9 m)).rtags m.src ≠ m.tag) →
        Does (.retn p m) s fun s' => s' = s) ∧
      (∀ r, let off := tget (page * 4096) e.offs r.1
        e.recalls = [r] → ((routePort s r.1 (off / 4096)).any fun k => (s.port k).st == 2) = true →
        Does (.recallRetransmit page) s fun s' => s' = sendMsg s 0x08 r.1 ⟨ownDev s, tget 0 e.rtags r.1, if r.2 then 1 else 0, off, []⟩))) ∧
    (∀ a, tget? s.remoteOut m.tag = some a → let s0 : State := { s with remoteOut := tdel s.remoteOut m.tag }
      (a.what = 1 → Does (.dataMsg p m) s fun s' => s' = { s0 with remoteIn := tput s.remoteIn a.key m.body }) ∧
      (a.what = 2 → Does (.ack p m) s fun s' => s' = { s0 with remoteIn := tput s.remoteIn a.key [] }) ∧
      (a.what = 4 → Does (.grant p m) s fun s' =>
        s' = { s0 with borrowed := tput s.borrowed (a.loc / 4096) ⟨m.flags.getLsbD 0, true, false⟩ }) ∧
      (a.what < 4 → Does (.nack p m) s fun s' => s' = { s0 with nacks := tput s.nacks (lineOf a.loc) (bits m.flags.toNat 0 8) })) ∧
    (let page := (remoteBase + m.src * 2 ^ 45 + m.off) / 4096
     s.variant ≠ .noLink → s.peerWait = [] → pageHeld s page = none → (tget ⟨false, false, false⟩ s.borrowed page).granted = false →
       Does (.recallMsg p m) s fun s' => s' = sendMsg s 0x09 m.src ⟨ownDev s, m.tag, 0, m.off, []⟩)

/-- R131, R180, R181: the words at an address as a team or controller fetches them. -/
def HasWords (s : State) (tk va : Nat) (ws : List W32) : Prop :=
  ∀ k < ws.length, inSeg (segOf s tk) (va + 4 * k) = true ∧ fetch32 s tk (va + 4 * k) = .ok (ws.getD k 0).toNat
/-- The registers that a fork or a split takes into its entries besides those it names (R43). -/
def takesFrame (s : State) (tk : Nat) : Instr → List Reg
  | .split _ | .fork _ => frameOf s tk
  | _ => []
/-- A word fetched for an agent, about to run: its registers count as used, and CYC of the pair is its cycle (R67, R313). -/
def fetched (s : State) (tk n : Nat) (i : Instr) : State :=
  let s := if isCtl tk then s else setCyc s tk (s.team tk).clk
  { s.modTeam tk (fun t => { touchRegs t (readWords t i) (usedRegs i ++ pairedRegs i ++ takesFrame s tk i) with wordPc := t.pc, nextPc := t.pc + BitVec.ofNat 64 (4 * n) }) with
    cur := some (.team tk) }
/-- An agent stands at a word of its run. -/
def AtWord (s : State) (tk : Nat) : Prop := (s.team tk).st = .issuing ∧ ((s.team tk).pend = none ∨ (s.team tk).inRun = true)
/-- A step runs the instruction that the words at the pc decode to, for the team whose turn it is, when its word is the next
of its pair and its unit is free, and for a controller; a word that waits for its unit has that cycle; an event of the agenda
is run as it stands; what has met its event then settles (R21, R346, R347; log 3). -/
def Obligations.StepRunsDecoded : Prop :=
  (∀ (s : State) (tk va : Nat) (ws : List W32) (i : Instr), HasWords s tk va ws → decode ws = .ok i ws.length →
    fetchInstr s tk va = .ok i ws.length) ∧
  (∀ (s : State) (r : List Move) (tk0 n : Nat) (i : Instr), s.agenda = .issue (.team tk0) :: r → isCtl tk0 = false →
    let s0 := { s with agenda := r }
    let tk := coTurn s0 tk0
    let s1 := coSync s0 tk
    (wordFirst s0 tk = false → step s = settled (.next s0)) ∧
    (wordFirst s0 tk = true → clockRuns s0 (teamCore s0 tk0) = true → (s0.team tk).st = .issuing → uBusy (s0.team tk) = false →
      groupReleasing s0 (s0.team tk).gid = false → AtWord s1 tk →
      fetchInstr s1 tk (s1.team tk).pc.toNat = .ok i n →
      (unitFree s1 tk i ≤ (s1.team tk).clk → step s = settled (exec i (fetched s1 tk n i))) ∧
      ((s1.team tk).clk < unitFree s1 tk i →
        step s = settled (.next (s1.setTeam tk { s1.team tk with clk := unitFree s1 tk i }))))) ∧
  (∀ (s : State) (r : List Move) (tk n : Nat) (i : Instr), s.agenda = .issue (.team tk) :: r → isCtl tk = true →
    let s0 := { s with agenda := r }
    AtWord s0 tk → fetchInstr s0 tk (s0.team tk).pc.toNat = .ok i n → step s = settled (exec i (fetched s0 tk n i))) ∧
  (∀ (s : State) (r : List Move) (i : Instr), s.agenda = .event i :: r → i.isEvent = true →
    step s = settled (exec i { s with agenda := r }))
/-- R200, R204, R207, R211, R217 to R219, R260, R275, R307, R310: words that the spec writes out decode to what it says. -/
def Obligations.DecodeWords : Prop :=
  decode [0x016285E2] = .ok (.imad ⟨false, true, 10, 11, 98⟩) 1 ∧
  decode [0x08C0C380, 0x00010604] = .ok (.bfx ⟨false, false, 3, 7, 0, 0x00010604⟩) 2 ∧
  decode [0x0E78FF9C] = .ok (.movi ⟨false, true, 99, 0x3F9C⟩) 1 ∧
  decode [0xA020BFFB] = .ok (.brc ⟨true, 2, 0x3FFB⟩) 1 ∧
  decode [0x21400080] = .ok (.mif ⟨false, 0, 1, 0⟩) 1 ∧
  decode [0xA1C03FFE] = .ok (.mwhile ⟨true, 0, 0x3FFE⟩) 1 ∧
  decode [0x0A800170] = .ok (.icmpGtI ⟨false, false, 0, 2, 112⟩) 1 ∧
  decode [0x32414184] = .ok (.ldl ⟨false, 5, 3, 0, 4⟩) 1 ∧
  decode [0x43000000] = .ok (.region ⟨false, 0, 0, 0⟩) 1 ∧
  decode [0xF0400005] = .ok (.trap ⟨true, 0, 5⟩) 1 ∧
  decode [0xF0600000] = .ok (.tret ⟨true, 0, 0, 0⟩) 1
/-- R172, R185 to R189: decoding the words of an instruction whose fields are in their limits gives it back, whatever
words follow. -/
def Obligations.DecodeEncode : Prop :=
  ∀ (i : Instr) (rest : List W32), i.isEvent = false → i.fieldsOk = true →
    decode (encode i ++ rest) = .ok i (encode i).length

/-- R308, R309, R190: a word that is ILLEGAL enters the handler of a team at program level. Of one that holds no region the
word's address is saved with the status and the cause, results of the run that have arrived reach the registers (R180), and no
other team and no byte of memory changes. One that holds regions goes back to the waymark of the oldest first, whose address
and status are saved, and that region stands open and empty. A controller at its
handler level, or without a handler, halts and signals the lockkeeper. -/
def Obligations.IllegalWords : Prop :=
  (∀ (s : State) (tk : Nat) (i : Instr), let t := s.team tk
    s.cur = some (.team tk) → i.isEvent = false → wordOk s tk i = false → t.regions = [] → t.lvl = false → t.hvec ≠ 0 →
    ∃ s' u, exec i s = .next s' ∧ TeamEnds { s with remoteIn := s'.remoteIn, remoteOut := s'.remoteOut } s' tk u ∧ u.lvl = true ∧ u.pc = t.hvec ∧ u.spc = t.wordPc ∧ u.ssw = tswBits t ∧
      u.scause = 1 ∧ u.saddr = t.wordPc ∧ u.sinfo = t.regcnt.setWidth 64 ∧ u.st = .ready ∧
      u = pastWord { applyCut { t with run := t.run + 1 } with
        lvl := true, pc := u.pc, ssw := u.ssw, spc := u.spc, scause := u.scause, saddr := u.saddr, sinfo := u.sinfo,
        spcW := false, spcWay := !atStart t, pendFault := none, t := [], runWords := 0, inRun := false, susp := false, pend := none,
        irrev := false, refill := none, st := .ready, park := .none, readyAt := u.readyAt, pipe := none, waymarked := false }) ∧
  (∀ (s : State) (tk : Nat) (i : Instr) (r : Region) (rest : List Region), let t := s.team tk
    s.cur = some (.team tk) → isCtl tk = false → i.isEvent = false → wordOk s tk i = false → t.regions = r :: rest →
    t.lvl = false → t.hvec ≠ 0 →
    ∃ s' u, exec i s = .next s' ∧ s'.team tk = u ∧ u.lvl = true ∧ u.pc = t.hvec ∧ u.spc = r.wm.pc ∧
      u.spcWay = !r.wm.start ∧ u.spcW = false ∧ u.scause = 1 ∧ u.saddr = t.wordPc ∧ u.st = .ready ∧
      u.live = r.wm.live ∧ u.helper = r.wm.helper ∧ u.mask = r.wm.mask ∧ u.stack = r.wm.stack ∧ u.p = r.wm.p ∧ u.cc = r.wm.cc ∧
      u.regcnt = r.wm.regcnt ∧ (r.wm.inflight = [] → u.v = r.wm.v ∧ u.s = r.wm.s ∧ u.fl = r.wm.fl) ∧
      u.regions.map (·.rid) = [r.rid] ∧ (∀ x ∈ u.regions, x.closed = false ∧ x.reads = [] ∧ x.stores = []) ∧
      u.ssw = tswBits { u with lvl := r.wm.lvl } ∧ SameMem s s') ∧
  (∀ (s : State) (c : Nat) (i : Instr), let tk := ctlKey c
    s.cur = some (.team tk) → 0 < c → i.isEvent = false → wordOk s tk i = false → (s.team tk).lvl = true ∨ (s.team tk).hvec = 0 →
    ∃ s', exec i s = .next s' ∧ (s'.ctl c).st = .halted ∧ (tget 0 s'.lock.stewst c).getLsbD 1 = true ∧
      (s'.team tk).st = .parked ∧ (∀ k, k ≠ tk → k ≠ ctlKey 0 → s'.team k = s.team k) ∧ ∀ a, readMem s' a = readMem s a)
/-- R143, R145, R149: a store event leaves at each byte the last value it carries for that byte, and every other byte stands. -/
def Obligations.WriteEventStores : Prop :=
  ∀ (s : State) (who : Option Nat) (cells : List (Nat × Byte)) (sp : List (Nat × Nat)) (a : Nat),
    readMem (writeEvent s who cells sp) a = lastAt cells a (readMem s a)
/-- R371, R378, R399, R416, R422, R425, R426, R428, R429: what the spec's register tables give for reset; nothing runs and no
memory is enabled. The model's choices beside them: HOSTEN at reset (log 2), memory (log 1), and the fuse and flash values
(log 6). -/
def Obligations.ResetState : Prop :=
  let s := State.reset
  s.sched.thot = 95 ∧ s.sched.dhot = 64 ∧ s.sched.swapwait = 0x10000 ∧ s.sched.jbase = 0 ∧ s.sched.jseq = 0 ∧ s.sched.fpthr = 50 ∧
  s.sched.frprod = 0 ∧ s.sched.frcons = 0 ∧ s.sched.tlbinv = 0 ∧ s.sched.rasprod = 0 ∧ s.sched.raslost = 0 ∧
  (∀ c, (s.pair c).drBase = 12 ∧ (s.pair c).drStep = 6 ∧ (s.pair c).mfloor = 40 ∧ (s.pair c).metered = false ∧
    (s.pair c).memerg = 0 ∧ (s.pair c).cyc = 0) ∧ (∀ d, vcoreOf s d = 440) ∧
  (∀ q, (s.queue q).weight = 1 ∧ (s.queue q).en = false ∧ (s.queue q).halt = false ∧ (s.queue q).heads = []) ∧
  (∀ k, (s.stack k).dmen = false ∧ (s.stack k).tr = Train.reset) ∧ (∀ p, (s.port p).st = 0) ∧
  (∀ c, (s.ctl c).st = .reset) ∧ s.lock.mlock = false ∧ s.lock.hosten = false ∧ (∀ n, tget 0 s.lock.mreg n = 0) ∧
  (∀ n, tget 0 s.route n = 0) ∧ (∀ k, (s.team k).st = .free) ∧ s.groups = [] ∧ s.grids = [] ∧ s.mem = [] ∧ s.poison = []
/-- Reset memory has its canonical form. -/
def Obligations.ResetMemoryCanonical : Prop := Memory.wf State.reset.mem
/-- Every step keeps the canonical form of memory. -/
def Obligations.MemoryStaysCanonical : Prop := Kept fun s => Memory.wf s.mem
end

