-- ==== Sys2Proof/Laws/Encoding.lean ====
section
/-! SUPPORT. The fields of an assembled word read back (R172). -/
namespace Sys2Proof.Laws

/-- The fields of a word that format A assembles. -/
theorem wordOpc_mkA (e : Bool) (o : Nat) (d a b : Reg) : wordOpc (mkA e o d a b) = BitVec.ofNat 10 o := by
  unfold wordOpc mkA
  apply BitVec.eq_of_getLsbD_eq
  intro i hi
  simp only [BitVec.getLsbD_extractLsb', BitVec.getLsbD_append]
  have h1 : ¬ (21 + i < 7) := by omega
  have h2 : ¬ (21 + i - 7 < 7) := by omega
  have h3 : ¬ (21 + i - 7 - 7 < 7) := by omega
  have h4 : 21 + i - 7 - 7 - 7 < 10 := by omega
  have h5 : 21 + i - 7 - 7 - 7 = i := by omega
  simp [h1, h2, h3, h5, hi]
theorem fE_mkA (e : Bool) (o : Nat) (d a b : Reg) : fE (mkA e o d a b) = e := by
  unfold fE mkA
  simp only [BitVec.getLsbD_append]; simp
theorem fW_mkA (e : Bool) (o : Nat) (d a b : Reg) : fW (mkA e o d a b) = (BitVec.ofNat 10 o).getLsbD 0 := by
  unfold fW mkA
  simp only [BitVec.getLsbD_append]; simp
theorem fD_mkA (e : Bool) (o : Nat) (d a b : Reg) : fD (mkA e o d a b) = d := by
  unfold fD mkA
  apply BitVec.eq_of_getLsbD_eq
  intro i hi
  simp only [BitVec.getLsbD_extractLsb', BitVec.getLsbD_append]
  have h1 : ¬ (14 + i < 7) := by omega
  have h2 : ¬ (14 + i - 7 < 7) := by omega
  have h5 : 14 + i - 7 - 7 = i := by omega
  simp [h1, h2, h5, hi]
theorem fA_mkA (e : Bool) (o : Nat) (d a b : Reg) : fA (mkA e o d a b) = a := by
  unfold fA mkA
  apply BitVec.eq_of_getLsbD_eq
  intro i hi
  simp only [BitVec.getLsbD_extractLsb', BitVec.getLsbD_append]
  have h1 : ¬ (7 + i < 7) := by omega
  have h5 : 7 + i - 7 = i := by omega
  simp [h1, h5, hi]
theorem fB_mkA (e : Bool) (o : Nat) (d a b : Reg) : fB (mkA e o d a b) = b := by
  unfold fB mkA
  apply BitVec.eq_of_getLsbD_eq
  intro i hi
  simp only [BitVec.getLsbD_extractLsb', BitVec.getLsbD_append]
  simp [hi]
/-- A word of format C is one of format A with its immediate in A and B. -/
theorem mkC_eq (e : Bool) (o : Nat) (d : Reg) (i : BitVec 14) : mkC e o d i = mkA e o d (i.extractLsb' 7 7) (i.extractLsb' 0 7) := by
  unfold mkC mkA
  apply BitVec.eq_of_getLsbD_eq
  intro k hk
  simp only [BitVec.getLsbD_extractLsb', BitVec.getLsbD_append]
  by_cases h1 : k < 7
  · simp [h1, show k < 14 by omega]
  · by_cases h2 : k < 14
    · have : k - 7 < 7 := by omega
      have h3 : 7 + (k - 7) = k := by omega
      simp [h1, h2, this, h3]
    · have : ¬ (k - 7 < 7) := by omega
      have h3 : k - 7 - 7 = k - 14 := by omega
      simp [h1, h2, this, h3]
/-- A word of format L is one of format A with its token and size code in B. -/
theorem mkL_eq (e : Bool) (o : Nat) (d a : Reg) (k : BitVec 3) (z : BitVec 4) : mkL e o d a k z = mkA e o d a (k ++ z) := by
  unfold mkL mkA
  apply BitVec.eq_of_getLsbD_eq
  intro j hj
  simp only [BitVec.getLsbD_append]
  by_cases h1 : j < 4
  · simp [h1, show j < 7 by omega]
  · by_cases h2 : j < 7
    · have : j - 4 < 3 := by omega
      simp [h1, h2, this]
    · have : ¬ (j - 4 < 3) := by omega
      have h3 : j - 4 - 3 = j - 7 := by omega
      simp [h1, h2, this, h3]

end Sys2Proof.Laws
end

