-- ==== Sys2Proof/Laws/Store.lean ====
section
/-! SUPPORT. Tables: reading after writing on every list, and the canonical form that writing keeps. -/
namespace Sys2Proof
variable {α : Type}

theorem tget?_tput_self (m : Tab α) (a : Nat) (x : α) : tget? (tput m a x) a = some x := by
  induction m with
  | nil => simp [tput, tget?]
  | cons c r ih =>
    obtain ⟨k, v⟩ := c
    by_cases h : a = k
    · simp [tput, tget?, h]
    · by_cases h' : a < k
      · simp [tput, tget?, h, h']
      · simp [tput, tget?, h, h', ih]
theorem tget?_tput_ne (m : Tab α) {a b : Nat} (x : α) (h : b ≠ a) : tget? (tput m a x) b = tget? m b := by
  induction m with
  | nil => simp [tput, tget?, h]
  | cons c r ih =>
    obtain ⟨k, v⟩ := c
    by_cases h1 : a = k
    · subst h1; simp [tput, tget?, h]
    · by_cases h2 : a < k
      · simp [tput, tget?, h, h1, h2]
      · simp [tput, tget?, h1, h2, ih]
theorem tget?_tdel_self (m : Tab α) (a : Nat) : tget? (tdel m a) a = none := by
  induction m with
  | nil => rfl
  | cons c r ih =>
    obtain ⟨k, v⟩ := c
    by_cases h : a = k
    · simp [tdel, h]; exact h ▸ ih
    · simp [tdel, tget?, h, ih]
theorem tget?_tdel_ne (m : Tab α) {a b : Nat} (h : b ≠ a) : tget? (tdel m a) b = tget? m b := by
  induction m with
  | nil => rfl
  | cons c r ih =>
    obtain ⟨k, v⟩ := c
    by_cases h1 : a = k
    · subst h1; simp [tdel, tget?, h, ih]
    · simp [tdel, tget?, h1, ih]
@[simp] theorem tget_nil (d : α) (a : Nat) : tget d [] a = d := rfl
theorem tget_tput_self (d : α) (m : Tab α) (a : Nat) (x : α) : tget d (tput m a x) a = x := by
  simp [tget, tget?_tput_self]
theorem tget_tput_ne (d : α) (m : Tab α) {a b : Nat} (x : α) (h : b ≠ a) : tget d (tput m a x) b = tget d m b := by
  simp [tget, tget?_tput_ne m x h]

theorem trising_mono {m : Tab α} {i j : Nat} (h : trising j m = true) (hij : i ≤ j) : trising i m = true := by
  cases m with
  | nil => rfl
  | cons c r =>
    simp only [trising, Bool.and_eq_true, decide_eq_true_eq] at *
    exact ⟨by omega, h.2⟩
theorem trising_tput {m : Tab α} {n a : Nat} (x : α) (h : trising n m = true) (ha : n ≤ a) :
    trising n (tput m a x) = true := by
  induction m generalizing n with
  | nil => simp [tput, trising, ha]
  | cons c r ih =>
    obtain ⟨k, v⟩ := c
    simp [trising] at h
    by_cases h1 : a = k
    · simp [tput, h1, trising, h.2]; omega
    · by_cases h2 : a < k
      · simp [tput, h1, h2, trising, h.2]; omega
      · have hk : k + 1 ≤ a := by omega
        simp [tput, h1, h2, trising, h.1]; exact ih h.2 hk
theorem trising_tdel {m : Tab α} {n a : Nat} (h : trising n m = true) : trising n (tdel m a) = true := by
  induction m generalizing n with
  | nil => rfl
  | cons c r ih =>
    obtain ⟨k, v⟩ := c
    simp [trising] at h
    by_cases h1 : a = k
    · subst h1; simp [tdel]; exact ih (trising_mono h.2 (show n ≤ a + 1 by omega))
    · simp [tdel, h1, trising, h.1]; exact ih h.2
theorem mem_tput {m : Tab α} {a : Nat} {x : α} {c : Nat × α} (h : c ∈ tput m a x) : c = (a, x) ∨ c ∈ m := by
  induction m with
  | nil => simpa [tput] using h
  | cons y r ih =>
    obtain ⟨k, v⟩ := y
    by_cases h1 : a = k
    · subst h1; simp [tput] at h; rcases h with h | h <;> simp [h]
    · by_cases h2 : a < k
      · simpa [tput, h1, h2] using h
      · simp [tput, h1, h2] at h
        rcases h with h | h
        · simp [h]
        · rcases ih h with h | h <;> simp [h]
theorem mem_tdel {m : Tab α} {a : Nat} {c : Nat × α} (h : c ∈ tdel m a) : c ∈ m := by
  induction m with
  | nil => exact h
  | cons y r ih =>
    obtain ⟨k, v⟩ := y
    by_cases h1 : a = k
    · simp [tdel, h1] at h; exact List.mem_cons_of_mem _ (ih (h1 ▸ h))
    · simp [tdel, h1] at h
      rcases h with h | h
      · simp [h]
      · exact List.mem_cons_of_mem _ (ih h)
theorem trising_filter {m : Tab α} {n : Nat} (p : Nat × α → Bool) (h : trising n m = true) : trising n (m.filter p) = true := by
  induction m generalizing n with
  | nil => rfl
  | cons c r ih =>
    obtain ⟨k, v⟩ := c
    simp [trising] at h
    by_cases hp : p (k, v)
    · simp [hp, trising, h.1]; exact ih h.2
    · simp [hp]; exact ih (trising_mono h.2 (by omega))
/-- A rising table lists nothing below its bound. -/
theorem tget_eq_none_of_lt {m : Tab α} {n b : Nat} (h : trising n m = true) (hb : b < n) : tget? m b = none := by
  induction m generalizing n with
  | nil => rfl
  | cons c r ih =>
    obtain ⟨k, v⟩ := c
    simp [trising] at h
    simp [tget?, show b ≠ k by omega, ih h.2 (by omega)]
section
variable [DecidableEq α]

/-- A read after a write to the same key gives the value written. -/
theorem tget_tset_self (d : α) (m : Tab α) (a : Nat) (x : α) : tget d (tset d m a x) a = x := by
  unfold tset
  split
  · next h => simp [tget, tget?_tdel_self, h]
  · simp [tget, tget?_tput_self]
/-- A write leaves every other key alone. -/
theorem tget_tset_ne (d : α) (m : Tab α) {a b : Nat} (x : α) (h : b ≠ a) : tget d (tset d m a x) b = tget d m b := by
  unfold tset
  split
  · simp [tget, tget?_tdel_ne m h]
  · simp [tget, tget?_tput_ne m x h]
@[simp] theorem tsetAll_nil (d : α) (m : Tab α) : tsetAll d m [] = m := rfl
@[simp] theorem tsetAll_cons (d : α) (m : Tab α) (c : Nat × α) (r : List (Nat × α)) :
    tsetAll d m (c :: r) = tsetAll d (tset d m c.1 c.2) r := rfl
/-- A list of writes leaves every key it does not name alone. -/
theorem tget_tsetAll_ne (d : α) (cs : List (Nat × α)) (m : Tab α) (b : Nat) (h : ∀ c ∈ cs, c.1 ≠ b) :
    tget d (tsetAll d m cs) b = tget d m b := by
  induction cs generalizing m with
  | nil => rfl
  | cons c r ih =>
    rw [tsetAll_cons, ih _ fun x hx => h x (List.mem_cons_of_mem _ hx)]
    exact tget_tset_ne d m c.2 (Ne.symm (h c (List.mem_cons_self ..)))
/-- A list of writes to distinct keys gives each key its value. -/
theorem tget_tsetAll_mem (d : α) (cs : List (Nat × α)) (m : Tab α) (hn : (cs.map (·.1)).Nodup) {c : Nat × α} (hc : c ∈ cs) :
    tget d (tsetAll d m cs) c.1 = c.2 := by
  induction cs generalizing m with
  | nil => cases hc
  | cons x r ih =>
    rw [tsetAll_cons]
    rw [List.map_cons, List.nodup_cons] at hn
    rcases List.mem_cons.1 hc with rfl | hr
    · rw [tget_tsetAll_ne d r _ _ fun y hy e => hn.1 (List.mem_map.2 ⟨y, hy, e⟩)]
      exact tget_tset_self d m c.1 c.2
    · exact ih _ hn.2 hr

/-- A write keeps the canonical form. -/
theorem twf_tset {d : α} {m : Tab α} (a : Nat) (x : α) (h : twf d m = true) : twf d (tset d m a x) = true := by
  simp only [twf, Bool.and_eq_true, List.all_eq_true, decide_eq_true_eq] at *
  unfold tset
  split
  · exact ⟨trising_tdel h.1, fun c hc => h.2 c (mem_tdel hc)⟩
  · next hx =>
    refine ⟨trising_tput x h.1 (Nat.zero_le _), fun c hc => ?_⟩
    rcases mem_tput hc with rfl | hc
    · exact hx
    · exact h.2 c hc
theorem twf_tsetAll {d : α} (cs : List (Nat × α)) {m : Tab α} (h : twf d m = true) : twf d (tsetAll d m cs) = true := by
  induction cs generalizing m with
  | nil => exact h
  | cons c r ih => rw [tsetAll_cons]; exact ih (twf_tset _ _ h)
/-- Dropping entries keeps the canonical form. -/
theorem twf_filter {d : α} {m : Tab α} (p : Nat × α → Bool) (h : twf d m = true) : twf d (m.filter p) = true := by
  simp only [twf, Bool.and_eq_true, List.all_eq_true, decide_eq_true_eq] at *
  exact ⟨trising_filter p h.1, fun c hc => h.2 c (List.mem_filter.1 hc).1⟩
end
end Sys2Proof
end

