-- ==== Sys2Proof/Laws/State.lean ====
section
/-! SUPPORT. The updates of the state: each changes its own field, and each object reads as it was written. -/
namespace Sys2Proof.Machine
namespace State

section
variable (s : State) (tk : Nat) (t : Team)
@[simp] theorem setTeam_variant : (s.setTeam tk t).variant = s.variant := rfl
@[simp] theorem setTeam_silrev : (s.setTeam tk t).silrev = s.silrev := rfl
@[simp] theorem setTeam_devno : (s.setTeam tk t).devno = s.devno := rfl
@[simp] theorem setTeam_mem : (s.setTeam tk t).mem = s.mem := rfl
@[simp] theorem setTeam_poison : (s.setTeam tk t).poison = s.poison := rfl
@[simp] theorem setTeam_attrs : (s.setTeam tk t).attrs = s.attrs := rfl
@[simp] theorem setTeam_sPages : (s.setTeam tk t).sPages = s.sPages := rfl
@[simp] theorem setTeam_groups : (s.setTeam tk t).groups = s.groups := rfl
@[simp] theorem setTeam_grids : (s.setTeam tk t).grids = s.grids := rfl
@[simp] theorem setTeam_handed : (s.setTeam tk t).handed = s.handed := rfl
@[simp] theorem setTeam_cores : (s.setTeam tk t).cores = s.cores := rfl
@[simp] theorem setTeam_pairs : (s.setTeam tk t).pairs = s.pairs := rfl
@[simp] theorem setTeam_dies : (s.setTeam tk t).dies = s.dies := rfl
@[simp] theorem setTeam_dstacks : (s.setTeam tk t).dstacks = s.dstacks := rfl
@[simp] theorem setTeam_ports : (s.setTeam tk t).ports = s.ports := rfl
@[simp] theorem setTeam_hports : (s.setTeam tk t).hports = s.hports := rfl
@[simp] theorem setTeam_queues : (s.setTeam tk t).queues = s.queues := rfl
@[simp] theorem setTeam_rrTurn : (s.setTeam tk t).rrTurn = s.rrTurn := rfl
@[simp] theorem setTeam_ctls : (s.setTeam tk t).ctls = s.ctls := rfl
@[simp] theorem setTeam_chains : (s.setTeam tk t).chains = s.chains := rfl
@[simp] theorem setTeam_sched : (s.setTeam tk t).sched = s.sched := rfl
@[simp] theorem setTeam_lock : (s.setTeam tk t).lock = s.lock := rfl
@[simp] theorem setTeam_tags : (s.setTeam tk t).tags = s.tags := rfl
@[simp] theorem setTeam_faultWait : (s.setTeam tk t).faultWait = s.faultWait := rfl
@[simp] theorem setTeam_tlb : (s.setTeam tk t).tlb = s.tlb := rfl
@[simp] theorem setTeam_access : (s.setTeam tk t).access = s.access := rfl
@[simp] theorem setTeam_pages : (s.setTeam tk t).pages = s.pages := rfl
@[simp] theorem setTeam_borrowed : (s.setTeam tk t).borrowed = s.borrowed := rfl
@[simp] theorem setTeam_proxy : (s.setTeam tk t).proxy = s.proxy := rfl
@[simp] theorem setTeam_proxyLines : (s.setTeam tk t).proxyLines = s.proxyLines := rfl
@[simp] theorem setTeam_proxyDirty : (s.setTeam tk t).proxyDirty = s.proxyDirty := rfl
@[simp] theorem setTeam_hostLines : (s.setTeam tk t).hostLines = s.hostLines := rfl
@[simp] theorem setTeam_hostDirty : (s.setTeam tk t).hostDirty = s.hostDirty := rfl
@[simp] theorem setTeam_route : (s.setTeam tk t).route = s.route := rfl
@[simp] theorem setTeam_rasHeld : (s.setTeam tk t).rasHeld = s.rasHeld := rfl
@[simp] theorem setTeam_rasOpen : (s.setTeam tk t).rasOpen = s.rasOpen := rfl
@[simp] theorem setTeam_telpair : (s.setTeam tk t).telpair = s.telpair := rfl
@[simp] theorem setTeam_flash : (s.setTeam tk t).flash = s.flash := rfl
@[simp] theorem setTeam_tdi : (s.setTeam tk t).tdi = s.tdi := rfl
@[simp] theorem setTeam_shared : (s.setTeam tk t).shared = s.shared := rfl
@[simp] theorem setTeam_ide : (s.setTeam tk t).ide = s.ide := rfl
@[simp] theorem setTeam_spdm : (s.setTeam tk t).spdm = s.spdm := rfl
@[simp] theorem setTeam_flr : (s.setTeam tk t).flr = s.flr := rfl
@[simp] theorem setTeam_hostOut : (s.setTeam tk t).hostOut = s.hostOut := rfl
@[simp] theorem setTeam_aer : (s.setTeam tk t).aer = s.aer := rfl
@[simp] theorem setTeam_ringDown : (s.setTeam tk t).ringDown = s.ringDown := rfl
@[simp] theorem setTeam_loaded : (s.setTeam tk t).loaded = s.loaded := rfl
@[simp] theorem setTeam_journal : (s.setTeam tk t).journal = s.journal := rfl
@[simp] theorem setTeam_remoteOut : (s.setTeam tk t).remoteOut = s.remoteOut := rfl
@[simp] theorem setTeam_remoteIn : (s.setTeam tk t).remoteIn = s.remoteIn := rfl
@[simp] theorem setTeam_physOut : (s.setTeam tk t).physOut = s.physOut := rfl
@[simp] theorem setTeam_nacks : (s.setTeam tk t).nacks = s.nacks := rfl
@[simp] theorem setTeam_hostWait : (s.setTeam tk t).hostWait = s.hostWait := rfl
@[simp] theorem setTeam_peerWait : (s.setTeam tk t).peerWait = s.peerWait := rfl
@[simp] theorem setTeam_nextGid : (s.setTeam tk t).nextGid = s.nextGid := rfl
@[simp] theorem setTeam_nextCid : (s.setTeam tk t).nextCid = s.nextCid := rfl
@[simp] theorem setTeam_nextPark : (s.setTeam tk t).nextPark = s.nextPark := rfl
@[simp] theorem setTeam_saveBusy : (s.setTeam tk t).saveBusy = s.saveBusy := rfl
@[simp] theorem setTeam_free : (s.setTeam tk t).free = s.free := rfl
@[simp] theorem setTeam_cur : (s.setTeam tk t).cur = s.cur := rfl
@[simp] theorem setTeam_agenda : (s.setTeam tk t).agenda = s.agenda := rfl
end
section
variable (s : State) (tk : Nat) (f : Team → Team)
@[simp] theorem modTeam_variant : (s.modTeam tk f).variant = s.variant := rfl
@[simp] theorem modTeam_silrev : (s.modTeam tk f).silrev = s.silrev := rfl
@[simp] theorem modTeam_devno : (s.modTeam tk f).devno = s.devno := rfl
@[simp] theorem modTeam_mem : (s.modTeam tk f).mem = s.mem := rfl
@[simp] theorem modTeam_poison : (s.modTeam tk f).poison = s.poison := rfl
@[simp] theorem modTeam_attrs : (s.modTeam tk f).attrs = s.attrs := rfl
@[simp] theorem modTeam_sPages : (s.modTeam tk f).sPages = s.sPages := rfl
@[simp] theorem modTeam_groups : (s.modTeam tk f).groups = s.groups := rfl
@[simp] theorem modTeam_grids : (s.modTeam tk f).grids = s.grids := rfl
@[simp] theorem modTeam_handed : (s.modTeam tk f).handed = s.handed := rfl
@[simp] theorem modTeam_cores : (s.modTeam tk f).cores = s.cores := rfl
@[simp] theorem modTeam_pairs : (s.modTeam tk f).pairs = s.pairs := rfl
@[simp] theorem modTeam_dies : (s.modTeam tk f).dies = s.dies := rfl
@[simp] theorem modTeam_dstacks : (s.modTeam tk f).dstacks = s.dstacks := rfl
@[simp] theorem modTeam_ports : (s.modTeam tk f).ports = s.ports := rfl
@[simp] theorem modTeam_hports : (s.modTeam tk f).hports = s.hports := rfl
@[simp] theorem modTeam_queues : (s.modTeam tk f).queues = s.queues := rfl
@[simp] theorem modTeam_rrTurn : (s.modTeam tk f).rrTurn = s.rrTurn := rfl
@[simp] theorem modTeam_ctls : (s.modTeam tk f).ctls = s.ctls := rfl
@[simp] theorem modTeam_chains : (s.modTeam tk f).chains = s.chains := rfl
@[simp] theorem modTeam_sched : (s.modTeam tk f).sched = s.sched := rfl
@[simp] theorem modTeam_lock : (s.modTeam tk f).lock = s.lock := rfl
@[simp] theorem modTeam_tags : (s.modTeam tk f).tags = s.tags := rfl
@[simp] theorem modTeam_faultWait : (s.modTeam tk f).faultWait = s.faultWait := rfl
@[simp] theorem modTeam_tlb : (s.modTeam tk f).tlb = s.tlb := rfl
@[simp] theorem modTeam_access : (s.modTeam tk f).access = s.access := rfl
@[simp] theorem modTeam_pages : (s.modTeam tk f).pages = s.pages := rfl
@[simp] theorem modTeam_borrowed : (s.modTeam tk f).borrowed = s.borrowed := rfl
@[simp] theorem modTeam_proxy : (s.modTeam tk f).proxy = s.proxy := rfl
@[simp] theorem modTeam_proxyLines : (s.modTeam tk f).proxyLines = s.proxyLines := rfl
@[simp] theorem modTeam_proxyDirty : (s.modTeam tk f).proxyDirty = s.proxyDirty := rfl
@[simp] theorem modTeam_hostLines : (s.modTeam tk f).hostLines = s.hostLines := rfl
@[simp] theorem modTeam_hostDirty : (s.modTeam tk f).hostDirty = s.hostDirty := rfl
@[simp] theorem modTeam_route : (s.modTeam tk f).route = s.route := rfl
@[simp] theorem modTeam_rasHeld : (s.modTeam tk f).rasHeld = s.rasHeld := rfl
@[simp] theorem modTeam_rasOpen : (s.modTeam tk f).rasOpen = s.rasOpen := rfl
@[simp] theorem modTeam_telpair : (s.modTeam tk f).telpair = s.telpair := rfl
@[simp] theorem modTeam_flash : (s.modTeam tk f).flash = s.flash := rfl
@[simp] theorem modTeam_tdi : (s.modTeam tk f).tdi = s.tdi := rfl
@[simp] theorem modTeam_shared : (s.modTeam tk f).shared = s.shared := rfl
@[simp] theorem modTeam_ide : (s.modTeam tk f).ide = s.ide := rfl
@[simp] theorem modTeam_spdm : (s.modTeam tk f).spdm = s.spdm := rfl
@[simp] theorem modTeam_flr : (s.modTeam tk f).flr = s.flr := rfl
@[simp] theorem modTeam_hostOut : (s.modTeam tk f).hostOut = s.hostOut := rfl
@[simp] theorem modTeam_aer : (s.modTeam tk f).aer = s.aer := rfl
@[simp] theorem modTeam_ringDown : (s.modTeam tk f).ringDown = s.ringDown := rfl
@[simp] theorem modTeam_loaded : (s.modTeam tk f).loaded = s.loaded := rfl
@[simp] theorem modTeam_journal : (s.modTeam tk f).journal = s.journal := rfl
@[simp] theorem modTeam_remoteOut : (s.modTeam tk f).remoteOut = s.remoteOut := rfl
@[simp] theorem modTeam_remoteIn : (s.modTeam tk f).remoteIn = s.remoteIn := rfl
@[simp] theorem modTeam_physOut : (s.modTeam tk f).physOut = s.physOut := rfl
@[simp] theorem modTeam_nacks : (s.modTeam tk f).nacks = s.nacks := rfl
@[simp] theorem modTeam_hostWait : (s.modTeam tk f).hostWait = s.hostWait := rfl
@[simp] theorem modTeam_peerWait : (s.modTeam tk f).peerWait = s.peerWait := rfl
@[simp] theorem modTeam_nextGid : (s.modTeam tk f).nextGid = s.nextGid := rfl
@[simp] theorem modTeam_nextCid : (s.modTeam tk f).nextCid = s.nextCid := rfl
@[simp] theorem modTeam_nextPark : (s.modTeam tk f).nextPark = s.nextPark := rfl
@[simp] theorem modTeam_saveBusy : (s.modTeam tk f).saveBusy = s.saveBusy := rfl
@[simp] theorem modTeam_free : (s.modTeam tk f).free = s.free := rfl
@[simp] theorem modTeam_cur : (s.modTeam tk f).cur = s.cur := rfl
@[simp] theorem modTeam_agenda : (s.modTeam tk f).agenda = s.agenda := rfl
end
section
variable (s : State) (c : Nat) (x : Core)
@[simp] theorem setCore_variant : (s.setCore c x).variant = s.variant := rfl
@[simp] theorem setCore_silrev : (s.setCore c x).silrev = s.silrev := rfl
@[simp] theorem setCore_devno : (s.setCore c x).devno = s.devno := rfl
@[simp] theorem setCore_mem : (s.setCore c x).mem = s.mem := rfl
@[simp] theorem setCore_poison : (s.setCore c x).poison = s.poison := rfl
@[simp] theorem setCore_attrs : (s.setCore c x).attrs = s.attrs := rfl
@[simp] theorem setCore_sPages : (s.setCore c x).sPages = s.sPages := rfl
@[simp] theorem setCore_teams : (s.setCore c x).teams = s.teams := rfl
@[simp] theorem setCore_groups : (s.setCore c x).groups = s.groups := rfl
@[simp] theorem setCore_grids : (s.setCore c x).grids = s.grids := rfl
@[simp] theorem setCore_handed : (s.setCore c x).handed = s.handed := rfl
@[simp] theorem setCore_pairs : (s.setCore c x).pairs = s.pairs := rfl
@[simp] theorem setCore_dies : (s.setCore c x).dies = s.dies := rfl
@[simp] theorem setCore_dstacks : (s.setCore c x).dstacks = s.dstacks := rfl
@[simp] theorem setCore_ports : (s.setCore c x).ports = s.ports := rfl
@[simp] theorem setCore_hports : (s.setCore c x).hports = s.hports := rfl
@[simp] theorem setCore_queues : (s.setCore c x).queues = s.queues := rfl
@[simp] theorem setCore_rrTurn : (s.setCore c x).rrTurn = s.rrTurn := rfl
@[simp] theorem setCore_ctls : (s.setCore c x).ctls = s.ctls := rfl
@[simp] theorem setCore_chains : (s.setCore c x).chains = s.chains := rfl
@[simp] theorem setCore_sched : (s.setCore c x).sched = s.sched := rfl
@[simp] theorem setCore_lock : (s.setCore c x).lock = s.lock := rfl
@[simp] theorem setCore_tags : (s.setCore c x).tags = s.tags := rfl
@[simp] theorem setCore_faultWait : (s.setCore c x).faultWait = s.faultWait := rfl
@[simp] theorem setCore_tlb : (s.setCore c x).tlb = s.tlb := rfl
@[simp] theorem setCore_access : (s.setCore c x).access = s.access := rfl
@[simp] theorem setCore_pages : (s.setCore c x).pages = s.pages := rfl
@[simp] theorem setCore_borrowed : (s.setCore c x).borrowed = s.borrowed := rfl
@[simp] theorem setCore_proxy : (s.setCore c x).proxy = s.proxy := rfl
@[simp] theorem setCore_proxyLines : (s.setCore c x).proxyLines = s.proxyLines := rfl
@[simp] theorem setCore_proxyDirty : (s.setCore c x).proxyDirty = s.proxyDirty := rfl
@[simp] theorem setCore_hostLines : (s.setCore c x).hostLines = s.hostLines := rfl
@[simp] theorem setCore_hostDirty : (s.setCore c x).hostDirty = s.hostDirty := rfl
@[simp] theorem setCore_route : (s.setCore c x).route = s.route := rfl
@[simp] theorem setCore_rasHeld : (s.setCore c x).rasHeld = s.rasHeld := rfl
@[simp] theorem setCore_rasOpen : (s.setCore c x).rasOpen = s.rasOpen := rfl
@[simp] theorem setCore_telpair : (s.setCore c x).telpair = s.telpair := rfl
@[simp] theorem setCore_flash : (s.setCore c x).flash = s.flash := rfl
@[simp] theorem setCore_tdi : (s.setCore c x).tdi = s.tdi := rfl
@[simp] theorem setCore_shared : (s.setCore c x).shared = s.shared := rfl
@[simp] theorem setCore_ide : (s.setCore c x).ide = s.ide := rfl
@[simp] theorem setCore_spdm : (s.setCore c x).spdm = s.spdm := rfl
@[simp] theorem setCore_flr : (s.setCore c x).flr = s.flr := rfl
@[simp] theorem setCore_hostOut : (s.setCore c x).hostOut = s.hostOut := rfl
@[simp] theorem setCore_aer : (s.setCore c x).aer = s.aer := rfl
@[simp] theorem setCore_ringDown : (s.setCore c x).ringDown = s.ringDown := rfl
@[simp] theorem setCore_loaded : (s.setCore c x).loaded = s.loaded := rfl
@[simp] theorem setCore_journal : (s.setCore c x).journal = s.journal := rfl
@[simp] theorem setCore_remoteOut : (s.setCore c x).remoteOut = s.remoteOut := rfl
@[simp] theorem setCore_remoteIn : (s.setCore c x).remoteIn = s.remoteIn := rfl
@[simp] theorem setCore_physOut : (s.setCore c x).physOut = s.physOut := rfl
@[simp] theorem setCore_nacks : (s.setCore c x).nacks = s.nacks := rfl
@[simp] theorem setCore_hostWait : (s.setCore c x).hostWait = s.hostWait := rfl
@[simp] theorem setCore_peerWait : (s.setCore c x).peerWait = s.peerWait := rfl
@[simp] theorem setCore_nextGid : (s.setCore c x).nextGid = s.nextGid := rfl
@[simp] theorem setCore_nextCid : (s.setCore c x).nextCid = s.nextCid := rfl
@[simp] theorem setCore_nextPark : (s.setCore c x).nextPark = s.nextPark := rfl
@[simp] theorem setCore_saveBusy : (s.setCore c x).saveBusy = s.saveBusy := rfl
@[simp] theorem setCore_free : (s.setCore c x).free = s.free := rfl
@[simp] theorem setCore_cur : (s.setCore c x).cur = s.cur := rfl
@[simp] theorem setCore_agenda : (s.setCore c x).agenda = s.agenda := rfl
end
section
variable (s : State) (c : Nat) (x : Pair)
@[simp] theorem setPair_variant : (s.setPair c x).variant = s.variant := rfl
@[simp] theorem setPair_silrev : (s.setPair c x).silrev = s.silrev := rfl
@[simp] theorem setPair_devno : (s.setPair c x).devno = s.devno := rfl
@[simp] theorem setPair_mem : (s.setPair c x).mem = s.mem := rfl
@[simp] theorem setPair_poison : (s.setPair c x).poison = s.poison := rfl
@[simp] theorem setPair_attrs : (s.setPair c x).attrs = s.attrs := rfl
@[simp] theorem setPair_sPages : (s.setPair c x).sPages = s.sPages := rfl
@[simp] theorem setPair_teams : (s.setPair c x).teams = s.teams := rfl
@[simp] theorem setPair_groups : (s.setPair c x).groups = s.groups := rfl
@[simp] theorem setPair_grids : (s.setPair c x).grids = s.grids := rfl
@[simp] theorem setPair_handed : (s.setPair c x).handed = s.handed := rfl
@[simp] theorem setPair_cores : (s.setPair c x).cores = s.cores := rfl
@[simp] theorem setPair_dies : (s.setPair c x).dies = s.dies := rfl
@[simp] theorem setPair_dstacks : (s.setPair c x).dstacks = s.dstacks := rfl
@[simp] theorem setPair_ports : (s.setPair c x).ports = s.ports := rfl
@[simp] theorem setPair_hports : (s.setPair c x).hports = s.hports := rfl
@[simp] theorem setPair_queues : (s.setPair c x).queues = s.queues := rfl
@[simp] theorem setPair_rrTurn : (s.setPair c x).rrTurn = s.rrTurn := rfl
@[simp] theorem setPair_ctls : (s.setPair c x).ctls = s.ctls := rfl
@[simp] theorem setPair_chains : (s.setPair c x).chains = s.chains := rfl
@[simp] theorem setPair_sched : (s.setPair c x).sched = s.sched := rfl
@[simp] theorem setPair_lock : (s.setPair c x).lock = s.lock := rfl
@[simp] theorem setPair_tags : (s.setPair c x).tags = s.tags := rfl
@[simp] theorem setPair_faultWait : (s.setPair c x).faultWait = s.faultWait := rfl
@[simp] theorem setPair_tlb : (s.setPair c x).tlb = s.tlb := rfl
@[simp] theorem setPair_access : (s.setPair c x).access = s.access := rfl
@[simp] theorem setPair_pages : (s.setPair c x).pages = s.pages := rfl
@[simp] theorem setPair_borrowed : (s.setPair c x).borrowed = s.borrowed := rfl
@[simp] theorem setPair_proxy : (s.setPair c x).proxy = s.proxy := rfl
@[simp] theorem setPair_proxyLines : (s.setPair c x).proxyLines = s.proxyLines := rfl
@[simp] theorem setPair_proxyDirty : (s.setPair c x).proxyDirty = s.proxyDirty := rfl
@[simp] theorem setPair_hostLines : (s.setPair c x).hostLines = s.hostLines := rfl
@[simp] theorem setPair_hostDirty : (s.setPair c x).hostDirty = s.hostDirty := rfl
@[simp] theorem setPair_route : (s.setPair c x).route = s.route := rfl
@[simp] theorem setPair_rasHeld : (s.setPair c x).rasHeld = s.rasHeld := rfl
@[simp] theorem setPair_rasOpen : (s.setPair c x).rasOpen = s.rasOpen := rfl
@[simp] theorem setPair_telpair : (s.setPair c x).telpair = s.telpair := rfl
@[simp] theorem setPair_flash : (s.setPair c x).flash = s.flash := rfl
@[simp] theorem setPair_tdi : (s.setPair c x).tdi = s.tdi := rfl
@[simp] theorem setPair_shared : (s.setPair c x).shared = s.shared := rfl
@[simp] theorem setPair_ide : (s.setPair c x).ide = s.ide := rfl
@[simp] theorem setPair_spdm : (s.setPair c x).spdm = s.spdm := rfl
@[simp] theorem setPair_flr : (s.setPair c x).flr = s.flr := rfl
@[simp] theorem setPair_hostOut : (s.setPair c x).hostOut = s.hostOut := rfl
@[simp] theorem setPair_aer : (s.setPair c x).aer = s.aer := rfl
@[simp] theorem setPair_ringDown : (s.setPair c x).ringDown = s.ringDown := rfl
@[simp] theorem setPair_loaded : (s.setPair c x).loaded = s.loaded := rfl
@[simp] theorem setPair_journal : (s.setPair c x).journal = s.journal := rfl
@[simp] theorem setPair_remoteOut : (s.setPair c x).remoteOut = s.remoteOut := rfl
@[simp] theorem setPair_remoteIn : (s.setPair c x).remoteIn = s.remoteIn := rfl
@[simp] theorem setPair_physOut : (s.setPair c x).physOut = s.physOut := rfl
@[simp] theorem setPair_nacks : (s.setPair c x).nacks = s.nacks := rfl
@[simp] theorem setPair_hostWait : (s.setPair c x).hostWait = s.hostWait := rfl
@[simp] theorem setPair_peerWait : (s.setPair c x).peerWait = s.peerWait := rfl
@[simp] theorem setPair_nextGid : (s.setPair c x).nextGid = s.nextGid := rfl
@[simp] theorem setPair_nextCid : (s.setPair c x).nextCid = s.nextCid := rfl
@[simp] theorem setPair_nextPark : (s.setPair c x).nextPark = s.nextPark := rfl
@[simp] theorem setPair_saveBusy : (s.setPair c x).saveBusy = s.saveBusy := rfl
@[simp] theorem setPair_free : (s.setPair c x).free = s.free := rfl
@[simp] theorem setPair_cur : (s.setPair c x).cur = s.cur := rfl
@[simp] theorem setPair_agenda : (s.setPair c x).agenda = s.agenda := rfl
end
section
variable (s : State) (c : Nat) (x : Die)
@[simp] theorem setDie_variant : (s.setDie c x).variant = s.variant := rfl
@[simp] theorem setDie_silrev : (s.setDie c x).silrev = s.silrev := rfl
@[simp] theorem setDie_devno : (s.setDie c x).devno = s.devno := rfl
@[simp] theorem setDie_mem : (s.setDie c x).mem = s.mem := rfl
@[simp] theorem setDie_poison : (s.setDie c x).poison = s.poison := rfl
@[simp] theorem setDie_attrs : (s.setDie c x).attrs = s.attrs := rfl
@[simp] theorem setDie_sPages : (s.setDie c x).sPages = s.sPages := rfl
@[simp] theorem setDie_teams : (s.setDie c x).teams = s.teams := rfl
@[simp] theorem setDie_groups : (s.setDie c x).groups = s.groups := rfl
@[simp] theorem setDie_grids : (s.setDie c x).grids = s.grids := rfl
@[simp] theorem setDie_handed : (s.setDie c x).handed = s.handed := rfl
@[simp] theorem setDie_cores : (s.setDie c x).cores = s.cores := rfl
@[simp] theorem setDie_pairs : (s.setDie c x).pairs = s.pairs := rfl
@[simp] theorem setDie_dstacks : (s.setDie c x).dstacks = s.dstacks := rfl
@[simp] theorem setDie_ports : (s.setDie c x).ports = s.ports := rfl
@[simp] theorem setDie_hports : (s.setDie c x).hports = s.hports := rfl
@[simp] theorem setDie_queues : (s.setDie c x).queues = s.queues := rfl
@[simp] theorem setDie_rrTurn : (s.setDie c x).rrTurn = s.rrTurn := rfl
@[simp] theorem setDie_ctls : (s.setDie c x).ctls = s.ctls := rfl
@[simp] theorem setDie_chains : (s.setDie c x).chains = s.chains := rfl
@[simp] theorem setDie_sched : (s.setDie c x).sched = s.sched := rfl
@[simp] theorem setDie_lock : (s.setDie c x).lock = s.lock := rfl
@[simp] theorem setDie_tags : (s.setDie c x).tags = s.tags := rfl
@[simp] theorem setDie_faultWait : (s.setDie c x).faultWait = s.faultWait := rfl
@[simp] theorem setDie_tlb : (s.setDie c x).tlb = s.tlb := rfl
@[simp] theorem setDie_access : (s.setDie c x).access = s.access := rfl
@[simp] theorem setDie_pages : (s.setDie c x).pages = s.pages := rfl
@[simp] theorem setDie_borrowed : (s.setDie c x).borrowed = s.borrowed := rfl
@[simp] theorem setDie_proxy : (s.setDie c x).proxy = s.proxy := rfl
@[simp] theorem setDie_proxyLines : (s.setDie c x).proxyLines = s.proxyLines := rfl
@[simp] theorem setDie_proxyDirty : (s.setDie c x).proxyDirty = s.proxyDirty := rfl
@[simp] theorem setDie_hostLines : (s.setDie c x).hostLines = s.hostLines := rfl
@[simp] theorem setDie_hostDirty : (s.setDie c x).hostDirty = s.hostDirty := rfl
@[simp] theorem setDie_route : (s.setDie c x).route = s.route := rfl
@[simp] theorem setDie_rasHeld : (s.setDie c x).rasHeld = s.rasHeld := rfl
@[simp] theorem setDie_rasOpen : (s.setDie c x).rasOpen = s.rasOpen := rfl
@[simp] theorem setDie_telpair : (s.setDie c x).telpair = s.telpair := rfl
@[simp] theorem setDie_flash : (s.setDie c x).flash = s.flash := rfl
@[simp] theorem setDie_tdi : (s.setDie c x).tdi = s.tdi := rfl
@[simp] theorem setDie_shared : (s.setDie c x).shared = s.shared := rfl
@[simp] theorem setDie_ide : (s.setDie c x).ide = s.ide := rfl
@[simp] theorem setDie_spdm : (s.setDie c x).spdm = s.spdm := rfl
@[simp] theorem setDie_flr : (s.setDie c x).flr = s.flr := rfl
@[simp] theorem setDie_hostOut : (s.setDie c x).hostOut = s.hostOut := rfl
@[simp] theorem setDie_aer : (s.setDie c x).aer = s.aer := rfl
@[simp] theorem setDie_ringDown : (s.setDie c x).ringDown = s.ringDown := rfl
@[simp] theorem setDie_loaded : (s.setDie c x).loaded = s.loaded := rfl
@[simp] theorem setDie_journal : (s.setDie c x).journal = s.journal := rfl
@[simp] theorem setDie_remoteOut : (s.setDie c x).remoteOut = s.remoteOut := rfl
@[simp] theorem setDie_remoteIn : (s.setDie c x).remoteIn = s.remoteIn := rfl
@[simp] theorem setDie_physOut : (s.setDie c x).physOut = s.physOut := rfl
@[simp] theorem setDie_nacks : (s.setDie c x).nacks = s.nacks := rfl
@[simp] theorem setDie_hostWait : (s.setDie c x).hostWait = s.hostWait := rfl
@[simp] theorem setDie_peerWait : (s.setDie c x).peerWait = s.peerWait := rfl
@[simp] theorem setDie_nextGid : (s.setDie c x).nextGid = s.nextGid := rfl
@[simp] theorem setDie_nextCid : (s.setDie c x).nextCid = s.nextCid := rfl
@[simp] theorem setDie_nextPark : (s.setDie c x).nextPark = s.nextPark := rfl
@[simp] theorem setDie_saveBusy : (s.setDie c x).saveBusy = s.saveBusy := rfl
@[simp] theorem setDie_free : (s.setDie c x).free = s.free := rfl
@[simp] theorem setDie_cur : (s.setDie c x).cur = s.cur := rfl
@[simp] theorem setDie_agenda : (s.setDie c x).agenda = s.agenda := rfl
end
section
variable (s : State) (c : Nat) (x : Stack)
@[simp] theorem setStack_variant : (s.setStack c x).variant = s.variant := rfl
@[simp] theorem setStack_silrev : (s.setStack c x).silrev = s.silrev := rfl
@[simp] theorem setStack_devno : (s.setStack c x).devno = s.devno := rfl
@[simp] theorem setStack_mem : (s.setStack c x).mem = s.mem := rfl
@[simp] theorem setStack_poison : (s.setStack c x).poison = s.poison := rfl
@[simp] theorem setStack_attrs : (s.setStack c x).attrs = s.attrs := rfl
@[simp] theorem setStack_sPages : (s.setStack c x).sPages = s.sPages := rfl
@[simp] theorem setStack_teams : (s.setStack c x).teams = s.teams := rfl
@[simp] theorem setStack_groups : (s.setStack c x).groups = s.groups := rfl
@[simp] theorem setStack_grids : (s.setStack c x).grids = s.grids := rfl
@[simp] theorem setStack_handed : (s.setStack c x).handed = s.handed := rfl
@[simp] theorem setStack_cores : (s.setStack c x).cores = s.cores := rfl
@[simp] theorem setStack_pairs : (s.setStack c x).pairs = s.pairs := rfl
@[simp] theorem setStack_dies : (s.setStack c x).dies = s.dies := rfl
@[simp] theorem setStack_ports : (s.setStack c x).ports = s.ports := rfl
@[simp] theorem setStack_hports : (s.setStack c x).hports = s.hports := rfl
@[simp] theorem setStack_queues : (s.setStack c x).queues = s.queues := rfl
@[simp] theorem setStack_rrTurn : (s.setStack c x).rrTurn = s.rrTurn := rfl
@[simp] theorem setStack_ctls : (s.setStack c x).ctls = s.ctls := rfl
@[simp] theorem setStack_chains : (s.setStack c x).chains = s.chains := rfl
@[simp] theorem setStack_sched : (s.setStack c x).sched = s.sched := rfl
@[simp] theorem setStack_lock : (s.setStack c x).lock = s.lock := rfl
@[simp] theorem setStack_tags : (s.setStack c x).tags = s.tags := rfl
@[simp] theorem setStack_faultWait : (s.setStack c x).faultWait = s.faultWait := rfl
@[simp] theorem setStack_tlb : (s.setStack c x).tlb = s.tlb := rfl
@[simp] theorem setStack_access : (s.setStack c x).access = s.access := rfl
@[simp] theorem setStack_pages : (s.setStack c x).pages = s.pages := rfl
@[simp] theorem setStack_borrowed : (s.setStack c x).borrowed = s.borrowed := rfl
@[simp] theorem setStack_proxy : (s.setStack c x).proxy = s.proxy := rfl
@[simp] theorem setStack_proxyLines : (s.setStack c x).proxyLines = s.proxyLines := rfl
@[simp] theorem setStack_proxyDirty : (s.setStack c x).proxyDirty = s.proxyDirty := rfl
@[simp] theorem setStack_hostLines : (s.setStack c x).hostLines = s.hostLines := rfl
@[simp] theorem setStack_hostDirty : (s.setStack c x).hostDirty = s.hostDirty := rfl
@[simp] theorem setStack_route : (s.setStack c x).route = s.route := rfl
@[simp] theorem setStack_rasHeld : (s.setStack c x).rasHeld = s.rasHeld := rfl
@[simp] theorem setStack_rasOpen : (s.setStack c x).rasOpen = s.rasOpen := rfl
@[simp] theorem setStack_telpair : (s.setStack c x).telpair = s.telpair := rfl
@[simp] theorem setStack_flash : (s.setStack c x).flash = s.flash := rfl
@[simp] theorem setStack_tdi : (s.setStack c x).tdi = s.tdi := rfl
@[simp] theorem setStack_shared : (s.setStack c x).shared = s.shared := rfl
@[simp] theorem setStack_ide : (s.setStack c x).ide = s.ide := rfl
@[simp] theorem setStack_spdm : (s.setStack c x).spdm = s.spdm := rfl
@[simp] theorem setStack_flr : (s.setStack c x).flr = s.flr := rfl
@[simp] theorem setStack_hostOut : (s.setStack c x).hostOut = s.hostOut := rfl
@[simp] theorem setStack_aer : (s.setStack c x).aer = s.aer := rfl
@[simp] theorem setStack_ringDown : (s.setStack c x).ringDown = s.ringDown := rfl
@[simp] theorem setStack_loaded : (s.setStack c x).loaded = s.loaded := rfl
@[simp] theorem setStack_journal : (s.setStack c x).journal = s.journal := rfl
@[simp] theorem setStack_remoteOut : (s.setStack c x).remoteOut = s.remoteOut := rfl
@[simp] theorem setStack_remoteIn : (s.setStack c x).remoteIn = s.remoteIn := rfl
@[simp] theorem setStack_physOut : (s.setStack c x).physOut = s.physOut := rfl
@[simp] theorem setStack_nacks : (s.setStack c x).nacks = s.nacks := rfl
@[simp] theorem setStack_hostWait : (s.setStack c x).hostWait = s.hostWait := rfl
@[simp] theorem setStack_peerWait : (s.setStack c x).peerWait = s.peerWait := rfl
@[simp] theorem setStack_nextGid : (s.setStack c x).nextGid = s.nextGid := rfl
@[simp] theorem setStack_nextCid : (s.setStack c x).nextCid = s.nextCid := rfl
@[simp] theorem setStack_nextPark : (s.setStack c x).nextPark = s.nextPark := rfl
@[simp] theorem setStack_saveBusy : (s.setStack c x).saveBusy = s.saveBusy := rfl
@[simp] theorem setStack_free : (s.setStack c x).free = s.free := rfl
@[simp] theorem setStack_cur : (s.setStack c x).cur = s.cur := rfl
@[simp] theorem setStack_agenda : (s.setStack c x).agenda = s.agenda := rfl
end
section
variable (s : State) (c : Nat) (x : Port)
@[simp] theorem setPort_variant : (s.setPort c x).variant = s.variant := rfl
@[simp] theorem setPort_silrev : (s.setPort c x).silrev = s.silrev := rfl
@[simp] theorem setPort_devno : (s.setPort c x).devno = s.devno := rfl
@[simp] theorem setPort_mem : (s.setPort c x).mem = s.mem := rfl
@[simp] theorem setPort_poison : (s.setPort c x).poison = s.poison := rfl
@[simp] theorem setPort_attrs : (s.setPort c x).attrs = s.attrs := rfl
@[simp] theorem setPort_sPages : (s.setPort c x).sPages = s.sPages := rfl
@[simp] theorem setPort_teams : (s.setPort c x).teams = s.teams := rfl
@[simp] theorem setPort_groups : (s.setPort c x).groups = s.groups := rfl
@[simp] theorem setPort_grids : (s.setPort c x).grids = s.grids := rfl
@[simp] theorem setPort_handed : (s.setPort c x).handed = s.handed := rfl
@[simp] theorem setPort_cores : (s.setPort c x).cores = s.cores := rfl
@[simp] theorem setPort_pairs : (s.setPort c x).pairs = s.pairs := rfl
@[simp] theorem setPort_dies : (s.setPort c x).dies = s.dies := rfl
@[simp] theorem setPort_dstacks : (s.setPort c x).dstacks = s.dstacks := rfl
@[simp] theorem setPort_hports : (s.setPort c x).hports = s.hports := rfl
@[simp] theorem setPort_queues : (s.setPort c x).queues = s.queues := rfl
@[simp] theorem setPort_rrTurn : (s.setPort c x).rrTurn = s.rrTurn := rfl
@[simp] theorem setPort_ctls : (s.setPort c x).ctls = s.ctls := rfl
@[simp] theorem setPort_chains : (s.setPort c x).chains = s.chains := rfl
@[simp] theorem setPort_sched : (s.setPort c x).sched = s.sched := rfl
@[simp] theorem setPort_lock : (s.setPort c x).lock = s.lock := rfl
@[simp] theorem setPort_tags : (s.setPort c x).tags = s.tags := rfl
@[simp] theorem setPort_faultWait : (s.setPort c x).faultWait = s.faultWait := rfl
@[simp] theorem setPort_tlb : (s.setPort c x).tlb = s.tlb := rfl
@[simp] theorem setPort_access : (s.setPort c x).access = s.access := rfl
@[simp] theorem setPort_pages : (s.setPort c x).pages = s.pages := rfl
@[simp] theorem setPort_borrowed : (s.setPort c x).borrowed = s.borrowed := rfl
@[simp] theorem setPort_proxy : (s.setPort c x).proxy = s.proxy := rfl
@[simp] theorem setPort_proxyLines : (s.setPort c x).proxyLines = s.proxyLines := rfl
@[simp] theorem setPort_proxyDirty : (s.setPort c x).proxyDirty = s.proxyDirty := rfl
@[simp] theorem setPort_hostLines : (s.setPort c x).hostLines = s.hostLines := rfl
@[simp] theorem setPort_hostDirty : (s.setPort c x).hostDirty = s.hostDirty := rfl
@[simp] theorem setPort_route : (s.setPort c x).route = s.route := rfl
@[simp] theorem setPort_rasHeld : (s.setPort c x).rasHeld = s.rasHeld := rfl
@[simp] theorem setPort_rasOpen : (s.setPort c x).rasOpen = s.rasOpen := rfl
@[simp] theorem setPort_telpair : (s.setPort c x).telpair = s.telpair := rfl
@[simp] theorem setPort_flash : (s.setPort c x).flash = s.flash := rfl
@[simp] theorem setPort_tdi : (s.setPort c x).tdi = s.tdi := rfl
@[simp] theorem setPort_shared : (s.setPort c x).shared = s.shared := rfl
@[simp] theorem setPort_ide : (s.setPort c x).ide = s.ide := rfl
@[simp] theorem setPort_spdm : (s.setPort c x).spdm = s.spdm := rfl
@[simp] theorem setPort_flr : (s.setPort c x).flr = s.flr := rfl
@[simp] theorem setPort_hostOut : (s.setPort c x).hostOut = s.hostOut := rfl
@[simp] theorem setPort_aer : (s.setPort c x).aer = s.aer := rfl
@[simp] theorem setPort_ringDown : (s.setPort c x).ringDown = s.ringDown := rfl
@[simp] theorem setPort_loaded : (s.setPort c x).loaded = s.loaded := rfl
@[simp] theorem setPort_journal : (s.setPort c x).journal = s.journal := rfl
@[simp] theorem setPort_remoteOut : (s.setPort c x).remoteOut = s.remoteOut := rfl
@[simp] theorem setPort_remoteIn : (s.setPort c x).remoteIn = s.remoteIn := rfl
@[simp] theorem setPort_physOut : (s.setPort c x).physOut = s.physOut := rfl
@[simp] theorem setPort_nacks : (s.setPort c x).nacks = s.nacks := rfl
@[simp] theorem setPort_hostWait : (s.setPort c x).hostWait = s.hostWait := rfl
@[simp] theorem setPort_peerWait : (s.setPort c x).peerWait = s.peerWait := rfl
@[simp] theorem setPort_nextGid : (s.setPort c x).nextGid = s.nextGid := rfl
@[simp] theorem setPort_nextCid : (s.setPort c x).nextCid = s.nextCid := rfl
@[simp] theorem setPort_nextPark : (s.setPort c x).nextPark = s.nextPark := rfl
@[simp] theorem setPort_saveBusy : (s.setPort c x).saveBusy = s.saveBusy := rfl
@[simp] theorem setPort_free : (s.setPort c x).free = s.free := rfl
@[simp] theorem setPort_cur : (s.setPort c x).cur = s.cur := rfl
@[simp] theorem setPort_agenda : (s.setPort c x).agenda = s.agenda := rfl
end
section
variable (s : State) (c : Nat) (x : HPort)
@[simp] theorem setHPort_variant : (s.setHPort c x).variant = s.variant := rfl
@[simp] theorem setHPort_silrev : (s.setHPort c x).silrev = s.silrev := rfl
@[simp] theorem setHPort_devno : (s.setHPort c x).devno = s.devno := rfl
@[simp] theorem setHPort_mem : (s.setHPort c x).mem = s.mem := rfl
@[simp] theorem setHPort_poison : (s.setHPort c x).poison = s.poison := rfl
@[simp] theorem setHPort_attrs : (s.setHPort c x).attrs = s.attrs := rfl
@[simp] theorem setHPort_sPages : (s.setHPort c x).sPages = s.sPages := rfl
@[simp] theorem setHPort_teams : (s.setHPort c x).teams = s.teams := rfl
@[simp] theorem setHPort_groups : (s.setHPort c x).groups = s.groups := rfl
@[simp] theorem setHPort_grids : (s.setHPort c x).grids = s.grids := rfl
@[simp] theorem setHPort_handed : (s.setHPort c x).handed = s.handed := rfl
@[simp] theorem setHPort_cores : (s.setHPort c x).cores = s.cores := rfl
@[simp] theorem setHPort_pairs : (s.setHPort c x).pairs = s.pairs := rfl
@[simp] theorem setHPort_dies : (s.setHPort c x).dies = s.dies := rfl
@[simp] theorem setHPort_dstacks : (s.setHPort c x).dstacks = s.dstacks := rfl
@[simp] theorem setHPort_ports : (s.setHPort c x).ports = s.ports := rfl
@[simp] theorem setHPort_queues : (s.setHPort c x).queues = s.queues := rfl
@[simp] theorem setHPort_rrTurn : (s.setHPort c x).rrTurn = s.rrTurn := rfl
@[simp] theorem setHPort_ctls : (s.setHPort c x).ctls = s.ctls := rfl
@[simp] theorem setHPort_chains : (s.setHPort c x).chains = s.chains := rfl
@[simp] theorem setHPort_sched : (s.setHPort c x).sched = s.sched := rfl
@[simp] theorem setHPort_lock : (s.setHPort c x).lock = s.lock := rfl
@[simp] theorem setHPort_tags : (s.setHPort c x).tags = s.tags := rfl
@[simp] theorem setHPort_faultWait : (s.setHPort c x).faultWait = s.faultWait := rfl
@[simp] theorem setHPort_tlb : (s.setHPort c x).tlb = s.tlb := rfl
@[simp] theorem setHPort_access : (s.setHPort c x).access = s.access := rfl
@[simp] theorem setHPort_pages : (s.setHPort c x).pages = s.pages := rfl
@[simp] theorem setHPort_borrowed : (s.setHPort c x).borrowed = s.borrowed := rfl
@[simp] theorem setHPort_proxy : (s.setHPort c x).proxy = s.proxy := rfl
@[simp] theorem setHPort_proxyLines : (s.setHPort c x).proxyLines = s.proxyLines := rfl
@[simp] theorem setHPort_proxyDirty : (s.setHPort c x).proxyDirty = s.proxyDirty := rfl
@[simp] theorem setHPort_hostLines : (s.setHPort c x).hostLines = s.hostLines := rfl
@[simp] theorem setHPort_hostDirty : (s.setHPort c x).hostDirty = s.hostDirty := rfl
@[simp] theorem setHPort_route : (s.setHPort c x).route = s.route := rfl
@[simp] theorem setHPort_rasHeld : (s.setHPort c x).rasHeld = s.rasHeld := rfl
@[simp] theorem setHPort_rasOpen : (s.setHPort c x).rasOpen = s.rasOpen := rfl
@[simp] theorem setHPort_telpair : (s.setHPort c x).telpair = s.telpair := rfl
@[simp] theorem setHPort_flash : (s.setHPort c x).flash = s.flash := rfl
@[simp] theorem setHPort_tdi : (s.setHPort c x).tdi = s.tdi := rfl
@[simp] theorem setHPort_shared : (s.setHPort c x).shared = s.shared := rfl
@[simp] theorem setHPort_ide : (s.setHPort c x).ide = s.ide := rfl
@[simp] theorem setHPort_spdm : (s.setHPort c x).spdm = s.spdm := rfl
@[simp] theorem setHPort_flr : (s.setHPort c x).flr = s.flr := rfl
@[simp] theorem setHPort_hostOut : (s.setHPort c x).hostOut = s.hostOut := rfl
@[simp] theorem setHPort_aer : (s.setHPort c x).aer = s.aer := rfl
@[simp] theorem setHPort_ringDown : (s.setHPort c x).ringDown = s.ringDown := rfl
@[simp] theorem setHPort_loaded : (s.setHPort c x).loaded = s.loaded := rfl
@[simp] theorem setHPort_journal : (s.setHPort c x).journal = s.journal := rfl
@[simp] theorem setHPort_remoteOut : (s.setHPort c x).remoteOut = s.remoteOut := rfl
@[simp] theorem setHPort_remoteIn : (s.setHPort c x).remoteIn = s.remoteIn := rfl
@[simp] theorem setHPort_physOut : (s.setHPort c x).physOut = s.physOut := rfl
@[simp] theorem setHPort_nacks : (s.setHPort c x).nacks = s.nacks := rfl
@[simp] theorem setHPort_hostWait : (s.setHPort c x).hostWait = s.hostWait := rfl
@[simp] theorem setHPort_peerWait : (s.setHPort c x).peerWait = s.peerWait := rfl
@[simp] theorem setHPort_nextGid : (s.setHPort c x).nextGid = s.nextGid := rfl
@[simp] theorem setHPort_nextCid : (s.setHPort c x).nextCid = s.nextCid := rfl
@[simp] theorem setHPort_nextPark : (s.setHPort c x).nextPark = s.nextPark := rfl
@[simp] theorem setHPort_saveBusy : (s.setHPort c x).saveBusy = s.saveBusy := rfl
@[simp] theorem setHPort_free : (s.setHPort c x).free = s.free := rfl
@[simp] theorem setHPort_cur : (s.setHPort c x).cur = s.cur := rfl
@[simp] theorem setHPort_agenda : (s.setHPort c x).agenda = s.agenda := rfl
end
section
variable (s : State) (c : Nat) (x : Queue)
@[simp] theorem setQueue_variant : (s.setQueue c x).variant = s.variant := rfl
@[simp] theorem setQueue_silrev : (s.setQueue c x).silrev = s.silrev := rfl
@[simp] theorem setQueue_devno : (s.setQueue c x).devno = s.devno := rfl
@[simp] theorem setQueue_mem : (s.setQueue c x).mem = s.mem := rfl
@[simp] theorem setQueue_poison : (s.setQueue c x).poison = s.poison := rfl
@[simp] theorem setQueue_attrs : (s.setQueue c x).attrs = s.attrs := rfl
@[simp] theorem setQueue_sPages : (s.setQueue c x).sPages = s.sPages := rfl
@[simp] theorem setQueue_teams : (s.setQueue c x).teams = s.teams := rfl
@[simp] theorem setQueue_groups : (s.setQueue c x).groups = s.groups := rfl
@[simp] theorem setQueue_grids : (s.setQueue c x).grids = s.grids := rfl
@[simp] theorem setQueue_handed : (s.setQueue c x).handed = s.handed := rfl
@[simp] theorem setQueue_cores : (s.setQueue c x).cores = s.cores := rfl
@[simp] theorem setQueue_pairs : (s.setQueue c x).pairs = s.pairs := rfl
@[simp] theorem setQueue_dies : (s.setQueue c x).dies = s.dies := rfl
@[simp] theorem setQueue_dstacks : (s.setQueue c x).dstacks = s.dstacks := rfl
@[simp] theorem setQueue_ports : (s.setQueue c x).ports = s.ports := rfl
@[simp] theorem setQueue_hports : (s.setQueue c x).hports = s.hports := rfl
@[simp] theorem setQueue_rrTurn : (s.setQueue c x).rrTurn = s.rrTurn := rfl
@[simp] theorem setQueue_ctls : (s.setQueue c x).ctls = s.ctls := rfl
@[simp] theorem setQueue_chains : (s.setQueue c x).chains = s.chains := rfl
@[simp] theorem setQueue_sched : (s.setQueue c x).sched = s.sched := rfl
@[simp] theorem setQueue_lock : (s.setQueue c x).lock = s.lock := rfl
@[simp] theorem setQueue_tags : (s.setQueue c x).tags = s.tags := rfl
@[simp] theorem setQueue_faultWait : (s.setQueue c x).faultWait = s.faultWait := rfl
@[simp] theorem setQueue_tlb : (s.setQueue c x).tlb = s.tlb := rfl
@[simp] theorem setQueue_access : (s.setQueue c x).access = s.access := rfl
@[simp] theorem setQueue_pages : (s.setQueue c x).pages = s.pages := rfl
@[simp] theorem setQueue_borrowed : (s.setQueue c x).borrowed = s.borrowed := rfl
@[simp] theorem setQueue_proxy : (s.setQueue c x).proxy = s.proxy := rfl
@[simp] theorem setQueue_proxyLines : (s.setQueue c x).proxyLines = s.proxyLines := rfl
@[simp] theorem setQueue_proxyDirty : (s.setQueue c x).proxyDirty = s.proxyDirty := rfl
@[simp] theorem setQueue_hostLines : (s.setQueue c x).hostLines = s.hostLines := rfl
@[simp] theorem setQueue_hostDirty : (s.setQueue c x).hostDirty = s.hostDirty := rfl
@[simp] theorem setQueue_route : (s.setQueue c x).route = s.route := rfl
@[simp] theorem setQueue_rasHeld : (s.setQueue c x).rasHeld = s.rasHeld := rfl
@[simp] theorem setQueue_rasOpen : (s.setQueue c x).rasOpen = s.rasOpen := rfl
@[simp] theorem setQueue_telpair : (s.setQueue c x).telpair = s.telpair := rfl
@[simp] theorem setQueue_flash : (s.setQueue c x).flash = s.flash := rfl
@[simp] theorem setQueue_tdi : (s.setQueue c x).tdi = s.tdi := rfl
@[simp] theorem setQueue_shared : (s.setQueue c x).shared = s.shared := rfl
@[simp] theorem setQueue_ide : (s.setQueue c x).ide = s.ide := rfl
@[simp] theorem setQueue_spdm : (s.setQueue c x).spdm = s.spdm := rfl
@[simp] theorem setQueue_flr : (s.setQueue c x).flr = s.flr := rfl
@[simp] theorem setQueue_hostOut : (s.setQueue c x).hostOut = s.hostOut := rfl
@[simp] theorem setQueue_aer : (s.setQueue c x).aer = s.aer := rfl
@[simp] theorem setQueue_ringDown : (s.setQueue c x).ringDown = s.ringDown := rfl
@[simp] theorem setQueue_loaded : (s.setQueue c x).loaded = s.loaded := rfl
@[simp] theorem setQueue_journal : (s.setQueue c x).journal = s.journal := rfl
@[simp] theorem setQueue_remoteOut : (s.setQueue c x).remoteOut = s.remoteOut := rfl
@[simp] theorem setQueue_remoteIn : (s.setQueue c x).remoteIn = s.remoteIn := rfl
@[simp] theorem setQueue_physOut : (s.setQueue c x).physOut = s.physOut := rfl
@[simp] theorem setQueue_nacks : (s.setQueue c x).nacks = s.nacks := rfl
@[simp] theorem setQueue_hostWait : (s.setQueue c x).hostWait = s.hostWait := rfl
@[simp] theorem setQueue_peerWait : (s.setQueue c x).peerWait = s.peerWait := rfl
@[simp] theorem setQueue_nextGid : (s.setQueue c x).nextGid = s.nextGid := rfl
@[simp] theorem setQueue_nextCid : (s.setQueue c x).nextCid = s.nextCid := rfl
@[simp] theorem setQueue_nextPark : (s.setQueue c x).nextPark = s.nextPark := rfl
@[simp] theorem setQueue_saveBusy : (s.setQueue c x).saveBusy = s.saveBusy := rfl
@[simp] theorem setQueue_free : (s.setQueue c x).free = s.free := rfl
@[simp] theorem setQueue_cur : (s.setQueue c x).cur = s.cur := rfl
@[simp] theorem setQueue_agenda : (s.setQueue c x).agenda = s.agenda := rfl
end
section
variable (s : State) (c : Nat) (x : Ctl)
@[simp] theorem setCtl_variant : (s.setCtl c x).variant = s.variant := rfl
@[simp] theorem setCtl_silrev : (s.setCtl c x).silrev = s.silrev := rfl
@[simp] theorem setCtl_devno : (s.setCtl c x).devno = s.devno := rfl
@[simp] theorem setCtl_mem : (s.setCtl c x).mem = s.mem := rfl
@[simp] theorem setCtl_poison : (s.setCtl c x).poison = s.poison := rfl
@[simp] theorem setCtl_attrs : (s.setCtl c x).attrs = s.attrs := rfl
@[simp] theorem setCtl_sPages : (s.setCtl c x).sPages = s.sPages := rfl
@[simp] theorem setCtl_teams : (s.setCtl c x).teams = s.teams := rfl
@[simp] theorem setCtl_groups : (s.setCtl c x).groups = s.groups := rfl
@[simp] theorem setCtl_grids : (s.setCtl c x).grids = s.grids := rfl
@[simp] theorem setCtl_handed : (s.setCtl c x).handed = s.handed := rfl
@[simp] theorem setCtl_cores : (s.setCtl c x).cores = s.cores := rfl
@[simp] theorem setCtl_pairs : (s.setCtl c x).pairs = s.pairs := rfl
@[simp] theorem setCtl_dies : (s.setCtl c x).dies = s.dies := rfl
@[simp] theorem setCtl_dstacks : (s.setCtl c x).dstacks = s.dstacks := rfl
@[simp] theorem setCtl_ports : (s.setCtl c x).ports = s.ports := rfl
@[simp] theorem setCtl_hports : (s.setCtl c x).hports = s.hports := rfl
@[simp] theorem setCtl_queues : (s.setCtl c x).queues = s.queues := rfl
@[simp] theorem setCtl_rrTurn : (s.setCtl c x).rrTurn = s.rrTurn := rfl
@[simp] theorem setCtl_chains : (s.setCtl c x).chains = s.chains := rfl
@[simp] theorem setCtl_sched : (s.setCtl c x).sched = s.sched := rfl
@[simp] theorem setCtl_lock : (s.setCtl c x).lock = s.lock := rfl
@[simp] theorem setCtl_tags : (s.setCtl c x).tags = s.tags := rfl
@[simp] theorem setCtl_faultWait : (s.setCtl c x).faultWait = s.faultWait := rfl
@[simp] theorem setCtl_tlb : (s.setCtl c x).tlb = s.tlb := rfl
@[simp] theorem setCtl_access : (s.setCtl c x).access = s.access := rfl
@[simp] theorem setCtl_pages : (s.setCtl c x).pages = s.pages := rfl
@[simp] theorem setCtl_borrowed : (s.setCtl c x).borrowed = s.borrowed := rfl
@[simp] theorem setCtl_proxy : (s.setCtl c x).proxy = s.proxy := rfl
@[simp] theorem setCtl_proxyLines : (s.setCtl c x).proxyLines = s.proxyLines := rfl
@[simp] theorem setCtl_proxyDirty : (s.setCtl c x).proxyDirty = s.proxyDirty := rfl
@[simp] theorem setCtl_hostLines : (s.setCtl c x).hostLines = s.hostLines := rfl
@[simp] theorem setCtl_hostDirty : (s.setCtl c x).hostDirty = s.hostDirty := rfl
@[simp] theorem setCtl_route : (s.setCtl c x).route = s.route := rfl
@[simp] theorem setCtl_rasHeld : (s.setCtl c x).rasHeld = s.rasHeld := rfl
@[simp] theorem setCtl_rasOpen : (s.setCtl c x).rasOpen = s.rasOpen := rfl
@[simp] theorem setCtl_telpair : (s.setCtl c x).telpair = s.telpair := rfl
@[simp] theorem setCtl_flash : (s.setCtl c x).flash = s.flash := rfl
@[simp] theorem setCtl_tdi : (s.setCtl c x).tdi = s.tdi := rfl
@[simp] theorem setCtl_shared : (s.setCtl c x).shared = s.shared := rfl
@[simp] theorem setCtl_ide : (s.setCtl c x).ide = s.ide := rfl
@[simp] theorem setCtl_spdm : (s.setCtl c x).spdm = s.spdm := rfl
@[simp] theorem setCtl_flr : (s.setCtl c x).flr = s.flr := rfl
@[simp] theorem setCtl_hostOut : (s.setCtl c x).hostOut = s.hostOut := rfl
@[simp] theorem setCtl_aer : (s.setCtl c x).aer = s.aer := rfl
@[simp] theorem setCtl_ringDown : (s.setCtl c x).ringDown = s.ringDown := rfl
@[simp] theorem setCtl_loaded : (s.setCtl c x).loaded = s.loaded := rfl
@[simp] theorem setCtl_journal : (s.setCtl c x).journal = s.journal := rfl
@[simp] theorem setCtl_remoteOut : (s.setCtl c x).remoteOut = s.remoteOut := rfl
@[simp] theorem setCtl_remoteIn : (s.setCtl c x).remoteIn = s.remoteIn := rfl
@[simp] theorem setCtl_physOut : (s.setCtl c x).physOut = s.physOut := rfl
@[simp] theorem setCtl_nacks : (s.setCtl c x).nacks = s.nacks := rfl
@[simp] theorem setCtl_hostWait : (s.setCtl c x).hostWait = s.hostWait := rfl
@[simp] theorem setCtl_peerWait : (s.setCtl c x).peerWait = s.peerWait := rfl
@[simp] theorem setCtl_nextGid : (s.setCtl c x).nextGid = s.nextGid := rfl
@[simp] theorem setCtl_nextCid : (s.setCtl c x).nextCid = s.nextCid := rfl
@[simp] theorem setCtl_nextPark : (s.setCtl c x).nextPark = s.nextPark := rfl
@[simp] theorem setCtl_saveBusy : (s.setCtl c x).saveBusy = s.saveBusy := rfl
@[simp] theorem setCtl_free : (s.setCtl c x).free = s.free := rfl
@[simp] theorem setCtl_cur : (s.setCtl c x).cur = s.cur := rfl
@[simp] theorem setCtl_agenda : (s.setCtl c x).agenda = s.agenda := rfl
end
section
variable (s : State) (g : Group)
@[simp] theorem setGroup_variant : (s.setGroup g).variant = s.variant := rfl
@[simp] theorem setGroup_silrev : (s.setGroup g).silrev = s.silrev := rfl
@[simp] theorem setGroup_devno : (s.setGroup g).devno = s.devno := rfl
@[simp] theorem setGroup_mem : (s.setGroup g).mem = s.mem := rfl
@[simp] theorem setGroup_poison : (s.setGroup g).poison = s.poison := rfl
@[simp] theorem setGroup_attrs : (s.setGroup g).attrs = s.attrs := rfl
@[simp] theorem setGroup_sPages : (s.setGroup g).sPages = s.sPages := rfl
@[simp] theorem setGroup_teams : (s.setGroup g).teams = s.teams := rfl
@[simp] theorem setGroup_grids : (s.setGroup g).grids = s.grids := rfl
@[simp] theorem setGroup_handed : (s.setGroup g).handed = s.handed := rfl
@[simp] theorem setGroup_cores : (s.setGroup g).cores = s.cores := rfl
@[simp] theorem setGroup_pairs : (s.setGroup g).pairs = s.pairs := rfl
@[simp] theorem setGroup_dies : (s.setGroup g).dies = s.dies := rfl
@[simp] theorem setGroup_dstacks : (s.setGroup g).dstacks = s.dstacks := rfl
@[simp] theorem setGroup_ports : (s.setGroup g).ports = s.ports := rfl
@[simp] theorem setGroup_hports : (s.setGroup g).hports = s.hports := rfl
@[simp] theorem setGroup_queues : (s.setGroup g).queues = s.queues := rfl
@[simp] theorem setGroup_rrTurn : (s.setGroup g).rrTurn = s.rrTurn := rfl
@[simp] theorem setGroup_ctls : (s.setGroup g).ctls = s.ctls := rfl
@[simp] theorem setGroup_chains : (s.setGroup g).chains = s.chains := rfl
@[simp] theorem setGroup_sched : (s.setGroup g).sched = s.sched := rfl
@[simp] theorem setGroup_lock : (s.setGroup g).lock = s.lock := rfl
@[simp] theorem setGroup_tags : (s.setGroup g).tags = s.tags := rfl
@[simp] theorem setGroup_faultWait : (s.setGroup g).faultWait = s.faultWait := rfl
@[simp] theorem setGroup_tlb : (s.setGroup g).tlb = s.tlb := rfl
@[simp] theorem setGroup_access : (s.setGroup g).access = s.access := rfl
@[simp] theorem setGroup_pages : (s.setGroup g).pages = s.pages := rfl
@[simp] theorem setGroup_borrowed : (s.setGroup g).borrowed = s.borrowed := rfl
@[simp] theorem setGroup_proxy : (s.setGroup g).proxy = s.proxy := rfl
@[simp] theorem setGroup_proxyLines : (s.setGroup g).proxyLines = s.proxyLines := rfl
@[simp] theorem setGroup_proxyDirty : (s.setGroup g).proxyDirty = s.proxyDirty := rfl
@[simp] theorem setGroup_hostLines : (s.setGroup g).hostLines = s.hostLines := rfl
@[simp] theorem setGroup_hostDirty : (s.setGroup g).hostDirty = s.hostDirty := rfl
@[simp] theorem setGroup_route : (s.setGroup g).route = s.route := rfl
@[simp] theorem setGroup_rasHeld : (s.setGroup g).rasHeld = s.rasHeld := rfl
@[simp] theorem setGroup_rasOpen : (s.setGroup g).rasOpen = s.rasOpen := rfl
@[simp] theorem setGroup_telpair : (s.setGroup g).telpair = s.telpair := rfl
@[simp] theorem setGroup_flash : (s.setGroup g).flash = s.flash := rfl
@[simp] theorem setGroup_tdi : (s.setGroup g).tdi = s.tdi := rfl
@[simp] theorem setGroup_shared : (s.setGroup g).shared = s.shared := rfl
@[simp] theorem setGroup_ide : (s.setGroup g).ide = s.ide := rfl
@[simp] theorem setGroup_spdm : (s.setGroup g).spdm = s.spdm := rfl
@[simp] theorem setGroup_flr : (s.setGroup g).flr = s.flr := rfl
@[simp] theorem setGroup_hostOut : (s.setGroup g).hostOut = s.hostOut := rfl
@[simp] theorem setGroup_aer : (s.setGroup g).aer = s.aer := rfl
@[simp] theorem setGroup_ringDown : (s.setGroup g).ringDown = s.ringDown := rfl
@[simp] theorem setGroup_loaded : (s.setGroup g).loaded = s.loaded := rfl
@[simp] theorem setGroup_journal : (s.setGroup g).journal = s.journal := rfl
@[simp] theorem setGroup_remoteOut : (s.setGroup g).remoteOut = s.remoteOut := rfl
@[simp] theorem setGroup_remoteIn : (s.setGroup g).remoteIn = s.remoteIn := rfl
@[simp] theorem setGroup_physOut : (s.setGroup g).physOut = s.physOut := rfl
@[simp] theorem setGroup_nacks : (s.setGroup g).nacks = s.nacks := rfl
@[simp] theorem setGroup_hostWait : (s.setGroup g).hostWait = s.hostWait := rfl
@[simp] theorem setGroup_peerWait : (s.setGroup g).peerWait = s.peerWait := rfl
@[simp] theorem setGroup_nextGid : (s.setGroup g).nextGid = s.nextGid := rfl
@[simp] theorem setGroup_nextCid : (s.setGroup g).nextCid = s.nextCid := rfl
@[simp] theorem setGroup_nextPark : (s.setGroup g).nextPark = s.nextPark := rfl
@[simp] theorem setGroup_saveBusy : (s.setGroup g).saveBusy = s.saveBusy := rfl
@[simp] theorem setGroup_free : (s.setGroup g).free = s.free := rfl
@[simp] theorem setGroup_cur : (s.setGroup g).cur = s.cur := rfl
@[simp] theorem setGroup_agenda : (s.setGroup g).agenda = s.agenda := rfl
end
section
variable (s : State) (g : Grid)
@[simp] theorem setGrid_variant : (s.setGrid g).variant = s.variant := rfl
@[simp] theorem setGrid_silrev : (s.setGrid g).silrev = s.silrev := rfl
@[simp] theorem setGrid_devno : (s.setGrid g).devno = s.devno := rfl
@[simp] theorem setGrid_mem : (s.setGrid g).mem = s.mem := rfl
@[simp] theorem setGrid_poison : (s.setGrid g).poison = s.poison := rfl
@[simp] theorem setGrid_attrs : (s.setGrid g).attrs = s.attrs := rfl
@[simp] theorem setGrid_sPages : (s.setGrid g).sPages = s.sPages := rfl
@[simp] theorem setGrid_teams : (s.setGrid g).teams = s.teams := rfl
@[simp] theorem setGrid_groups : (s.setGrid g).groups = s.groups := rfl
@[simp] theorem setGrid_handed : (s.setGrid g).handed = s.handed := rfl
@[simp] theorem setGrid_cores : (s.setGrid g).cores = s.cores := rfl
@[simp] theorem setGrid_pairs : (s.setGrid g).pairs = s.pairs := rfl
@[simp] theorem setGrid_dies : (s.setGrid g).dies = s.dies := rfl
@[simp] theorem setGrid_dstacks : (s.setGrid g).dstacks = s.dstacks := rfl
@[simp] theorem setGrid_ports : (s.setGrid g).ports = s.ports := rfl
@[simp] theorem setGrid_hports : (s.setGrid g).hports = s.hports := rfl
@[simp] theorem setGrid_queues : (s.setGrid g).queues = s.queues := rfl
@[simp] theorem setGrid_rrTurn : (s.setGrid g).rrTurn = s.rrTurn := rfl
@[simp] theorem setGrid_ctls : (s.setGrid g).ctls = s.ctls := rfl
@[simp] theorem setGrid_chains : (s.setGrid g).chains = s.chains := rfl
@[simp] theorem setGrid_sched : (s.setGrid g).sched = s.sched := rfl
@[simp] theorem setGrid_lock : (s.setGrid g).lock = s.lock := rfl
@[simp] theorem setGrid_tags : (s.setGrid g).tags = s.tags := rfl
@[simp] theorem setGrid_faultWait : (s.setGrid g).faultWait = s.faultWait := rfl
@[simp] theorem setGrid_tlb : (s.setGrid g).tlb = s.tlb := rfl
@[simp] theorem setGrid_access : (s.setGrid g).access = s.access := rfl
@[simp] theorem setGrid_pages : (s.setGrid g).pages = s.pages := rfl
@[simp] theorem setGrid_borrowed : (s.setGrid g).borrowed = s.borrowed := rfl
@[simp] theorem setGrid_proxy : (s.setGrid g).proxy = s.proxy := rfl
@[simp] theorem setGrid_proxyLines : (s.setGrid g).proxyLines = s.proxyLines := rfl
@[simp] theorem setGrid_proxyDirty : (s.setGrid g).proxyDirty = s.proxyDirty := rfl
@[simp] theorem setGrid_hostLines : (s.setGrid g).hostLines = s.hostLines := rfl
@[simp] theorem setGrid_hostDirty : (s.setGrid g).hostDirty = s.hostDirty := rfl
@[simp] theorem setGrid_route : (s.setGrid g).route = s.route := rfl
@[simp] theorem setGrid_rasHeld : (s.setGrid g).rasHeld = s.rasHeld := rfl
@[simp] theorem setGrid_rasOpen : (s.setGrid g).rasOpen = s.rasOpen := rfl
@[simp] theorem setGrid_telpair : (s.setGrid g).telpair = s.telpair := rfl
@[simp] theorem setGrid_flash : (s.setGrid g).flash = s.flash := rfl
@[simp] theorem setGrid_tdi : (s.setGrid g).tdi = s.tdi := rfl
@[simp] theorem setGrid_shared : (s.setGrid g).shared = s.shared := rfl
@[simp] theorem setGrid_ide : (s.setGrid g).ide = s.ide := rfl
@[simp] theorem setGrid_spdm : (s.setGrid g).spdm = s.spdm := rfl
@[simp] theorem setGrid_flr : (s.setGrid g).flr = s.flr := rfl
@[simp] theorem setGrid_hostOut : (s.setGrid g).hostOut = s.hostOut := rfl
@[simp] theorem setGrid_aer : (s.setGrid g).aer = s.aer := rfl
@[simp] theorem setGrid_ringDown : (s.setGrid g).ringDown = s.ringDown := rfl
@[simp] theorem setGrid_loaded : (s.setGrid g).loaded = s.loaded := rfl
@[simp] theorem setGrid_journal : (s.setGrid g).journal = s.journal := rfl
@[simp] theorem setGrid_remoteOut : (s.setGrid g).remoteOut = s.remoteOut := rfl
@[simp] theorem setGrid_remoteIn : (s.setGrid g).remoteIn = s.remoteIn := rfl
@[simp] theorem setGrid_physOut : (s.setGrid g).physOut = s.physOut := rfl
@[simp] theorem setGrid_nacks : (s.setGrid g).nacks = s.nacks := rfl
@[simp] theorem setGrid_hostWait : (s.setGrid g).hostWait = s.hostWait := rfl
@[simp] theorem setGrid_peerWait : (s.setGrid g).peerWait = s.peerWait := rfl
@[simp] theorem setGrid_nextGid : (s.setGrid g).nextGid = s.nextGid := rfl
@[simp] theorem setGrid_nextCid : (s.setGrid g).nextCid = s.nextCid := rfl
@[simp] theorem setGrid_nextPark : (s.setGrid g).nextPark = s.nextPark := rfl
@[simp] theorem setGrid_saveBusy : (s.setGrid g).saveBusy = s.saveBusy := rfl
@[simp] theorem setGrid_free : (s.setGrid g).free = s.free := rfl
@[simp] theorem setGrid_cur : (s.setGrid g).cur = s.cur := rfl
@[simp] theorem setGrid_agenda : (s.setGrid g).agenda = s.agenda := rfl
end
section
variable (s : State) (c : Chain)
@[simp] theorem setChain_variant : (s.setChain c).variant = s.variant := rfl
@[simp] theorem setChain_silrev : (s.setChain c).silrev = s.silrev := rfl
@[simp] theorem setChain_devno : (s.setChain c).devno = s.devno := rfl
@[simp] theorem setChain_mem : (s.setChain c).mem = s.mem := rfl
@[simp] theorem setChain_poison : (s.setChain c).poison = s.poison := rfl
@[simp] theorem setChain_attrs : (s.setChain c).attrs = s.attrs := rfl
@[simp] theorem setChain_sPages : (s.setChain c).sPages = s.sPages := rfl
@[simp] theorem setChain_teams : (s.setChain c).teams = s.teams := rfl
@[simp] theorem setChain_groups : (s.setChain c).groups = s.groups := rfl
@[simp] theorem setChain_grids : (s.setChain c).grids = s.grids := rfl
@[simp] theorem setChain_handed : (s.setChain c).handed = s.handed := rfl
@[simp] theorem setChain_cores : (s.setChain c).cores = s.cores := rfl
@[simp] theorem setChain_pairs : (s.setChain c).pairs = s.pairs := rfl
@[simp] theorem setChain_dies : (s.setChain c).dies = s.dies := rfl
@[simp] theorem setChain_dstacks : (s.setChain c).dstacks = s.dstacks := rfl
@[simp] theorem setChain_ports : (s.setChain c).ports = s.ports := rfl
@[simp] theorem setChain_hports : (s.setChain c).hports = s.hports := rfl
@[simp] theorem setChain_queues : (s.setChain c).queues = s.queues := rfl
@[simp] theorem setChain_rrTurn : (s.setChain c).rrTurn = s.rrTurn := rfl
@[simp] theorem setChain_ctls : (s.setChain c).ctls = s.ctls := rfl
@[simp] theorem setChain_sched : (s.setChain c).sched = s.sched := rfl
@[simp] theorem setChain_lock : (s.setChain c).lock = s.lock := rfl
@[simp] theorem setChain_tags : (s.setChain c).tags = s.tags := rfl
@[simp] theorem setChain_faultWait : (s.setChain c).faultWait = s.faultWait := rfl
@[simp] theorem setChain_tlb : (s.setChain c).tlb = s.tlb := rfl
@[simp] theorem setChain_access : (s.setChain c).access = s.access := rfl
@[simp] theorem setChain_pages : (s.setChain c).pages = s.pages := rfl
@[simp] theorem setChain_borrowed : (s.setChain c).borrowed = s.borrowed := rfl
@[simp] theorem setChain_proxy : (s.setChain c).proxy = s.proxy := rfl
@[simp] theorem setChain_proxyLines : (s.setChain c).proxyLines = s.proxyLines := rfl
@[simp] theorem setChain_proxyDirty : (s.setChain c).proxyDirty = s.proxyDirty := rfl
@[simp] theorem setChain_hostLines : (s.setChain c).hostLines = s.hostLines := rfl
@[simp] theorem setChain_hostDirty : (s.setChain c).hostDirty = s.hostDirty := rfl
@[simp] theorem setChain_route : (s.setChain c).route = s.route := rfl
@[simp] theorem setChain_rasHeld : (s.setChain c).rasHeld = s.rasHeld := rfl
@[simp] theorem setChain_rasOpen : (s.setChain c).rasOpen = s.rasOpen := rfl
@[simp] theorem setChain_telpair : (s.setChain c).telpair = s.telpair := rfl
@[simp] theorem setChain_flash : (s.setChain c).flash = s.flash := rfl
@[simp] theorem setChain_tdi : (s.setChain c).tdi = s.tdi := rfl
@[simp] theorem setChain_shared : (s.setChain c).shared = s.shared := rfl
@[simp] theorem setChain_ide : (s.setChain c).ide = s.ide := rfl
@[simp] theorem setChain_spdm : (s.setChain c).spdm = s.spdm := rfl
@[simp] theorem setChain_flr : (s.setChain c).flr = s.flr := rfl
@[simp] theorem setChain_hostOut : (s.setChain c).hostOut = s.hostOut := rfl
@[simp] theorem setChain_aer : (s.setChain c).aer = s.aer := rfl
@[simp] theorem setChain_ringDown : (s.setChain c).ringDown = s.ringDown := rfl
@[simp] theorem setChain_loaded : (s.setChain c).loaded = s.loaded := rfl
@[simp] theorem setChain_journal : (s.setChain c).journal = s.journal := rfl
@[simp] theorem setChain_remoteOut : (s.setChain c).remoteOut = s.remoteOut := rfl
@[simp] theorem setChain_remoteIn : (s.setChain c).remoteIn = s.remoteIn := rfl
@[simp] theorem setChain_physOut : (s.setChain c).physOut = s.physOut := rfl
@[simp] theorem setChain_nacks : (s.setChain c).nacks = s.nacks := rfl
@[simp] theorem setChain_hostWait : (s.setChain c).hostWait = s.hostWait := rfl
@[simp] theorem setChain_peerWait : (s.setChain c).peerWait = s.peerWait := rfl
@[simp] theorem setChain_nextGid : (s.setChain c).nextGid = s.nextGid := rfl
@[simp] theorem setChain_nextCid : (s.setChain c).nextCid = s.nextCid := rfl
@[simp] theorem setChain_nextPark : (s.setChain c).nextPark = s.nextPark := rfl
@[simp] theorem setChain_saveBusy : (s.setChain c).saveBusy = s.saveBusy := rfl
@[simp] theorem setChain_free : (s.setChain c).free = s.free := rfl
@[simp] theorem setChain_cur : (s.setChain c).cur = s.cur := rfl
@[simp] theorem setChain_agenda : (s.setChain c).agenda = s.agenda := rfl
end
section
variable (s : State) (p : Nat) (e : PageEntry)
@[simp] theorem setPageEntry_variant : (s.setPageEntry p e).variant = s.variant := rfl
@[simp] theorem setPageEntry_silrev : (s.setPageEntry p e).silrev = s.silrev := rfl
@[simp] theorem setPageEntry_devno : (s.setPageEntry p e).devno = s.devno := rfl
@[simp] theorem setPageEntry_mem : (s.setPageEntry p e).mem = s.mem := rfl
@[simp] theorem setPageEntry_poison : (s.setPageEntry p e).poison = s.poison := rfl
@[simp] theorem setPageEntry_attrs : (s.setPageEntry p e).attrs = s.attrs := rfl
@[simp] theorem setPageEntry_sPages : (s.setPageEntry p e).sPages = s.sPages := rfl
@[simp] theorem setPageEntry_teams : (s.setPageEntry p e).teams = s.teams := rfl
@[simp] theorem setPageEntry_groups : (s.setPageEntry p e).groups = s.groups := rfl
@[simp] theorem setPageEntry_grids : (s.setPageEntry p e).grids = s.grids := rfl
@[simp] theorem setPageEntry_handed : (s.setPageEntry p e).handed = s.handed := rfl
@[simp] theorem setPageEntry_cores : (s.setPageEntry p e).cores = s.cores := rfl
@[simp] theorem setPageEntry_pairs : (s.setPageEntry p e).pairs = s.pairs := rfl
@[simp] theorem setPageEntry_dies : (s.setPageEntry p e).dies = s.dies := rfl
@[simp] theorem setPageEntry_dstacks : (s.setPageEntry p e).dstacks = s.dstacks := rfl
@[simp] theorem setPageEntry_ports : (s.setPageEntry p e).ports = s.ports := rfl
@[simp] theorem setPageEntry_hports : (s.setPageEntry p e).hports = s.hports := rfl
@[simp] theorem setPageEntry_queues : (s.setPageEntry p e).queues = s.queues := rfl
@[simp] theorem setPageEntry_rrTurn : (s.setPageEntry p e).rrTurn = s.rrTurn := rfl
@[simp] theorem setPageEntry_ctls : (s.setPageEntry p e).ctls = s.ctls := rfl
@[simp] theorem setPageEntry_chains : (s.setPageEntry p e).chains = s.chains := rfl
@[simp] theorem setPageEntry_sched : (s.setPageEntry p e).sched = s.sched := rfl
@[simp] theorem setPageEntry_lock : (s.setPageEntry p e).lock = s.lock := rfl
@[simp] theorem setPageEntry_tags : (s.setPageEntry p e).tags = s.tags := rfl
@[simp] theorem setPageEntry_faultWait : (s.setPageEntry p e).faultWait = s.faultWait := rfl
@[simp] theorem setPageEntry_tlb : (s.setPageEntry p e).tlb = s.tlb := rfl
@[simp] theorem setPageEntry_access : (s.setPageEntry p e).access = s.access := rfl
@[simp] theorem setPageEntry_borrowed : (s.setPageEntry p e).borrowed = s.borrowed := rfl
@[simp] theorem setPageEntry_proxy : (s.setPageEntry p e).proxy = s.proxy := rfl
@[simp] theorem setPageEntry_proxyLines : (s.setPageEntry p e).proxyLines = s.proxyLines := rfl
@[simp] theorem setPageEntry_proxyDirty : (s.setPageEntry p e).proxyDirty = s.proxyDirty := rfl
@[simp] theorem setPageEntry_hostLines : (s.setPageEntry p e).hostLines = s.hostLines := rfl
@[simp] theorem setPageEntry_hostDirty : (s.setPageEntry p e).hostDirty = s.hostDirty := rfl
@[simp] theorem setPageEntry_route : (s.setPageEntry p e).route = s.route := rfl
@[simp] theorem setPageEntry_rasHeld : (s.setPageEntry p e).rasHeld = s.rasHeld := rfl
@[simp] theorem setPageEntry_rasOpen : (s.setPageEntry p e).rasOpen = s.rasOpen := rfl
@[simp] theorem setPageEntry_telpair : (s.setPageEntry p e).telpair = s.telpair := rfl
@[simp] theorem setPageEntry_flash : (s.setPageEntry p e).flash = s.flash := rfl
@[simp] theorem setPageEntry_tdi : (s.setPageEntry p e).tdi = s.tdi := rfl
@[simp] theorem setPageEntry_shared : (s.setPageEntry p e).shared = s.shared := rfl
@[simp] theorem setPageEntry_ide : (s.setPageEntry p e).ide = s.ide := rfl
@[simp] theorem setPageEntry_spdm : (s.setPageEntry p e).spdm = s.spdm := rfl
@[simp] theorem setPageEntry_flr : (s.setPageEntry p e).flr = s.flr := rfl
@[simp] theorem setPageEntry_hostOut : (s.setPageEntry p e).hostOut = s.hostOut := rfl
@[simp] theorem setPageEntry_aer : (s.setPageEntry p e).aer = s.aer := rfl
@[simp] theorem setPageEntry_ringDown : (s.setPageEntry p e).ringDown = s.ringDown := rfl
@[simp] theorem setPageEntry_loaded : (s.setPageEntry p e).loaded = s.loaded := rfl
@[simp] theorem setPageEntry_journal : (s.setPageEntry p e).journal = s.journal := rfl
@[simp] theorem setPageEntry_remoteOut : (s.setPageEntry p e).remoteOut = s.remoteOut := rfl
@[simp] theorem setPageEntry_remoteIn : (s.setPageEntry p e).remoteIn = s.remoteIn := rfl
@[simp] theorem setPageEntry_physOut : (s.setPageEntry p e).physOut = s.physOut := rfl
@[simp] theorem setPageEntry_nacks : (s.setPageEntry p e).nacks = s.nacks := rfl
@[simp] theorem setPageEntry_hostWait : (s.setPageEntry p e).hostWait = s.hostWait := rfl
@[simp] theorem setPageEntry_peerWait : (s.setPageEntry p e).peerWait = s.peerWait := rfl
@[simp] theorem setPageEntry_nextGid : (s.setPageEntry p e).nextGid = s.nextGid := rfl
@[simp] theorem setPageEntry_nextCid : (s.setPageEntry p e).nextCid = s.nextCid := rfl
@[simp] theorem setPageEntry_nextPark : (s.setPageEntry p e).nextPark = s.nextPark := rfl
@[simp] theorem setPageEntry_saveBusy : (s.setPageEntry p e).saveBusy = s.saveBusy := rfl
@[simp] theorem setPageEntry_free : (s.setPageEntry p e).free = s.free := rfl
@[simp] theorem setPageEntry_cur : (s.setPageEntry p e).cur = s.cur := rfl
@[simp] theorem setPageEntry_agenda : (s.setPageEntry p e).agenda = s.agenda := rfl
end
section
variable (s : State)
@[simp] theorem drawFree_variant : (s.drawFree).variant = s.variant := rfl
@[simp] theorem drawFree_silrev : (s.drawFree).silrev = s.silrev := rfl
@[simp] theorem drawFree_devno : (s.drawFree).devno = s.devno := rfl
@[simp] theorem drawFree_mem : (s.drawFree).mem = s.mem := rfl
@[simp] theorem drawFree_poison : (s.drawFree).poison = s.poison := rfl
@[simp] theorem drawFree_attrs : (s.drawFree).attrs = s.attrs := rfl
@[simp] theorem drawFree_sPages : (s.drawFree).sPages = s.sPages := rfl
@[simp] theorem drawFree_teams : (s.drawFree).teams = s.teams := rfl
@[simp] theorem drawFree_groups : (s.drawFree).groups = s.groups := rfl
@[simp] theorem drawFree_grids : (s.drawFree).grids = s.grids := rfl
@[simp] theorem drawFree_handed : (s.drawFree).handed = s.handed := rfl
@[simp] theorem drawFree_cores : (s.drawFree).cores = s.cores := rfl
@[simp] theorem drawFree_pairs : (s.drawFree).pairs = s.pairs := rfl
@[simp] theorem drawFree_dies : (s.drawFree).dies = s.dies := rfl
@[simp] theorem drawFree_dstacks : (s.drawFree).dstacks = s.dstacks := rfl
@[simp] theorem drawFree_ports : (s.drawFree).ports = s.ports := rfl
@[simp] theorem drawFree_hports : (s.drawFree).hports = s.hports := rfl
@[simp] theorem drawFree_queues : (s.drawFree).queues = s.queues := rfl
@[simp] theorem drawFree_rrTurn : (s.drawFree).rrTurn = s.rrTurn := rfl
@[simp] theorem drawFree_ctls : (s.drawFree).ctls = s.ctls := rfl
@[simp] theorem drawFree_chains : (s.drawFree).chains = s.chains := rfl
@[simp] theorem drawFree_sched : (s.drawFree).sched = s.sched := rfl
@[simp] theorem drawFree_lock : (s.drawFree).lock = s.lock := rfl
@[simp] theorem drawFree_tags : (s.drawFree).tags = s.tags := rfl
@[simp] theorem drawFree_faultWait : (s.drawFree).faultWait = s.faultWait := rfl
@[simp] theorem drawFree_tlb : (s.drawFree).tlb = s.tlb := rfl
@[simp] theorem drawFree_access : (s.drawFree).access = s.access := rfl
@[simp] theorem drawFree_pages : (s.drawFree).pages = s.pages := rfl
@[simp] theorem drawFree_borrowed : (s.drawFree).borrowed = s.borrowed := rfl
@[simp] theorem drawFree_proxy : (s.drawFree).proxy = s.proxy := rfl
@[simp] theorem drawFree_proxyLines : (s.drawFree).proxyLines = s.proxyLines := rfl
@[simp] theorem drawFree_proxyDirty : (s.drawFree).proxyDirty = s.proxyDirty := rfl
@[simp] theorem drawFree_hostLines : (s.drawFree).hostLines = s.hostLines := rfl
@[simp] theorem drawFree_hostDirty : (s.drawFree).hostDirty = s.hostDirty := rfl
@[simp] theorem drawFree_route : (s.drawFree).route = s.route := rfl
@[simp] theorem drawFree_rasHeld : (s.drawFree).rasHeld = s.rasHeld := rfl
@[simp] theorem drawFree_rasOpen : (s.drawFree).rasOpen = s.rasOpen := rfl
@[simp] theorem drawFree_telpair : (s.drawFree).telpair = s.telpair := rfl
@[simp] theorem drawFree_flash : (s.drawFree).flash = s.flash := rfl
@[simp] theorem drawFree_tdi : (s.drawFree).tdi = s.tdi := rfl
@[simp] theorem drawFree_shared : (s.drawFree).shared = s.shared := rfl
@[simp] theorem drawFree_ide : (s.drawFree).ide = s.ide := rfl
@[simp] theorem drawFree_spdm : (s.drawFree).spdm = s.spdm := rfl
@[simp] theorem drawFree_flr : (s.drawFree).flr = s.flr := rfl
@[simp] theorem drawFree_hostOut : (s.drawFree).hostOut = s.hostOut := rfl
@[simp] theorem drawFree_aer : (s.drawFree).aer = s.aer := rfl
@[simp] theorem drawFree_ringDown : (s.drawFree).ringDown = s.ringDown := rfl
@[simp] theorem drawFree_loaded : (s.drawFree).loaded = s.loaded := rfl
@[simp] theorem drawFree_journal : (s.drawFree).journal = s.journal := rfl
@[simp] theorem drawFree_remoteOut : (s.drawFree).remoteOut = s.remoteOut := rfl
@[simp] theorem drawFree_remoteIn : (s.drawFree).remoteIn = s.remoteIn := rfl
@[simp] theorem drawFree_physOut : (s.drawFree).physOut = s.physOut := rfl
@[simp] theorem drawFree_nacks : (s.drawFree).nacks = s.nacks := rfl
@[simp] theorem drawFree_hostWait : (s.drawFree).hostWait = s.hostWait := rfl
@[simp] theorem drawFree_peerWait : (s.drawFree).peerWait = s.peerWait := rfl
@[simp] theorem drawFree_nextGid : (s.drawFree).nextGid = s.nextGid := rfl
@[simp] theorem drawFree_nextCid : (s.drawFree).nextCid = s.nextCid := rfl
@[simp] theorem drawFree_nextPark : (s.drawFree).nextPark = s.nextPark := rfl
@[simp] theorem drawFree_saveBusy : (s.drawFree).saveBusy = s.saveBusy := rfl
@[simp] theorem drawFree_cur : (s.drawFree).cur = s.cur := rfl
@[simp] theorem drawFree_agenda : (s.drawFree).agenda = s.agenda := rfl
end
section
variable (s : State) (k : Nat) (f : Group → Group)
@[simp] theorem modGroup_variant : (s.modGroup k f).variant = s.variant := by unfold modGroup; split <;> rfl
@[simp] theorem modGroup_silrev : (s.modGroup k f).silrev = s.silrev := by unfold modGroup; split <;> rfl
@[simp] theorem modGroup_devno : (s.modGroup k f).devno = s.devno := by unfold modGroup; split <;> rfl
@[simp] theorem modGroup_mem : (s.modGroup k f).mem = s.mem := by unfold modGroup; split <;> rfl
@[simp] theorem modGroup_poison : (s.modGroup k f).poison = s.poison := by unfold modGroup; split <;> rfl
@[simp] theorem modGroup_attrs : (s.modGroup k f).attrs = s.attrs := by unfold modGroup; split <;> rfl
@[simp] theorem modGroup_sPages : (s.modGroup k f).sPages = s.sPages := by unfold modGroup; split <;> rfl
@[simp] theorem modGroup_teams : (s.modGroup k f).teams = s.teams := by unfold modGroup; split <;> rfl
@[simp] theorem modGroup_grids : (s.modGroup k f).grids = s.grids := by unfold modGroup; split <;> rfl
@[simp] theorem modGroup_handed : (s.modGroup k f).handed = s.handed := by unfold modGroup; split <;> rfl
@[simp] theorem modGroup_cores : (s.modGroup k f).cores = s.cores := by unfold modGroup; split <;> rfl
@[simp] theorem modGroup_pairs : (s.modGroup k f).pairs = s.pairs := by unfold modGroup; split <;> rfl
@[simp] theorem modGroup_dies : (s.modGroup k f).dies = s.dies := by unfold modGroup; split <;> rfl
@[simp] theorem modGroup_dstacks : (s.modGroup k f).dstacks = s.dstacks := by unfold modGroup; split <;> rfl
@[simp] theorem modGroup_ports : (s.modGroup k f).ports = s.ports := by unfold modGroup; split <;> rfl
@[simp] theorem modGroup_hports : (s.modGroup k f).hports = s.hports := by unfold modGroup; split <;> rfl
@[simp] theorem modGroup_queues : (s.modGroup k f).queues = s.queues := by unfold modGroup; split <;> rfl
@[simp] theorem modGroup_rrTurn : (s.modGroup k f).rrTurn = s.rrTurn := by unfold modGroup; split <;> rfl
@[simp] theorem modGroup_ctls : (s.modGroup k f).ctls = s.ctls := by unfold modGroup; split <;> rfl
@[simp] theorem modGroup_chains : (s.modGroup k f).chains = s.chains := by unfold modGroup; split <;> rfl
@[simp] theorem modGroup_sched : (s.modGroup k f).sched = s.sched := by unfold modGroup; split <;> rfl
@[simp] theorem modGroup_lock : (s.modGroup k f).lock = s.lock := by unfold modGroup; split <;> rfl
@[simp] theorem modGroup_tags : (s.modGroup k f).tags = s.tags := by unfold modGroup; split <;> rfl
@[simp] theorem modGroup_faultWait : (s.modGroup k f).faultWait = s.faultWait := by unfold modGroup; split <;> rfl
@[simp] theorem modGroup_tlb : (s.modGroup k f).tlb = s.tlb := by unfold modGroup; split <;> rfl
@[simp] theorem modGroup_access : (s.modGroup k f).access = s.access := by unfold modGroup; split <;> rfl
@[simp] theorem modGroup_pages : (s.modGroup k f).pages = s.pages := by unfold modGroup; split <;> rfl
@[simp] theorem modGroup_borrowed : (s.modGroup k f).borrowed = s.borrowed := by unfold modGroup; split <;> rfl
@[simp] theorem modGroup_proxy : (s.modGroup k f).proxy = s.proxy := by unfold modGroup; split <;> rfl
@[simp] theorem modGroup_proxyLines : (s.modGroup k f).proxyLines = s.proxyLines := by unfold modGroup; split <;> rfl
@[simp] theorem modGroup_proxyDirty : (s.modGroup k f).proxyDirty = s.proxyDirty := by unfold modGroup; split <;> rfl
@[simp] theorem modGroup_hostLines : (s.modGroup k f).hostLines = s.hostLines := by unfold modGroup; split <;> rfl
@[simp] theorem modGroup_hostDirty : (s.modGroup k f).hostDirty = s.hostDirty := by unfold modGroup; split <;> rfl
@[simp] theorem modGroup_route : (s.modGroup k f).route = s.route := by unfold modGroup; split <;> rfl
@[simp] theorem modGroup_rasHeld : (s.modGroup k f).rasHeld = s.rasHeld := by unfold modGroup; split <;> rfl
@[simp] theorem modGroup_rasOpen : (s.modGroup k f).rasOpen = s.rasOpen := by unfold modGroup; split <;> rfl
@[simp] theorem modGroup_telpair : (s.modGroup k f).telpair = s.telpair := by unfold modGroup; split <;> rfl
@[simp] theorem modGroup_flash : (s.modGroup k f).flash = s.flash := by unfold modGroup; split <;> rfl
@[simp] theorem modGroup_tdi : (s.modGroup k f).tdi = s.tdi := by unfold modGroup; split <;> rfl
@[simp] theorem modGroup_shared : (s.modGroup k f).shared = s.shared := by unfold modGroup; split <;> rfl
@[simp] theorem modGroup_ide : (s.modGroup k f).ide = s.ide := by unfold modGroup; split <;> rfl
@[simp] theorem modGroup_spdm : (s.modGroup k f).spdm = s.spdm := by unfold modGroup; split <;> rfl
@[simp] theorem modGroup_flr : (s.modGroup k f).flr = s.flr := by unfold modGroup; split <;> rfl
@[simp] theorem modGroup_hostOut : (s.modGroup k f).hostOut = s.hostOut := by unfold modGroup; split <;> rfl
@[simp] theorem modGroup_aer : (s.modGroup k f).aer = s.aer := by unfold modGroup; split <;> rfl
@[simp] theorem modGroup_ringDown : (s.modGroup k f).ringDown = s.ringDown := by unfold modGroup; split <;> rfl
@[simp] theorem modGroup_loaded : (s.modGroup k f).loaded = s.loaded := by unfold modGroup; split <;> rfl
@[simp] theorem modGroup_journal : (s.modGroup k f).journal = s.journal := by unfold modGroup; split <;> rfl
@[simp] theorem modGroup_remoteOut : (s.modGroup k f).remoteOut = s.remoteOut := by unfold modGroup; split <;> rfl
@[simp] theorem modGroup_remoteIn : (s.modGroup k f).remoteIn = s.remoteIn := by unfold modGroup; split <;> rfl
@[simp] theorem modGroup_physOut : (s.modGroup k f).physOut = s.physOut := by unfold modGroup; split <;> rfl
@[simp] theorem modGroup_nacks : (s.modGroup k f).nacks = s.nacks := by unfold modGroup; split <;> rfl
@[simp] theorem modGroup_hostWait : (s.modGroup k f).hostWait = s.hostWait := by unfold modGroup; split <;> rfl
@[simp] theorem modGroup_peerWait : (s.modGroup k f).peerWait = s.peerWait := by unfold modGroup; split <;> rfl
@[simp] theorem modGroup_nextGid : (s.modGroup k f).nextGid = s.nextGid := by unfold modGroup; split <;> rfl
@[simp] theorem modGroup_nextCid : (s.modGroup k f).nextCid = s.nextCid := by unfold modGroup; split <;> rfl
@[simp] theorem modGroup_nextPark : (s.modGroup k f).nextPark = s.nextPark := by unfold modGroup; split <;> rfl
@[simp] theorem modGroup_saveBusy : (s.modGroup k f).saveBusy = s.saveBusy := by unfold modGroup; split <;> rfl
@[simp] theorem modGroup_free : (s.modGroup k f).free = s.free := by unfold modGroup; split <;> rfl
@[simp] theorem modGroup_cur : (s.modGroup k f).cur = s.cur := by unfold modGroup; split <;> rfl
@[simp] theorem modGroup_agenda : (s.modGroup k f).agenda = s.agenda := by unfold modGroup; split <;> rfl
end
section
variable (s : State) (k : Nat) (f : Grid → Grid)
@[simp] theorem modGrid_variant : (s.modGrid k f).variant = s.variant := by unfold modGrid; split <;> rfl
@[simp] theorem modGrid_silrev : (s.modGrid k f).silrev = s.silrev := by unfold modGrid; split <;> rfl
@[simp] theorem modGrid_devno : (s.modGrid k f).devno = s.devno := by unfold modGrid; split <;> rfl
@[simp] theorem modGrid_mem : (s.modGrid k f).mem = s.mem := by unfold modGrid; split <;> rfl
@[simp] theorem modGrid_poison : (s.modGrid k f).poison = s.poison := by unfold modGrid; split <;> rfl
@[simp] theorem modGrid_attrs : (s.modGrid k f).attrs = s.attrs := by unfold modGrid; split <;> rfl
@[simp] theorem modGrid_sPages : (s.modGrid k f).sPages = s.sPages := by unfold modGrid; split <;> rfl
@[simp] theorem modGrid_teams : (s.modGrid k f).teams = s.teams := by unfold modGrid; split <;> rfl
@[simp] theorem modGrid_groups : (s.modGrid k f).groups = s.groups := by unfold modGrid; split <;> rfl
@[simp] theorem modGrid_handed : (s.modGrid k f).handed = s.handed := by unfold modGrid; split <;> rfl
@[simp] theorem modGrid_cores : (s.modGrid k f).cores = s.cores := by unfold modGrid; split <;> rfl
@[simp] theorem modGrid_pairs : (s.modGrid k f).pairs = s.pairs := by unfold modGrid; split <;> rfl
@[simp] theorem modGrid_dies : (s.modGrid k f).dies = s.dies := by unfold modGrid; split <;> rfl
@[simp] theorem modGrid_dstacks : (s.modGrid k f).dstacks = s.dstacks := by unfold modGrid; split <;> rfl
@[simp] theorem modGrid_ports : (s.modGrid k f).ports = s.ports := by unfold modGrid; split <;> rfl
@[simp] theorem modGrid_hports : (s.modGrid k f).hports = s.hports := by unfold modGrid; split <;> rfl
@[simp] theorem modGrid_queues : (s.modGrid k f).queues = s.queues := by unfold modGrid; split <;> rfl
@[simp] theorem modGrid_rrTurn : (s.modGrid k f).rrTurn = s.rrTurn := by unfold modGrid; split <;> rfl
@[simp] theorem modGrid_ctls : (s.modGrid k f).ctls = s.ctls := by unfold modGrid; split <;> rfl
@[simp] theorem modGrid_chains : (s.modGrid k f).chains = s.chains := by unfold modGrid; split <;> rfl
@[simp] theorem modGrid_sched : (s.modGrid k f).sched = s.sched := by unfold modGrid; split <;> rfl
@[simp] theorem modGrid_lock : (s.modGrid k f).lock = s.lock := by unfold modGrid; split <;> rfl
@[simp] theorem modGrid_tags : (s.modGrid k f).tags = s.tags := by unfold modGrid; split <;> rfl
@[simp] theorem modGrid_faultWait : (s.modGrid k f).faultWait = s.faultWait := by unfold modGrid; split <;> rfl
@[simp] theorem modGrid_tlb : (s.modGrid k f).tlb = s.tlb := by unfold modGrid; split <;> rfl
@[simp] theorem modGrid_access : (s.modGrid k f).access = s.access := by unfold modGrid; split <;> rfl
@[simp] theorem modGrid_pages : (s.modGrid k f).pages = s.pages := by unfold modGrid; split <;> rfl
@[simp] theorem modGrid_borrowed : (s.modGrid k f).borrowed = s.borrowed := by unfold modGrid; split <;> rfl
@[simp] theorem modGrid_proxy : (s.modGrid k f).proxy = s.proxy := by unfold modGrid; split <;> rfl
@[simp] theorem modGrid_proxyLines : (s.modGrid k f).proxyLines = s.proxyLines := by unfold modGrid; split <;> rfl
@[simp] theorem modGrid_proxyDirty : (s.modGrid k f).proxyDirty = s.proxyDirty := by unfold modGrid; split <;> rfl
@[simp] theorem modGrid_hostLines : (s.modGrid k f).hostLines = s.hostLines := by unfold modGrid; split <;> rfl
@[simp] theorem modGrid_hostDirty : (s.modGrid k f).hostDirty = s.hostDirty := by unfold modGrid; split <;> rfl
@[simp] theorem modGrid_route : (s.modGrid k f).route = s.route := by unfold modGrid; split <;> rfl
@[simp] theorem modGrid_rasHeld : (s.modGrid k f).rasHeld = s.rasHeld := by unfold modGrid; split <;> rfl
@[simp] theorem modGrid_rasOpen : (s.modGrid k f).rasOpen = s.rasOpen := by unfold modGrid; split <;> rfl
@[simp] theorem modGrid_telpair : (s.modGrid k f).telpair = s.telpair := by unfold modGrid; split <;> rfl
@[simp] theorem modGrid_flash : (s.modGrid k f).flash = s.flash := by unfold modGrid; split <;> rfl
@[simp] theorem modGrid_tdi : (s.modGrid k f).tdi = s.tdi := by unfold modGrid; split <;> rfl
@[simp] theorem modGrid_shared : (s.modGrid k f).shared = s.shared := by unfold modGrid; split <;> rfl
@[simp] theorem modGrid_ide : (s.modGrid k f).ide = s.ide := by unfold modGrid; split <;> rfl
@[simp] theorem modGrid_spdm : (s.modGrid k f).spdm = s.spdm := by unfold modGrid; split <;> rfl
@[simp] theorem modGrid_flr : (s.modGrid k f).flr = s.flr := by unfold modGrid; split <;> rfl
@[simp] theorem modGrid_hostOut : (s.modGrid k f).hostOut = s.hostOut := by unfold modGrid; split <;> rfl
@[simp] theorem modGrid_aer : (s.modGrid k f).aer = s.aer := by unfold modGrid; split <;> rfl
@[simp] theorem modGrid_ringDown : (s.modGrid k f).ringDown = s.ringDown := by unfold modGrid; split <;> rfl
@[simp] theorem modGrid_loaded : (s.modGrid k f).loaded = s.loaded := by unfold modGrid; split <;> rfl
@[simp] theorem modGrid_journal : (s.modGrid k f).journal = s.journal := by unfold modGrid; split <;> rfl
@[simp] theorem modGrid_remoteOut : (s.modGrid k f).remoteOut = s.remoteOut := by unfold modGrid; split <;> rfl
@[simp] theorem modGrid_remoteIn : (s.modGrid k f).remoteIn = s.remoteIn := by unfold modGrid; split <;> rfl
@[simp] theorem modGrid_physOut : (s.modGrid k f).physOut = s.physOut := by unfold modGrid; split <;> rfl
@[simp] theorem modGrid_nacks : (s.modGrid k f).nacks = s.nacks := by unfold modGrid; split <;> rfl
@[simp] theorem modGrid_hostWait : (s.modGrid k f).hostWait = s.hostWait := by unfold modGrid; split <;> rfl
@[simp] theorem modGrid_peerWait : (s.modGrid k f).peerWait = s.peerWait := by unfold modGrid; split <;> rfl
@[simp] theorem modGrid_nextGid : (s.modGrid k f).nextGid = s.nextGid := by unfold modGrid; split <;> rfl
@[simp] theorem modGrid_nextCid : (s.modGrid k f).nextCid = s.nextCid := by unfold modGrid; split <;> rfl
@[simp] theorem modGrid_nextPark : (s.modGrid k f).nextPark = s.nextPark := by unfold modGrid; split <;> rfl
@[simp] theorem modGrid_saveBusy : (s.modGrid k f).saveBusy = s.saveBusy := by unfold modGrid; split <;> rfl
@[simp] theorem modGrid_free : (s.modGrid k f).free = s.free := by unfold modGrid; split <;> rfl
@[simp] theorem modGrid_cur : (s.modGrid k f).cur = s.cur := by unfold modGrid; split <;> rfl
@[simp] theorem modGrid_agenda : (s.modGrid k f).agenda = s.agenda := by unfold modGrid; split <;> rfl
end
@[simp] theorem team_setTeam (s : State) (k : Nat) (x : Team) : (s.setTeam k x).team k = x := tget_tset_self _ _ _ _
theorem team_setTeam_ne (s : State) {k j : Nat} (x : Team) (h : j ≠ k) : (s.setTeam k x).team j = s.team j := tget_tset_ne _ _ _ h
@[simp] theorem core_setCore (s : State) (k : Nat) (x : Core) : (s.setCore k x).core k = x := tget_tset_self _ _ _ _
theorem core_setCore_ne (s : State) {k j : Nat} (x : Core) (h : j ≠ k) : (s.setCore k x).core j = s.core j := tget_tset_ne _ _ _ h
@[simp] theorem pair_setPair (s : State) (k : Nat) (x : Pair) : (s.setPair k x).pair k = x := tget_tset_self _ _ _ _
theorem pair_setPair_ne (s : State) {k j : Nat} (x : Pair) (h : j ≠ k) : (s.setPair k x).pair j = s.pair j := tget_tset_ne _ _ _ h
@[simp] theorem die_setDie (s : State) (k : Nat) (x : Die) : (s.setDie k x).die k = x := tget_tset_self _ _ _ _
theorem die_setDie_ne (s : State) {k j : Nat} (x : Die) (h : j ≠ k) : (s.setDie k x).die j = s.die j := tget_tset_ne _ _ _ h
@[simp] theorem stack_setStack (s : State) (k : Nat) (x : Stack) : (s.setStack k x).stack k = x := tget_tset_self _ _ _ _
theorem stack_setStack_ne (s : State) {k j : Nat} (x : Stack) (h : j ≠ k) : (s.setStack k x).stack j = s.stack j := tget_tset_ne _ _ _ h
@[simp] theorem port_setPort (s : State) (k : Nat) (x : Port) : (s.setPort k x).port k = x := tget_tset_self _ _ _ _
theorem port_setPort_ne (s : State) {k j : Nat} (x : Port) (h : j ≠ k) : (s.setPort k x).port j = s.port j := tget_tset_ne _ _ _ h
@[simp] theorem hport_setHPort (s : State) (k : Nat) (x : HPort) : (s.setHPort k x).hport k = x := tget_tset_self _ _ _ _
theorem hport_setHPort_ne (s : State) {k j : Nat} (x : HPort) (h : j ≠ k) : (s.setHPort k x).hport j = s.hport j := tget_tset_ne _ _ _ h
@[simp] theorem queue_setQueue (s : State) (k : Nat) (x : Queue) : (s.setQueue k x).queue k = x := tget_tset_self _ _ _ _
theorem queue_setQueue_ne (s : State) {k j : Nat} (x : Queue) (h : j ≠ k) : (s.setQueue k x).queue j = s.queue j := tget_tset_ne _ _ _ h
@[simp] theorem ctl_setCtl (s : State) (k : Nat) (x : Ctl) : (s.setCtl k x).ctl k = x := tget_tset_self _ _ _ _
theorem ctl_setCtl_ne (s : State) {k j : Nat} (x : Ctl) (h : j ≠ k) : (s.setCtl k x).ctl j = s.ctl j := tget_tset_ne _ _ _ h
@[simp] theorem pageEntry_setPageEntry (s : State) (k : Nat) (x : PageEntry) : (s.setPageEntry k x).pageEntry k = x := tget_tset_self _ _ _ _
@[simp] theorem team_modTeam (s : State) (k : Nat) (f : Team → Team) : (s.modTeam k f).team k = f (s.team k) := tget_tset_self _ _ _ _
theorem team_modTeam_ne (s : State) {k j : Nat} (f : Team → Team) (h : j ≠ k) : (s.modTeam k f).team j = s.team j :=
  tget_tset_ne _ _ _ h
@[simp] theorem group?_setGroup (s : State) (g : Group) : (s.setGroup g).group? g.gid = some g := tget?_tput_self _ _ _
theorem group?_setGroup_ne (s : State) (g : Group) {j : Nat} (h : j ≠ g.gid) : (s.setGroup g).group? j = s.group? j :=
  tget?_tput_ne _ _ h
@[simp] theorem grid?_setGrid (s : State) (g : Grid) : (s.setGrid g).grid? g.seq = some g := tget?_tput_self _ _ _
theorem grid?_setGrid_ne (s : State) (g : Grid) {j : Nat} (h : j ≠ g.seq) : (s.setGrid g).grid? j = s.grid? j :=
  tget?_tput_ne _ _ h
@[simp] theorem chain?_setChain (s : State) (c : Chain) : (s.setChain c).chain? c.cid = some c := tget?_tput_self _ _ _
@[simp] theorem core_setTeam_other (s : State) (tk : Nat) (t : Team) (j : Nat) : (s.setTeam tk t).core j = s.core j := rfl
@[simp] theorem pair_setTeam_other (s : State) (tk : Nat) (t : Team) (j : Nat) : (s.setTeam tk t).pair j = s.pair j := rfl
@[simp] theorem die_setTeam_other (s : State) (tk : Nat) (t : Team) (j : Nat) : (s.setTeam tk t).die j = s.die j := rfl
@[simp] theorem stack_setTeam_other (s : State) (tk : Nat) (t : Team) (j : Nat) : (s.setTeam tk t).stack j = s.stack j := rfl
@[simp] theorem port_setTeam_other (s : State) (tk : Nat) (t : Team) (j : Nat) : (s.setTeam tk t).port j = s.port j := rfl
@[simp] theorem hport_setTeam_other (s : State) (tk : Nat) (t : Team) (j : Nat) : (s.setTeam tk t).hport j = s.hport j := rfl
@[simp] theorem queue_setTeam_other (s : State) (tk : Nat) (t : Team) (j : Nat) : (s.setTeam tk t).queue j = s.queue j := rfl
@[simp] theorem ctl_setTeam_other (s : State) (tk : Nat) (t : Team) (j : Nat) : (s.setTeam tk t).ctl j = s.ctl j := rfl
@[simp] theorem group_setTeam_other (s : State) (tk : Nat) (t : Team) (j : Nat) : (s.setTeam tk t).group? j = s.group? j := rfl
@[simp] theorem grid_setTeam_other (s : State) (tk : Nat) (t : Team) (j : Nat) : (s.setTeam tk t).grid? j = s.grid? j := rfl
@[simp] theorem chain_setTeam_other (s : State) (tk : Nat) (t : Team) (j : Nat) : (s.setTeam tk t).chain? j = s.chain? j := rfl
@[simp] theorem core_modTeam_other (s : State) (tk : Nat) (f : Team → Team) (j : Nat) : (s.modTeam tk f).core j = s.core j := rfl
@[simp] theorem pair_modTeam_other (s : State) (tk : Nat) (f : Team → Team) (j : Nat) : (s.modTeam tk f).pair j = s.pair j := rfl
@[simp] theorem die_modTeam_other (s : State) (tk : Nat) (f : Team → Team) (j : Nat) : (s.modTeam tk f).die j = s.die j := rfl
@[simp] theorem stack_modTeam_other (s : State) (tk : Nat) (f : Team → Team) (j : Nat) : (s.modTeam tk f).stack j = s.stack j := rfl
@[simp] theorem port_modTeam_other (s : State) (tk : Nat) (f : Team → Team) (j : Nat) : (s.modTeam tk f).port j = s.port j := rfl
@[simp] theorem hport_modTeam_other (s : State) (tk : Nat) (f : Team → Team) (j : Nat) : (s.modTeam tk f).hport j = s.hport j := rfl
@[simp] theorem queue_modTeam_other (s : State) (tk : Nat) (f : Team → Team) (j : Nat) : (s.modTeam tk f).queue j = s.queue j := rfl
@[simp] theorem ctl_modTeam_other (s : State) (tk : Nat) (f : Team → Team) (j : Nat) : (s.modTeam tk f).ctl j = s.ctl j := rfl
@[simp] theorem group_modTeam_other (s : State) (tk : Nat) (f : Team → Team) (j : Nat) : (s.modTeam tk f).group? j = s.group? j := rfl
@[simp] theorem grid_modTeam_other (s : State) (tk : Nat) (f : Team → Team) (j : Nat) : (s.modTeam tk f).grid? j = s.grid? j := rfl
@[simp] theorem chain_modTeam_other (s : State) (tk : Nat) (f : Team → Team) (j : Nat) : (s.modTeam tk f).chain? j = s.chain? j := rfl
@[simp] theorem team_setCore_other (s : State) (c : Nat) (x : Core) (j : Nat) : (s.setCore c x).team j = s.team j := rfl
@[simp] theorem pair_setCore_other (s : State) (c : Nat) (x : Core) (j : Nat) : (s.setCore c x).pair j = s.pair j := rfl
@[simp] theorem die_setCore_other (s : State) (c : Nat) (x : Core) (j : Nat) : (s.setCore c x).die j = s.die j := rfl
@[simp] theorem stack_setCore_other (s : State) (c : Nat) (x : Core) (j : Nat) : (s.setCore c x).stack j = s.stack j := rfl
@[simp] theorem port_setCore_other (s : State) (c : Nat) (x : Core) (j : Nat) : (s.setCore c x).port j = s.port j := rfl
@[simp] theorem hport_setCore_other (s : State) (c : Nat) (x : Core) (j : Nat) : (s.setCore c x).hport j = s.hport j := rfl
@[simp] theorem queue_setCore_other (s : State) (c : Nat) (x : Core) (j : Nat) : (s.setCore c x).queue j = s.queue j := rfl
@[simp] theorem ctl_setCore_other (s : State) (c : Nat) (x : Core) (j : Nat) : (s.setCore c x).ctl j = s.ctl j := rfl
@[simp] theorem group_setCore_other (s : State) (c : Nat) (x : Core) (j : Nat) : (s.setCore c x).group? j = s.group? j := rfl
@[simp] theorem grid_setCore_other (s : State) (c : Nat) (x : Core) (j : Nat) : (s.setCore c x).grid? j = s.grid? j := rfl
@[simp] theorem chain_setCore_other (s : State) (c : Nat) (x : Core) (j : Nat) : (s.setCore c x).chain? j = s.chain? j := rfl
@[simp] theorem team_setPair_other (s : State) (c : Nat) (x : Pair) (j : Nat) : (s.setPair c x).team j = s.team j := rfl
@[simp] theorem core_setPair_other (s : State) (c : Nat) (x : Pair) (j : Nat) : (s.setPair c x).core j = s.core j := rfl
@[simp] theorem die_setPair_other (s : State) (c : Nat) (x : Pair) (j : Nat) : (s.setPair c x).die j = s.die j := rfl
@[simp] theorem stack_setPair_other (s : State) (c : Nat) (x : Pair) (j : Nat) : (s.setPair c x).stack j = s.stack j := rfl
@[simp] theorem port_setPair_other (s : State) (c : Nat) (x : Pair) (j : Nat) : (s.setPair c x).port j = s.port j := rfl
@[simp] theorem hport_setPair_other (s : State) (c : Nat) (x : Pair) (j : Nat) : (s.setPair c x).hport j = s.hport j := rfl
@[simp] theorem queue_setPair_other (s : State) (c : Nat) (x : Pair) (j : Nat) : (s.setPair c x).queue j = s.queue j := rfl
@[simp] theorem ctl_setPair_other (s : State) (c : Nat) (x : Pair) (j : Nat) : (s.setPair c x).ctl j = s.ctl j := rfl
@[simp] theorem group_setPair_other (s : State) (c : Nat) (x : Pair) (j : Nat) : (s.setPair c x).group? j = s.group? j := rfl
@[simp] theorem grid_setPair_other (s : State) (c : Nat) (x : Pair) (j : Nat) : (s.setPair c x).grid? j = s.grid? j := rfl
@[simp] theorem chain_setPair_other (s : State) (c : Nat) (x : Pair) (j : Nat) : (s.setPair c x).chain? j = s.chain? j := rfl
@[simp] theorem team_setDie_other (s : State) (c : Nat) (x : Die) (j : Nat) : (s.setDie c x).team j = s.team j := rfl
@[simp] theorem core_setDie_other (s : State) (c : Nat) (x : Die) (j : Nat) : (s.setDie c x).core j = s.core j := rfl
@[simp] theorem pair_setDie_other (s : State) (c : Nat) (x : Die) (j : Nat) : (s.setDie c x).pair j = s.pair j := rfl
@[simp] theorem stack_setDie_other (s : State) (c : Nat) (x : Die) (j : Nat) : (s.setDie c x).stack j = s.stack j := rfl
@[simp] theorem port_setDie_other (s : State) (c : Nat) (x : Die) (j : Nat) : (s.setDie c x).port j = s.port j := rfl
@[simp] theorem hport_setDie_other (s : State) (c : Nat) (x : Die) (j : Nat) : (s.setDie c x).hport j = s.hport j := rfl
@[simp] theorem queue_setDie_other (s : State) (c : Nat) (x : Die) (j : Nat) : (s.setDie c x).queue j = s.queue j := rfl
@[simp] theorem ctl_setDie_other (s : State) (c : Nat) (x : Die) (j : Nat) : (s.setDie c x).ctl j = s.ctl j := rfl
@[simp] theorem group_setDie_other (s : State) (c : Nat) (x : Die) (j : Nat) : (s.setDie c x).group? j = s.group? j := rfl
@[simp] theorem grid_setDie_other (s : State) (c : Nat) (x : Die) (j : Nat) : (s.setDie c x).grid? j = s.grid? j := rfl
@[simp] theorem chain_setDie_other (s : State) (c : Nat) (x : Die) (j : Nat) : (s.setDie c x).chain? j = s.chain? j := rfl
@[simp] theorem team_setStack_other (s : State) (c : Nat) (x : Stack) (j : Nat) : (s.setStack c x).team j = s.team j := rfl
@[simp] theorem core_setStack_other (s : State) (c : Nat) (x : Stack) (j : Nat) : (s.setStack c x).core j = s.core j := rfl
@[simp] theorem pair_setStack_other (s : State) (c : Nat) (x : Stack) (j : Nat) : (s.setStack c x).pair j = s.pair j := rfl
@[simp] theorem die_setStack_other (s : State) (c : Nat) (x : Stack) (j : Nat) : (s.setStack c x).die j = s.die j := rfl
@[simp] theorem port_setStack_other (s : State) (c : Nat) (x : Stack) (j : Nat) : (s.setStack c x).port j = s.port j := rfl
@[simp] theorem hport_setStack_other (s : State) (c : Nat) (x : Stack) (j : Nat) : (s.setStack c x).hport j = s.hport j := rfl
@[simp] theorem queue_setStack_other (s : State) (c : Nat) (x : Stack) (j : Nat) : (s.setStack c x).queue j = s.queue j := rfl
@[simp] theorem ctl_setStack_other (s : State) (c : Nat) (x : Stack) (j : Nat) : (s.setStack c x).ctl j = s.ctl j := rfl
@[simp] theorem group_setStack_other (s : State) (c : Nat) (x : Stack) (j : Nat) : (s.setStack c x).group? j = s.group? j := rfl
@[simp] theorem grid_setStack_other (s : State) (c : Nat) (x : Stack) (j : Nat) : (s.setStack c x).grid? j = s.grid? j := rfl
@[simp] theorem chain_setStack_other (s : State) (c : Nat) (x : Stack) (j : Nat) : (s.setStack c x).chain? j = s.chain? j := rfl
@[simp] theorem team_setPort_other (s : State) (c : Nat) (x : Port) (j : Nat) : (s.setPort c x).team j = s.team j := rfl
@[simp] theorem core_setPort_other (s : State) (c : Nat) (x : Port) (j : Nat) : (s.setPort c x).core j = s.core j := rfl
@[simp] theorem pair_setPort_other (s : State) (c : Nat) (x : Port) (j : Nat) : (s.setPort c x).pair j = s.pair j := rfl
@[simp] theorem die_setPort_other (s : State) (c : Nat) (x : Port) (j : Nat) : (s.setPort c x).die j = s.die j := rfl
@[simp] theorem stack_setPort_other (s : State) (c : Nat) (x : Port) (j : Nat) : (s.setPort c x).stack j = s.stack j := rfl
@[simp] theorem hport_setPort_other (s : State) (c : Nat) (x : Port) (j : Nat) : (s.setPort c x).hport j = s.hport j := rfl
@[simp] theorem queue_setPort_other (s : State) (c : Nat) (x : Port) (j : Nat) : (s.setPort c x).queue j = s.queue j := rfl
@[simp] theorem ctl_setPort_other (s : State) (c : Nat) (x : Port) (j : Nat) : (s.setPort c x).ctl j = s.ctl j := rfl
@[simp] theorem group_setPort_other (s : State) (c : Nat) (x : Port) (j : Nat) : (s.setPort c x).group? j = s.group? j := rfl
@[simp] theorem grid_setPort_other (s : State) (c : Nat) (x : Port) (j : Nat) : (s.setPort c x).grid? j = s.grid? j := rfl
@[simp] theorem chain_setPort_other (s : State) (c : Nat) (x : Port) (j : Nat) : (s.setPort c x).chain? j = s.chain? j := rfl
@[simp] theorem team_setHPort_other (s : State) (c : Nat) (x : HPort) (j : Nat) : (s.setHPort c x).team j = s.team j := rfl
@[simp] theorem core_setHPort_other (s : State) (c : Nat) (x : HPort) (j : Nat) : (s.setHPort c x).core j = s.core j := rfl
@[simp] theorem pair_setHPort_other (s : State) (c : Nat) (x : HPort) (j : Nat) : (s.setHPort c x).pair j = s.pair j := rfl
@[simp] theorem die_setHPort_other (s : State) (c : Nat) (x : HPort) (j : Nat) : (s.setHPort c x).die j = s.die j := rfl
@[simp] theorem stack_setHPort_other (s : State) (c : Nat) (x : HPort) (j : Nat) : (s.setHPort c x).stack j = s.stack j := rfl
@[simp] theorem port_setHPort_other (s : State) (c : Nat) (x : HPort) (j : Nat) : (s.setHPort c x).port j = s.port j := rfl
@[simp] theorem queue_setHPort_other (s : State) (c : Nat) (x : HPort) (j : Nat) : (s.setHPort c x).queue j = s.queue j := rfl
@[simp] theorem ctl_setHPort_other (s : State) (c : Nat) (x : HPort) (j : Nat) : (s.setHPort c x).ctl j = s.ctl j := rfl
@[simp] theorem group_setHPort_other (s : State) (c : Nat) (x : HPort) (j : Nat) : (s.setHPort c x).group? j = s.group? j := rfl
@[simp] theorem grid_setHPort_other (s : State) (c : Nat) (x : HPort) (j : Nat) : (s.setHPort c x).grid? j = s.grid? j := rfl
@[simp] theorem chain_setHPort_other (s : State) (c : Nat) (x : HPort) (j : Nat) : (s.setHPort c x).chain? j = s.chain? j := rfl
@[simp] theorem team_setQueue_other (s : State) (c : Nat) (x : Queue) (j : Nat) : (s.setQueue c x).team j = s.team j := rfl
@[simp] theorem core_setQueue_other (s : State) (c : Nat) (x : Queue) (j : Nat) : (s.setQueue c x).core j = s.core j := rfl
@[simp] theorem pair_setQueue_other (s : State) (c : Nat) (x : Queue) (j : Nat) : (s.setQueue c x).pair j = s.pair j := rfl
@[simp] theorem die_setQueue_other (s : State) (c : Nat) (x : Queue) (j : Nat) : (s.setQueue c x).die j = s.die j := rfl
@[simp] theorem stack_setQueue_other (s : State) (c : Nat) (x : Queue) (j : Nat) : (s.setQueue c x).stack j = s.stack j := rfl
@[simp] theorem port_setQueue_other (s : State) (c : Nat) (x : Queue) (j : Nat) : (s.setQueue c x).port j = s.port j := rfl
@[simp] theorem hport_setQueue_other (s : State) (c : Nat) (x : Queue) (j : Nat) : (s.setQueue c x).hport j = s.hport j := rfl
@[simp] theorem ctl_setQueue_other (s : State) (c : Nat) (x : Queue) (j : Nat) : (s.setQueue c x).ctl j = s.ctl j := rfl
@[simp] theorem group_setQueue_other (s : State) (c : Nat) (x : Queue) (j : Nat) : (s.setQueue c x).group? j = s.group? j := rfl
@[simp] theorem grid_setQueue_other (s : State) (c : Nat) (x : Queue) (j : Nat) : (s.setQueue c x).grid? j = s.grid? j := rfl
@[simp] theorem chain_setQueue_other (s : State) (c : Nat) (x : Queue) (j : Nat) : (s.setQueue c x).chain? j = s.chain? j := rfl
@[simp] theorem team_setCtl_other (s : State) (c : Nat) (x : Ctl) (j : Nat) : (s.setCtl c x).team j = s.team j := rfl
@[simp] theorem core_setCtl_other (s : State) (c : Nat) (x : Ctl) (j : Nat) : (s.setCtl c x).core j = s.core j := rfl
@[simp] theorem pair_setCtl_other (s : State) (c : Nat) (x : Ctl) (j : Nat) : (s.setCtl c x).pair j = s.pair j := rfl
@[simp] theorem die_setCtl_other (s : State) (c : Nat) (x : Ctl) (j : Nat) : (s.setCtl c x).die j = s.die j := rfl
@[simp] theorem stack_setCtl_other (s : State) (c : Nat) (x : Ctl) (j : Nat) : (s.setCtl c x).stack j = s.stack j := rfl
@[simp] theorem port_setCtl_other (s : State) (c : Nat) (x : Ctl) (j : Nat) : (s.setCtl c x).port j = s.port j := rfl
@[simp] theorem hport_setCtl_other (s : State) (c : Nat) (x : Ctl) (j : Nat) : (s.setCtl c x).hport j = s.hport j := rfl
@[simp] theorem queue_setCtl_other (s : State) (c : Nat) (x : Ctl) (j : Nat) : (s.setCtl c x).queue j = s.queue j := rfl
@[simp] theorem group_setCtl_other (s : State) (c : Nat) (x : Ctl) (j : Nat) : (s.setCtl c x).group? j = s.group? j := rfl
@[simp] theorem grid_setCtl_other (s : State) (c : Nat) (x : Ctl) (j : Nat) : (s.setCtl c x).grid? j = s.grid? j := rfl
@[simp] theorem chain_setCtl_other (s : State) (c : Nat) (x : Ctl) (j : Nat) : (s.setCtl c x).chain? j = s.chain? j := rfl
@[simp] theorem team_setGroup_other (s : State) (g : Group) (j : Nat) : (s.setGroup g).team j = s.team j := rfl
@[simp] theorem core_setGroup_other (s : State) (g : Group) (j : Nat) : (s.setGroup g).core j = s.core j := rfl
@[simp] theorem pair_setGroup_other (s : State) (g : Group) (j : Nat) : (s.setGroup g).pair j = s.pair j := rfl
@[simp] theorem die_setGroup_other (s : State) (g : Group) (j : Nat) : (s.setGroup g).die j = s.die j := rfl
@[simp] theorem stack_setGroup_other (s : State) (g : Group) (j : Nat) : (s.setGroup g).stack j = s.stack j := rfl
@[simp] theorem port_setGroup_other (s : State) (g : Group) (j : Nat) : (s.setGroup g).port j = s.port j := rfl
@[simp] theorem hport_setGroup_other (s : State) (g : Group) (j : Nat) : (s.setGroup g).hport j = s.hport j := rfl
@[simp] theorem queue_setGroup_other (s : State) (g : Group) (j : Nat) : (s.setGroup g).queue j = s.queue j := rfl
@[simp] theorem ctl_setGroup_other (s : State) (g : Group) (j : Nat) : (s.setGroup g).ctl j = s.ctl j := rfl
@[simp] theorem grid_setGroup_other (s : State) (g : Group) (j : Nat) : (s.setGroup g).grid? j = s.grid? j := rfl
@[simp] theorem chain_setGroup_other (s : State) (g : Group) (j : Nat) : (s.setGroup g).chain? j = s.chain? j := rfl
@[simp] theorem team_setGrid_other (s : State) (g : Grid) (j : Nat) : (s.setGrid g).team j = s.team j := rfl
@[simp] theorem core_setGrid_other (s : State) (g : Grid) (j : Nat) : (s.setGrid g).core j = s.core j := rfl
@[simp] theorem pair_setGrid_other (s : State) (g : Grid) (j : Nat) : (s.setGrid g).pair j = s.pair j := rfl
@[simp] theorem die_setGrid_other (s : State) (g : Grid) (j : Nat) : (s.setGrid g).die j = s.die j := rfl
@[simp] theorem stack_setGrid_other (s : State) (g : Grid) (j : Nat) : (s.setGrid g).stack j = s.stack j := rfl
@[simp] theorem port_setGrid_other (s : State) (g : Grid) (j : Nat) : (s.setGrid g).port j = s.port j := rfl
@[simp] theorem hport_setGrid_other (s : State) (g : Grid) (j : Nat) : (s.setGrid g).hport j = s.hport j := rfl
@[simp] theorem queue_setGrid_other (s : State) (g : Grid) (j : Nat) : (s.setGrid g).queue j = s.queue j := rfl
@[simp] theorem ctl_setGrid_other (s : State) (g : Grid) (j : Nat) : (s.setGrid g).ctl j = s.ctl j := rfl
@[simp] theorem group_setGrid_other (s : State) (g : Grid) (j : Nat) : (s.setGrid g).group? j = s.group? j := rfl
@[simp] theorem chain_setGrid_other (s : State) (g : Grid) (j : Nat) : (s.setGrid g).chain? j = s.chain? j := rfl
@[simp] theorem team_setChain_other (s : State) (c : Chain) (j : Nat) : (s.setChain c).team j = s.team j := rfl
@[simp] theorem core_setChain_other (s : State) (c : Chain) (j : Nat) : (s.setChain c).core j = s.core j := rfl
@[simp] theorem pair_setChain_other (s : State) (c : Chain) (j : Nat) : (s.setChain c).pair j = s.pair j := rfl
@[simp] theorem die_setChain_other (s : State) (c : Chain) (j : Nat) : (s.setChain c).die j = s.die j := rfl
@[simp] theorem stack_setChain_other (s : State) (c : Chain) (j : Nat) : (s.setChain c).stack j = s.stack j := rfl
@[simp] theorem port_setChain_other (s : State) (c : Chain) (j : Nat) : (s.setChain c).port j = s.port j := rfl
@[simp] theorem hport_setChain_other (s : State) (c : Chain) (j : Nat) : (s.setChain c).hport j = s.hport j := rfl
@[simp] theorem queue_setChain_other (s : State) (c : Chain) (j : Nat) : (s.setChain c).queue j = s.queue j := rfl
@[simp] theorem ctl_setChain_other (s : State) (c : Chain) (j : Nat) : (s.setChain c).ctl j = s.ctl j := rfl
@[simp] theorem group_setChain_other (s : State) (c : Chain) (j : Nat) : (s.setChain c).group? j = s.group? j := rfl
@[simp] theorem grid_setChain_other (s : State) (c : Chain) (j : Nat) : (s.setChain c).grid? j = s.grid? j := rfl
@[simp] theorem team_setPageEntry_other (s : State) (p : Nat) (e : PageEntry) (j : Nat) : (s.setPageEntry p e).team j = s.team j := rfl
@[simp] theorem core_setPageEntry_other (s : State) (p : Nat) (e : PageEntry) (j : Nat) : (s.setPageEntry p e).core j = s.core j := rfl
@[simp] theorem pair_setPageEntry_other (s : State) (p : Nat) (e : PageEntry) (j : Nat) : (s.setPageEntry p e).pair j = s.pair j := rfl
@[simp] theorem die_setPageEntry_other (s : State) (p : Nat) (e : PageEntry) (j : Nat) : (s.setPageEntry p e).die j = s.die j := rfl
@[simp] theorem stack_setPageEntry_other (s : State) (p : Nat) (e : PageEntry) (j : Nat) : (s.setPageEntry p e).stack j = s.stack j := rfl
@[simp] theorem port_setPageEntry_other (s : State) (p : Nat) (e : PageEntry) (j : Nat) : (s.setPageEntry p e).port j = s.port j := rfl
@[simp] theorem hport_setPageEntry_other (s : State) (p : Nat) (e : PageEntry) (j : Nat) : (s.setPageEntry p e).hport j = s.hport j := rfl
@[simp] theorem queue_setPageEntry_other (s : State) (p : Nat) (e : PageEntry) (j : Nat) : (s.setPageEntry p e).queue j = s.queue j := rfl
@[simp] theorem ctl_setPageEntry_other (s : State) (p : Nat) (e : PageEntry) (j : Nat) : (s.setPageEntry p e).ctl j = s.ctl j := rfl
@[simp] theorem group_setPageEntry_other (s : State) (p : Nat) (e : PageEntry) (j : Nat) : (s.setPageEntry p e).group? j = s.group? j := rfl
@[simp] theorem grid_setPageEntry_other (s : State) (p : Nat) (e : PageEntry) (j : Nat) : (s.setPageEntry p e).grid? j = s.grid? j := rfl
@[simp] theorem chain_setPageEntry_other (s : State) (p : Nat) (e : PageEntry) (j : Nat) : (s.setPageEntry p e).chain? j = s.chain? j := rfl
@[simp] theorem team_drawFree_other (s : State) (j : Nat) : (s.drawFree).team j = s.team j := rfl
@[simp] theorem core_drawFree_other (s : State) (j : Nat) : (s.drawFree).core j = s.core j := rfl
@[simp] theorem pair_drawFree_other (s : State) (j : Nat) : (s.drawFree).pair j = s.pair j := rfl
@[simp] theorem die_drawFree_other (s : State) (j : Nat) : (s.drawFree).die j = s.die j := rfl
@[simp] theorem stack_drawFree_other (s : State) (j : Nat) : (s.drawFree).stack j = s.stack j := rfl
@[simp] theorem port_drawFree_other (s : State) (j : Nat) : (s.drawFree).port j = s.port j := rfl
@[simp] theorem hport_drawFree_other (s : State) (j : Nat) : (s.drawFree).hport j = s.hport j := rfl
@[simp] theorem queue_drawFree_other (s : State) (j : Nat) : (s.drawFree).queue j = s.queue j := rfl
@[simp] theorem ctl_drawFree_other (s : State) (j : Nat) : (s.drawFree).ctl j = s.ctl j := rfl
@[simp] theorem group_drawFree_other (s : State) (j : Nat) : (s.drawFree).group? j = s.group? j := rfl
@[simp] theorem grid_drawFree_other (s : State) (j : Nat) : (s.drawFree).grid? j = s.grid? j := rfl
@[simp] theorem chain_drawFree_other (s : State) (j : Nat) : (s.drawFree).chain? j = s.chain? j := rfl

end State
end Sys2Proof.Machine
end

