-- ==== Sys2Proof/Laws/Lanes.lean ====
section
/-! SUPPORT. What writing registers, predicates and flags of lanes does to a team, said once. -/
namespace Sys2Proof.Laws
open Sys2Proof.Machine Sys2Proof.Safety

theorem lastAt_nil {κ α : Type} [BEq κ] (k : κ) (old : α) : lastAt [] k old = old := rfl
theorem lastAt_cons {κ α : Type} [BEq κ] (c : κ × α) (r : List (κ × α)) (k : κ) (old : α) :
    lastAt (c :: r) k old = lastAt r k (if c.1 == k then c.2 else old) := by
  unfold lastAt
  rw [List.reverse_cons, List.find?_append]
  cases h : List.find? (fun w => w.1 == k) r.reverse with
  | some x => simp
  | none => by_cases hc : c.1 == k <;> simp [hc]
theorem lastAt_append {κ α : Type} [BEq κ] (a b : List (κ × α)) (k : κ) (old : α) :
    lastAt (a ++ b) k old = lastAt b k (lastAt a k old) := by
  induction a generalizing old with
  | nil => rfl
  | cons c r ih => rw [List.cons_append, lastAt_cons, lastAt_cons, ih]
/-- A list of writes leaves the last value written to a key, or the old one. -/
theorem tget_tsetAll {α : Type} [DecidableEq α] (d : α) (cs : List (Nat × α)) (m : Tab α) (k : Nat) :
    tget d (tsetAll d m cs) k = lastAt cs k (tget d m k) := by
  induction cs generalizing m with
  | nil => rfl
  | cons c r ih =>
    rw [tsetAll_cons, ih, lastAt_cons]
    by_cases h : c.1 = k
    · subst h; simp [tget_tset_self]
    · rw [tget_tset_ne d m c.2 (Ne.symm h)]; simp [h]

/-- The writes of one file, with their places. -/
theorem lastAt_map_pair {α : Type} (i : Nat) (ws : List (Nat × α)) (x : Nat × Nat) (old : α) :
    lastAt (ws.map fun w => ((i, w.1), w.2)) x old = if x.1 = i then lastAt ws x.2 old else old := by
  induction ws generalizing old with
  | nil => simp [lastAt_nil]
  | cons c r ih =>
    rw [List.map_cons, lastAt_cons, ih, lastAt_cons]
    obtain ⟨a, b⟩ := x
    by_cases h : a = i
    · subst h
      by_cases hb : c.1 = b
      · subst hb; simp
      · simp [hb]
    · simp [h, Ne.symm h]
/-- The writes of a word in the order of its lanes. -/
def placed (w : RegW) : List ((Nat × Nat) × Word) :=
  (w.v.map fun x => ((0, x.1), x.2)) ++ (w.s.map fun x => ((1, x.1), x.2)) ++ w.t.map fun x => ((2, x.1), x.2)

@[simp] theorem noteAlloc_v (t : Team) (w : RegW) : (noteAlloc t w).v = t.v := rfl
@[simp] theorem noteAlloc_s (t : Team) (w : RegW) : (noteAlloc t w).s = t.s := rfl
@[simp] theorem noteAlloc_t (t : Team) (w : RegW) : (noteAlloc t w).t = t.t := rfl
@[simp] theorem noteAlloc_inflight (t : Team) (w : RegW) : (noteAlloc t w).inflight = t.inflight := rfl
theorem cancelInflight_eq (t : Team) (vk sk : List Nat) :
    cancelInflight t vk sk = { t with inflight := (cancelInflight t vk sk).inflight } := by
  unfold cancelInflight; split <;> rfl
theorem cancelInflight_ids (t : Team) (vk sk : List Nat) :
    (cancelInflight t vk sk).inflight.map (·.id) = t.inflight.map (·.id) := by
  unfold cancelInflight; split <;> simp

/-- A place read after the writes of a word. -/
theorem regAtPlace_writeRegs (t : Team) (w : RegW) (x : Nat × Nat) :
    regAtPlace (writeRegs t w) x = lastAt (placed w) x (regAtPlace t x) := by
  have hv : (cancelInflight t (w.v.map (·.1)) (w.s.map (·.1))).v = t.v := by rw [cancelInflight_eq]
  have hs : (cancelInflight t (w.v.map (·.1)) (w.s.map (·.1))).s = t.s := by rw [cancelInflight_eq]
  have ht : (cancelInflight t (w.v.map (·.1)) (w.s.map (·.1))).t = t.t := by rw [cancelInflight_eq]
  unfold placed
  rw [lastAt_append, lastAt_append, lastAt_map_pair, lastAt_map_pair, lastAt_map_pair]
  unfold regAtPlace writeRegs
  simp only [noteAlloc_v, noteAlloc_s, noteAlloc_t, hv, hs, ht, tget_tsetAll]
  obtain ⟨a, b⟩ := x
  by_cases h0 : a = 0
  · subst h0; simp
  · by_cases h1 : a = 1
    · subst h1; simp
    · by_cases h2 : a = 2
      · subst h2; simp
      · simp [h0, h1, h2]
theorem placed_append (a b : RegW) (x : Nat × Nat) (old : Word) :
    lastAt (placed (a.append b)) x old = lastAt (placed b) x (lastAt (placed a) x old) := by
  unfold placed RegW.append
  simp only [List.map_append, lastAt_append, lastAt_map_pair]
  obtain ⟨i, j⟩ := x
  by_cases h0 : i = 0
  · subst h0; simp
  · by_cases h1 : i = 1
    · subst h1; simp
    · by_cases h2 : i = 2
      · subst h2; simp
      · simp [h0, h1, h2]
theorem placed_regW (t : Team) (l : Nat) (r : Reg) (y : Word) (x : Nat × Nat) (old : Word) :
    lastAt (placed (regW t l r y)) x old = lastAt [(regPlace t r l, y)] x old := by
  unfold placed regW regPlace
  split <;> (try split) <;> rfl

/-- A lane's result in the model's form. -/
def toRes (t : Team) (l : Nat) (o : LaneOut) : LaneRes :=
  { w := o.regs.foldl (fun a y => a.append (regW t l y.1 y.2)) {}, p := o.preds.map fun y => (y.1.toNat, y.2), fl := o.flags }
theorem placed_toRes (t : Team) (l : Nat) (o : LaneOut) (x : Nat × Nat) (old : Word) :
    lastAt (placed (toRes t l o).w) x old = lastAt (o.regs.map fun y => (regPlace t y.1 l, y.2)) x old := by
  unfold toRes
  suffices h : ∀ (rs : List (Reg × Word)) (a : RegW),
      lastAt (placed (rs.foldl (fun a y => a.append (regW t l y.1 y.2)) a)) x old =
      lastAt (rs.map fun y => (regPlace t y.1 l, y.2)) x (lastAt (placed a) x old) from h o.regs {}
  intro rs
  induction rs with
  | nil => intro a; rfl
  | cons y r ih => intro a; rw [List.foldl_cons, ih, placed_append, placed_regW, List.map_cons, lastAt_cons, lastAt_cons, lastAt_nil]
theorem placed_lanes (t : Team) (ls : List (Nat × LaneOut)) (x : Nat × Nat) (old : Word) (a : RegW) :
    lastAt (placed ((ls.map fun y => (y.1, toRes t y.1 y.2)).foldl (fun a r => a.append r.2.w) a)) x old =
    lastAt (regWrites t ls) x (lastAt (placed a) x old) := by
  induction ls generalizing a with
  | nil => rfl
  | cons y r ih =>
    rw [List.map_cons, List.foldl_cons, ih, placed_append, placed_toRes]
    unfold regWrites
    rw [List.flatMap_cons, lastAt_append]
theorem predWrites_eq (t : Team) (ls : List (Nat × LaneOut)) :
    (((ls.map fun y => (y.1, toRes t y.1 y.2)).flatMap fun r => r.2.p.map fun x => (x.1, r.1, x.2)).map
      fun x => (x.1 * 1024 + x.2.1, x.2.2)) = predWrites ls := by
  unfold predWrites
  induction ls with
  | nil => rfl
  | cons y r ih =>
    rw [List.map_cons, List.flatMap_cons, List.map_append, ih, List.flatMap_cons]
    simp [toRes]
theorem tget_raise (ws : List (Nat × Flags)) (m : Tab Flags) (k : Nat) :
    tget 0 (ws.foldl (fun m x => tset 0 m x.1 (tget 0 m x.1 ||| x.2)) m) k =
      (ws.filter fun x => x.1 == k).foldl (fun a x => a ||| x.2) (tget 0 m k) := by
  induction ws generalizing m with
  | nil => rfl
  | cons c r ih =>
    rw [List.foldl_cons, ih]
    by_cases h : c.1 = k
    · subst h; simp [tget_tset_self]
    · rw [tget_tset_ne 0 m _ (Ne.symm h)]; simp [h]
theorem foldl_or {α : Type} (g : α → Flags) (ws : List α) (a : Flags) :
    ws.foldl (fun a x => a ||| g x) a = a ||| ws.foldl (fun a x => a ||| g x) 0 := by
  induction ws generalizing a with
  | nil => simp
  | cons c r ih => rw [List.foldl_cons, ih, List.foldl_cons, ih (0 ||| g c)]; simp [BitVec.or_assoc]
theorem raised_eq (t : Team) (ls : List (Nat × LaneOut)) (k : Nat) (a : Flags) :
    ((((ls.map fun y => (y.1, toRes t y.1 y.2)).filter fun r => r.2.fl != 0).map fun r => (r.1, r.2.fl)).filter
      fun x => x.1 == k).foldl (fun (a : Flags) x => a ||| x.2) a = a ||| flagsOf ls k := by
  unfold flagsOf
  induction ls generalizing a with
  | nil => simp
  | cons y r ih =>
    have e : (toRes t y.1 y.2).fl = y.2.flags := rfl
    rw [List.map_cons]
    by_cases h0 : y.2.flags = 0
    · have h : ((toRes t y.1 y.2).fl != 0) = false := by rw [e, h0]; rfl
      rw [List.filter_cons_of_neg (by show ¬ ((toRes t y.1 y.2).fl != 0) = true; rw [h]; exact Bool.false_ne_true), ih]
      by_cases hk : y.1 == k
      · rw [List.filter_cons_of_pos (by simpa using hk), List.foldl_cons, h0]; rfl
      · rw [List.filter_cons_of_neg (by simpa using hk)]
    · have h : ((toRes t y.1 y.2).fl != 0) = true := by rw [e]; exact bne_iff_ne.2 h0
      rw [List.filter_cons_of_pos (p := fun r : Nat × LaneRes => r.2.fl != 0) h, List.map_cons]
      by_cases hk : y.1 == k
      · rw [List.filter_cons_of_pos (by simpa using hk), List.filter_cons_of_pos (by simpa using hk), List.foldl_cons, List.foldl_cons,
          ih, foldl_or (fun x : Nat × LaneOut => x.2.flags) _ (0 ||| y.2.flags), e, BitVec.or_assoc]
        simp
      · rw [List.filter_cons_of_neg (by simpa using hk), List.filter_cons_of_neg (by simpa using hk), ih]

theorem writeRegs_eq (t : Team) (w : RegW) : writeRegs t w = { t with
    v := (writeRegs t w).v, s := (writeRegs t w).s, t := (writeRegs t w).t, inflight := (writeRegs t w).inflight,
    alloc := (writeRegs t w).alloc, salloc := (writeRegs t w).salloc, nextVer := (writeRegs t w).nextVer } := by
  unfold writeRegs noteAlloc
  simp only []
  rw [cancelInflight_eq]
theorem writeRegs_p (t : Team) (w : RegW) : (writeRegs t w).p = t.p := by rw [writeRegs_eq]
theorem writeRegs_fl (t : Team) (w : RegW) : (writeRegs t w).fl = t.fl := by rw [writeRegs_eq]
theorem writeRegs_cc (t : Team) (w : RegW) : (writeRegs t w).cc = t.cc := by rw [writeRegs_eq]
theorem writeRegs_ids (t : Team) (w : RegW) : (writeRegs t w).inflight.map (·.id) = t.inflight.map (·.id) :=
  cancelInflight_ids _ _ _
/-- What a lane-by-lane word leaves is what its lanes did. -/
theorem did_applyLanes (t : Team) (ls : List (Nat × LaneOut)) :
    Did t (applyLanes t (ls.map fun y => (y.1, toRes t y.1 y.2))) ls := by
  have key : ∀ w ps fs, applyLanes t (ls.map fun y => (y.1, toRes t y.1 y.2)) = raiseFlags (writePreds (writeRegs t w) ps) fs →
      w = (ls.map fun y => (y.1, toRes t y.1 y.2)).foldl (fun a r => a.append r.2.w) {} →
      ps = (ls.map fun y => (y.1, toRes t y.1 y.2)).flatMap (fun r => r.2.p.map fun x => (x.1, r.1, x.2)) →
      fs = ((ls.map fun y => (y.1, toRes t y.1 y.2)).filter fun r => r.2.fl != 0).map (fun r => (r.1, r.2.fl)) →
      Did t (applyLanes t (ls.map fun y => (y.1, toRes t y.1 y.2))) ls := by
    intro w ps fs h hw hp hf
    rw [h]
    refine ⟨?_, writeRegs_ids t w, ?_, ?_, ?_⟩
    · unfold raiseFlags writePreds
      rw [writeRegs_eq]
    · intro x
      have := placed_lanes t ls x (regAtPlace t x) {}
      rw [← hw] at this
      exact (regAtPlace_writeRegs t w x).trans this
    · intro k
      show tget .f (tsetAll .f (writeRegs t w).p (ps.map fun x => (x.1 * 1024 + x.2.1, x.2.2))) k = _
      rw [tget_tsetAll, writeRegs_p, hp, predWrites_eq]
    · intro k
      show tget 0 (fs.foldl (fun m x => tset 0 m x.1 (tget 0 m x.1 ||| x.2)) (writeRegs t w).fl) k = _
      rw [tget_raise, writeRegs_fl, hf, raised_eq]
  exact key _ _ _ rfl rfl rfl rfl

end Sys2Proof.Laws
end

