-- ==== Sys2Proof/Laws/Memory.lean ====
section
/-! SUPPORT. Memory: what the shared operations leave of it. Parking, waking, rolling back and restarting teams write no
byte; a write event writes the bytes it carries and no other; every write keeps the canonical form. -/
namespace Sys2Proof.Laws
open Sys2Proof.Machine Sys2Proof.Safety

/-- The bytes of memory and of the proxy of other E9s are the same. -/
def SameBytes (s t : State) : Prop := t.mem = s.mem ∧ t.proxy = s.proxy
theorem SameBytes.rfl {s : State} : SameBytes s s := ⟨Eq.refl _, Eq.refl _⟩
theorem SameBytes.trans {s t u : State} (h : SameBytes s t) (g : SameBytes t u) : SameBytes s u := ⟨g.1.trans h.1, g.2.trans h.2⟩
/-- Every byte then reads as before, and the canonical form stands. -/
theorem SameBytes.readMem {s t : State} (h : SameBytes s t) (a : Nat) : readMem t a = readMem s a := by
  unfold Machine.readMem; rw [h.1, h.2]
theorem SameBytes.wf {s t : State} (h : SameBytes s t) (w : Memory.wf s.mem) : Memory.wf t.mem := by rw [h.1]; exact w
/-- A fold of operations that keep memory keeps it. -/
theorem SameBytes.foldl {α : Type} (f : State → α → State) (h : ∀ s x, SameBytes s (f s x)) (l : List α) (s : State) :
    SameBytes s (l.foldl f s) := by
  induction l generalizing s with
  | nil => exact .rfl
  | cons a r ih => exact (h s a).trans (ih _)
theorem same_ite {p : Prop} [Decidable p] {s a b : State} (h : SameBytes s a) (g : SameBytes s b) : SameBytes s (if p then a else b) := by
  split
  · exact h
  · exact g
theorem same_setTeam (s : State) (k : Nat) (t : Team) : SameBytes s (s.setTeam k t) := ⟨rfl, rfl⟩
theorem same_modTeam (s : State) (k : Nat) (f : Team → Team) : SameBytes s (s.modTeam k f) := ⟨rfl, rfl⟩
theorem same_setCore (s : State) (c : Nat) (x : Core) : SameBytes s (s.setCore c x) := ⟨rfl, rfl⟩
theorem same_setGroup (s : State) (g : Group) : SameBytes s (s.setGroup g) := ⟨rfl, rfl⟩
theorem same_setGrid (s : State) (g : Grid) : SameBytes s (s.setGrid g) := ⟨rfl, rfl⟩
theorem same_modGroup (s : State) (k : Nat) (f : Group → Group) : SameBytes s (s.modGroup k f) := by
  unfold State.modGroup; split <;> exact ⟨rfl, rfl⟩
theorem same_modGrid (s : State) (k : Nat) (f : Grid → Grid) : SameBytes s (s.modGrid k f) := by
  unfold State.modGrid; split <;> exact ⟨rfl, rfl⟩

theorem same_releasePipeAt (s : State) (tk c : Nat) : SameBytes s (releasePipeAt s tk c) := by
  unfold releasePipeAt
  refine SameBytes.trans ?_ (same_modTeam _ _ _)
  split
  · exact .rfl
  · dsimp only; split <;> constructor <;> simp
theorem same_releasePipe (s : State) (tk : Nat) : SameBytes s (releasePipe s tk) := same_releasePipeAt _ _ _
theorem same_dropPipe (s : State) (tk : Nat) : SameBytes s (dropPipe s tk) := same_releasePipeAt _ _ _
theorem same_parkTeam (s : State) (tk : Nat) (c : Park) (w : ParkWait) (b : Bool) : SameBytes s (parkTeam s tk c w b) := by
  unfold parkTeam
  exact (same_releasePipe s tk).trans ⟨rfl, rfl⟩
theorem same_makeReadyAt (s : State) (tk c : Nat) : SameBytes s (makeReadyAt s tk c) := by
  unfold makeReadyAt
  dsimp only
  split
  · exact ⟨rfl, rfl⟩
  · split
    · exact .rfl
    · split <;> exact ⟨rfl, rfl⟩
theorem same_makeReady (s : State) (tk : Nat) : SameBytes s (makeReady s tk) := same_makeReadyAt s tk _
theorem same_makeReadyAll (s : State) (l : List Nat) : SameBytes s (makeReadyAll s l) := SameBytes.foldl _ same_makeReady l s
theorem same_accWrite (s : State) (c : Nat) (w : List (Nat × Word)) : SameBytes s (accWrite s c w) := by
  unfold accWrite; dsimp only; split <;> exact ⟨rfl, rfl⟩
theorem same_dropAsks (s : State) (tk : Nat) : SameBytes s (dropAsks s tk) := ⟨rfl, rfl⟩
theorem same_undoMatrix (s : State) (c tk rid : Nat) : SameBytes s (undoMatrix s c tk rid) := by
  unfold undoMatrix
  dsimp only
  split
  · exact .rfl
  · refine SameBytes.trans ?_ (SameBytes.foldl _ (fun s o => ?_) _ _)
    · exact ⟨rfl, rfl⟩
    · split
      · exact same_accWrite _ _ _
      · exact .rfl
theorem same_wakeBuf (s : State) (gid h : Nat) : SameBytes s (wakeBuf s gid h) := by
  unfold wakeBuf; split
  · exact .rfl
  · exact (same_ite (SameBytes.foldl _ (fun s k => same_modTeam s k _) _ _) .rfl).trans (same_makeReadyAll _ _)
theorem same_wakePresence (s : State) (gid : Nat) : SameBytes s (wakePresence s gid) := by
  unfold wakePresence; split
  · exact .rfl
  · exact same_makeReadyAll _ _
theorem same_settleHandles (s : State) (gid : Nat) : SameBytes s (settleHandles s gid) := by
  unfold settleHandles; split
  · exact .rfl
  · exact (same_setGroup _ _).trans (SameBytes.foldl _ (fun s h => same_wakeBuf s gid h) _ _)
theorem same_dropChains (s : State) (gid : Nat) (hit : Chain → Bool) : SameBytes s (dropChains s gid hit) := by
  unfold dropChains
  dsimp only
  split
  · exact .rfl
  · refine SameBytes.trans ?_ (same_settleHandles _ _)
    exact ⟨rfl, rfl⟩
theorem same_undoChains (s : State) (tk rid : Nat) : SameBytes s (undoChains s tk rid) := same_dropChains _ _ _
theorem same_dropArray (s : State) (gid c : Nat) : SameBytes s (dropArray s gid c) := by
  unfold dropArray
  dsimp only
  refine SameBytes.trans ?_ (SameBytes.foldl _ (fun s o => ?_) _ _)
  · exact (same_ite (same_dropAsks _ _) .rfl).trans ⟨rfl, rfl⟩
  · split
    · exact same_accWrite _ _ _
    · exact .rfl
theorem same_releaseExcl (s : State) (tk : Nat) : SameBytes s (releaseExcl s tk) := by
  unfold releaseExcl
  split
  · exact same_modTeam _ _ _
  · dsimp only
    split
    · constructor <;> simp
    · refine SameBytes.trans ?_ (same_makeReady _ _)
      constructor <;> simp
/-- A rollback writes no byte of memory. -/
theorem same_rollbackTo (s : State) (tk idx : Nat) : SameBytes s (rollbackTo s tk idx) := by
  unfold rollbackTo
  dsimp only
  split
  · exact .rfl
  · refine SameBytes.trans (SameBytes.trans ?_ (same_modGroup _ _ _)) (same_modTeam _ _ _)
    refine SameBytes.trans ?_ (same_undoMatrix _ _ _ _)
    exact (((same_dropPipe s tk).trans (same_dropAsks _ _)).trans (same_undoChains _ _ _)).trans (same_ite (same_dropAsks _ _) .rfl)
theorem same_exclRequest (s : State) (tk : Nat) : SameBytes s (exclRequest s tk) := by
  unfold exclRequest
  dsimp only
  split
  · exact ⟨rfl, rfl⟩
  · refine SameBytes.trans ?_ (same_parkTeam _ _ _ _ _)
    exact ⟨rfl, rfl⟩
theorem same_escalate (s : State) (tk rid : Nat) : SameBytes s (escalate s tk rid) := by
  unfold escalate
  exact (same_setTeam s tk _).trans (same_ite (same_exclRequest _ _) .rfl)
theorem same_overHamper (s : State) (gid : Nat) : SameBytes s (overHamper s gid) := by
  unfold overHamper
  split
  · exact .rfl
  · exact same_ite .rfl ((same_setGroup _ _).trans (same_modGrid _ _ _))
theorem same_restartGroup (s : State) (gid : Nat) : SameBytes s (restartGroup s gid) := by
  unfold restartGroup
  split
  · exact .rfl
  · split
    · exact .rfl
    · dsimp only
      refine SameBytes.trans ?_ (same_modGrid _ _ _)
      refine SameBytes.trans ?_ (same_ite .rfl (SameBytes.foldl _ (fun s k => same_ite (same_exclRequest _ _) .rfl) _ _))
      refine SameBytes.trans ?_ ((same_modGroup _ _ _).trans (same_overHamper _ _))
      refine ((same_dropChains _ _ _).trans ((same_dropArray _ _ _).trans (same_dropArray _ _ _))).trans
        (SameBytes.foldl _ (fun s k => ?_) _ _)
      split
      · exact .rfl
      · exact (((same_dropPipe s k).trans (same_dropAsks _ _)).trans (same_releaseExcl _ _)).trans ⟨rfl, rfl⟩
theorem same_conflictHit (s : State) (tk idx : Nat) : SameBytes s (conflictHit s tk idx) := by
  unfold conflictHit
  dsimp only
  split
  · exact same_restartGroup _ _
  · split
    · exact .rfl
    · split
      · split
        · exact .rfl
        · exact same_escalate _ _ _
      · exact ((same_rollbackTo _ _ _).trans (same_modTeam _ _ _)).trans (same_escalate _ _ _)
theorem same_retryHit (s : State) (who : Option Nat) (hit : Nat → Bool) : SameBytes s (retryHit s who hit) := by
  unfold retryHit
  refine SameBytes.foldl _ (fun s k => ?_) _ _
  split
  · exact same_escalate _ _ _
  · exact .rfl
theorem same_hitReaders (s : State) (who : Option Nat) (hit : Nat → Bool) : SameBytes s (hitReaders s who hit) := by
  unfold hitReaders
  refine SameBytes.trans (SameBytes.trans (SameBytes.foldl _ same_restartGroup _ _) (SameBytes.foldl _ (fun s k => ?_) _ _))
    (same_retryHit _ _ _)
  split
  · exact same_conflictHit _ _ _
  · exact .rfl
theorem same_retestAll (s : State) (locs : List Nat) : SameBytes s (retestAll s locs) := by
  unfold retestAll
  refine SameBytes.foldl _ (fun s x => ?_) _ _
  split
  · exact .rfl
  · unfold retest
    dsimp only
    split
    · exact .rfl
    · refine SameBytes.trans ?_ (SameBytes.foldl _ (fun s w => ?_) _ _)
      · exact ⟨rfl, rfl⟩
      · split
        · exact same_makeReady _ _
        · exact .rfl
theorem same_unpoison (s : State) (cells : List (Nat × Byte)) (lines : List Nat) : SameBytes s (unpoison s cells lines) := by
  unfold unpoison; split <;> exact ⟨rfl, rfl⟩
/-- Bytes that land are the bytes carried, and what they wake or roll back writes none. -/
theorem same_landBytes (s : State) (who : Option Nat) (cells : List (Nat × Byte)) (sp : List (Nat × Nat)) :
    SameBytes (memPut s cells) (landBytes s who cells sp) := by
  unfold landBytes
  split
  · next h =>
    have : cells = [] := List.isEmpty_iff.1 h
    subst this
    exact ⟨rfl, rfl⟩
  · dsimp only
    refine SameBytes.trans (SameBytes.trans ?_ (SameBytes.foldl _ (fun s p => same_hitReaders _ _ _) _ _)) (same_retestAll _ _)
    refine SameBytes.trans ?_ (same_hitReaders _ _ _)
    exact ⟨rfl, rfl⟩
/-- A write event writes the bytes it carries alone. -/
theorem same_writeEvent (s : State) (who : Option Nat) (cells : List (Nat × Byte)) (sp : List (Nat × Nat)) :
    SameBytes (memPut s cells) (writeEvent s who cells sp) := by
  refine SameBytes.trans ?_ (same_landBytes _ _ _ _)
  unfold unpoison
  split <;> exact ⟨rfl, rfl⟩
/-- Bytes written keep the canonical form. -/
theorem wf_memPut (s : State) (cells : List (Nat × Byte)) (h : Memory.wf s.mem) : Memory.wf (memPut s cells).mem :=
  twf_tsetAll _ h
/-- A write event keeps the canonical form. -/
theorem wf_writeEvent (s : State) (who : Option Nat) (cells : List (Nat × Byte)) (sp : List (Nat × Nat)) (h : Memory.wf s.mem) :
    Memory.wf (writeEvent s who cells sp).mem := (same_writeEvent s who cells sp).wf (wf_memPut s cells h)
theorem wf_writeEvents (s : State) (who : Option Nat) (evts : List (List (Nat × Byte))) (cells : List (Nat × Byte))
    (sp : List (Nat × Nat)) (h : Memory.wf s.mem) : Memory.wf (writeEvents s who evts cells sp).mem := by
  unfold writeEvents
  refine (same_landBytes _ _ _ _).wf (wf_memPut _ _ ((SameBytes.foldl _ (fun s e => same_unpoison s e _) _ _).wf ?_))
  split
  · exact h
  · next hw =>
    clear hw
    generalize evts = l
    induction l generalizing s with
    | nil => exact h
    | cons e r ih => exact ih _ ((same_retestAll _ _).wf (wf_memPut _ _ h))
theorem same_sendMsg (s : State) (op dev : Nat) (m : Msg) : SameBytes s (sendMsg s op dev m) := by
  unfold sendMsg; split
  · exact .rfl
  · exact ⟨rfl, rfl⟩
theorem same_remoteAsk (s : State) (op l what : Nat) (f : BitVec 32) (b : List Byte) (k : Nat) :
    SameBytes s (remoteAsk s op l what f b k) := by
  unfold remoteAsk
  exact same_ite .rfl (SameBytes.trans ⟨rfl, rfl⟩ (same_sendMsg _ _ _ _))
theorem same_remoteAskOnce (s : State) (op l what : Nat) (b : List Byte) (k : Nat) :
    SameBytes s (remoteAskOnce s op l what b k) := same_ite .rfl (same_remoteAsk _ _ _ _ _ _ _)
theorem same_recallPage (s : State) (page dev : Nat) (toS : Bool) : SameBytes s (recallPage s page dev toS) := by
  unfold recallPage
  exact same_ite .rfl (SameBytes.trans ⟨rfl, rfl⟩ (same_sendMsg _ _ _ _))
theorem same_dropPage (s : State) (page : Nat) : SameBytes s (dropPage s page) :=
  SameBytes.trans ⟨rfl, rfl⟩ (same_hitReaders _ _ _)
theorem same_proxyDirty {s t : State} (h : SameBytes s t) (l : List Nat) : SameBytes s { t with proxyDirty := l } := h
theorem same_writeBackPage (s : State) (page : Nat) : SameBytes s (writeBackPage s page) := by
  unfold writeBackPage
  refine SameBytes.foldl _ (fun s l => ?_) _ _
  split
  · exact .rfl
  · apply same_proxyDirty
    apply same_remoteAsk
theorem same_returnPage (s : State) (page tag : Nat) : SameBytes s (returnPage s page tag) :=
  (same_writeBackPage s page).trans (same_ite .rfl ((same_dropPage _ _).trans (same_sendMsg _ _ _ _)))
theorem same_askPage (s : State) (page : Nat) (m : Bool) : SameBytes s (askPage s page m) :=
  (same_remoteAskOnce s _ _ _ _ _).trans (same_ite .rfl ⟨rfl, rfl⟩)
/-- A gate that holds an access writes no byte. -/
def GateSame (s : State) (o : Option State) : Prop := ∀ t, o = some t → SameBytes s t
theorem gate_none (s : State) : GateSame s none := fun _ h => nomatch h
theorem gate_some {s t : State} (h : SameBytes s t) : GateSame s (some t) := fun _ e => Option.some.inj e ▸ h
theorem gate_ite {p : Prop} [Decidable p] {s : State} {a b : Option State} (h : GateSame s a) (g : GateSame s b) :
    GateSame s (if p then a else b) := by split <;> assumption
theorem gate_host (s : State) (line : Nat) (w : Bool) : GateSame s (hostGate s line w) :=
  gate_ite (gate_some ⟨rfl, rfl⟩) (gate_none s)
theorem gate_page (s : State) (page dev : Nat) (w : Bool) : GateSame s (pageGate s page dev w) := by
  unfold pageGate
  dsimp only
  split
  · exact gate_ite (gate_none s) (gate_some (same_recallPage _ _ _ _))
  · exact gate_ite (gate_some (SameBytes.foldl _ (fun s d => same_recallPage s _ _ _) _ _)) (gate_none s)
theorem gate_excl (s : State) (tk line : Nat) : GateSame s (exclGate s tk line) := by
  unfold exclGate
  split
  · exact gate_none s
  · exact gate_ite (gate_none s) (gate_some ⟨rfl, rfl⟩)
theorem gate_remote (s : State) (who line coh : Nat) (w : Bool) : GateSame s (remoteGate s who line coh w) := by
  unfold remoteGate
  refine gate_ite (gate_ite (gate_none s) (gate_ite (gate_some ?_) (gate_ite (gate_none s) (gate_some (same_remoteAskOnce _ _ _ _ _ _)))))
    (gate_ite (gate_ite (gate_none s) (gate_some (same_remoteAskOnce _ _ _ _ _ _)))
      (gate_ite (gate_some .rfl) (gate_some (same_askPage _ _ _))))
  exact SameBytes.trans ⟨rfl, rfl⟩ (same_returnPage _ _ _)
theorem gate_line (s : State) (tk line coh : Nat) (w : Bool) : GateSame s (lineGate s tk line coh w) := by
  unfold lineGate
  split
  · next h => exact gate_some (gate_excl _ _ _ _ h)
  · refine gate_ite (gate_remote _ _ _ _ _) (gate_ite (gate_none s) ?_)
    unfold localGate
    split
    · next h => exact gate_some (gate_host _ _ _ _ h)
    · exact gate_page _ _ _ _
/-- The gates of lines write no byte of memory. -/
theorem gate_lines (s : State) (tk : Nat) (lines : List (Nat × Nat)) (w : Bool) : GateSame s (gates s tk lines w) := by
  unfold gates
  suffices h : ∀ o, GateSame s o → GateSame s (lines.foldl (fun r l => match lineGate (r.getD s) tk l.1 l.2 w with
      | some s' => some s' | none => r) o) from h none (gate_none s)
  induction lines with
  | nil => exact fun o h => h
  | cons l r ih =>
    intro o h
    refine ih _ ?_
    have hd : SameBytes s (o.getD s) := by
      cases o with
      | none => exact .rfl
      | some t => exact h t (Eq.refl _)
    dsimp only
    split
    · next e => exact gate_some (hd.trans (gate_line _ _ _ _ _ _ e))
    · exact h
theorem wf_settlePhys (n : Nat) (s : State) (h : Memory.wf s.mem) : Memory.wf (settlePhys n s).mem := by
  induction n generalizing s with
  | zero => exact h
  | succ n ih =>
    unfold settlePhys
    split
    · exact h
    · split
      · next hg => exact (gate_lines _ _ _ _ _ hg).wf h
      · exact ih _ (wf_writeEvent _ _ _ _ h)
theorem wf_physWrite (s : State) (pa : Nat) (b : List Byte) (h : Memory.wf s.mem) : Memory.wf (physWrite s pa b).mem :=
  by
  unfold physWrite
  dsimp only
  split
  · exact h
  · exact wf_settlePhys _ _ h
/-- Dropping the bytes of a part of memory keeps the canonical form. -/
theorem wf_drop (m : List Host.Cell) (p : Host.Cell → Bool) (h : Memory.wf m) : Memory.wf (m.filter p) := twf_filter p h
/-- Reset memory lists nothing. -/
theorem reset_mem : State.reset.mem = [] := rfl

end Sys2Proof.Laws
end

