-- ==== Sys2Proof/Laws/PerInstr.lean ====
section
/-! SUPPORT. The form of every instruction's words: one lemma for each constructor. -/
namespace Sys2Proof.Laws.WordForm
open Sys2Proof

/-- An event has no words; an instruction has one to three, and bit 31 of the first is its E bit (R172). -/
def Statement (i : Instr) : Prop :=
  if i.isEvent then encode i = [] else ∃ x r, encode i = x :: r ∧ r.length ≤ 2 ∧ fE x = i.ebit
theorem fE_mkC (e : Bool) (o : Nat) (d : Reg) (i : BitVec 14) : fE (mkC e o d i) = e := by rw [mkC_eq]; exact fE_mkA ..
theorem fE_mkL (e : Bool) (o : Nat) (d a : Reg) (k : BitVec 3) (z : BitVec 4) : fE (mkL e o d a k z) = e := by rw [mkL_eq]; exact fE_mkA ..
theorem fE_mkT (e : Bool) (o : Nat) (a : BitVec 8) (z : BitVec 13) : fE (mkT e o a z) = e := by
  unfold fE mkT
  simp only [BitVec.getLsbD_append]; simp
theorem ofWords {i : Instr} {x : W32} {r : List W32} (h : encode i = x :: r) (hr : Nat.ble r.length 2 = true) (he : i.isEvent = false)
    (hb : fE x = i.ebit) : Statement i := by
  unfold Statement
  rw [he]
  exact ⟨x, r, h, Nat.le_of_ble_eq_true hr, hb⟩
theorem iadd (f : FAW) : Statement (Instr.iadd f) := ofWords rfl rfl rfl (fE_mkA ..)
theorem isub (f : FAW) : Statement (Instr.isub f) := ofWords rfl rfl rfl (fE_mkA ..)
theorem imul (f : FAW) : Statement (Instr.imul f) := ofWords rfl rfl rfl (fE_mkA ..)
theorem imulhI (f : FAW) : Statement (Instr.imulhI f) := ofWords rfl rfl rfl (fE_mkA ..)
theorem imulhN (f : FAW) : Statement (Instr.imulhN f) := ofWords rfl rfl rfl (fE_mkA ..)
theorem imad (f : FAW) : Statement (Instr.imad f) := ofWords rfl rfl rfl (fE_mkA ..)
theorem idivI (f : FAW) : Statement (Instr.idivI f) := ofWords rfl rfl rfl (fE_mkA ..)
theorem idivN (f : FAW) : Statement (Instr.idivN f) := ofWords rfl rfl rfl (fE_mkA ..)
theorem iremI (f : FAW) : Statement (Instr.iremI f) := ofWords rfl rfl rfl (fE_mkA ..)
theorem iremN (f : FAW) : Statement (Instr.iremN f) := ofWords rfl rfl rfl (fE_mkA ..)
theorem iminI (f : FAW) : Statement (Instr.iminI f) := ofWords rfl rfl rfl (fE_mkA ..)
theorem iminN (f : FAW) : Statement (Instr.iminN f) := ofWords rfl rfl rfl (fE_mkA ..)
theorem imaxI (f : FAW) : Statement (Instr.imaxI f) := ofWords rfl rfl rfl (fE_mkA ..)
theorem imaxN (f : FAW) : Statement (Instr.imaxN f) := ofWords rfl rfl rfl (fE_mkA ..)
theorem iaddsI (f : FAW) : Statement (Instr.iaddsI f) := ofWords rfl rfl rfl (fE_mkA ..)
theorem iaddsN (f : FAW) : Statement (Instr.iaddsN f) := ofWords rfl rfl rfl (fE_mkA ..)
theorem isubsI (f : FAW) : Statement (Instr.isubsI f) := ofWords rfl rfl rfl (fE_mkA ..)
theorem isubsN (f : FAW) : Statement (Instr.isubsN f) := ofWords rfl rfl rfl (fE_mkA ..)
theorem andR (f : FAW) : Statement (Instr.andR f) := ofWords rfl rfl rfl (fE_mkA ..)
theorem orR (f : FAW) : Statement (Instr.orR f) := ofWords rfl rfl rfl (fE_mkA ..)
theorem xorR (f : FAW) : Statement (Instr.xorR f) := ofWords rfl rfl rfl (fE_mkA ..)
theorem andn (f : FAW) : Statement (Instr.andn f) := ofWords rfl rfl rfl (fE_mkA ..)
theorem shl (f : FAW) : Statement (Instr.shl f) := ofWords rfl rfl rfl (fE_mkA ..)
theorem shr (f : FAW) : Statement (Instr.shr f) := ofWords rfl rfl rfl (fE_mkA ..)
theorem sar (f : FAW) : Statement (Instr.sar f) := ofWords rfl rfl rfl (fE_mkA ..)
theorem rol (f : FAW) : Statement (Instr.rol f) := ofWords rfl rfl rfl (fE_mkA ..)
theorem ror (f : FAW) : Statement (Instr.ror f) := ofWords rfl rfl rfl (fE_mkA ..)
theorem ineg (f : FAW) : Statement (Instr.ineg f) := ofWords rfl rfl rfl (fE_mkA ..)
theorem iabs (f : FAW) : Statement (Instr.iabs f) := ofWords rfl rfl rfl (fE_mkA ..)
theorem notR (f : FAW) : Statement (Instr.notR f) := ofWords rfl rfl rfl (fE_mkA ..)
theorem popc (f : FAW) : Statement (Instr.popc f) := ofWords rfl rfl rfl (fE_mkA ..)
theorem clz (f : FAW) : Statement (Instr.clz f) := ofWords rfl rfl rfl (fE_mkA ..)
theorem ctz (f : FAW) : Statement (Instr.ctz f) := ofWords rfl rfl rfl (fE_mkA ..)
theorem brev (f : FAW) : Statement (Instr.brev f) := ofWords rfl rfl rfl (fE_mkA ..)
theorem movKill (f : FA) : Statement (Instr.movKill f) := ofWords rfl rfl rfl (fE_mkA ..)
theorem mov (f : FAW) : Statement (Instr.mov f) := ofWords rfl rfl rfl (fE_mkA ..)
theorem bfx (f : FAWX) : Statement (Instr.bfx f) := ofWords rfl rfl rfl (fE_mkA ..)
theorem bfi (f : FAWX) : Statement (Instr.bfi f) := ofWords rfl rfl rfl (fE_mkA ..)
theorem sel (f : FAWX) : Statement (Instr.sel f) := ofWords rfl rfl rfl (fE_mkA ..)
theorem icmpEq (f : FAW) : Statement (Instr.icmpEq f) := ofWords rfl rfl rfl (fE_mkA ..)
theorem icmpNe (f : FAW) : Statement (Instr.icmpNe f) := ofWords rfl rfl rfl (fE_mkA ..)
theorem icmpLtI (f : FAW) : Statement (Instr.icmpLtI f) := ofWords rfl rfl rfl (fE_mkA ..)
theorem icmpLeI (f : FAW) : Statement (Instr.icmpLeI f) := ofWords rfl rfl rfl (fE_mkA ..)
theorem icmpGtI (f : FAW) : Statement (Instr.icmpGtI f) := ofWords rfl rfl rfl (fE_mkA ..)
theorem icmpGeI (f : FAW) : Statement (Instr.icmpGeI f) := ofWords rfl rfl rfl (fE_mkA ..)
theorem icmpLtN (f : FAW) : Statement (Instr.icmpLtN f) := ofWords rfl rfl rfl (fE_mkA ..)
theorem icmpLeN (f : FAW) : Statement (Instr.icmpLeN f) := ofWords rfl rfl rfl (fE_mkA ..)
theorem icmpGtN (f : FAW) : Statement (Instr.icmpGtN f) := ofWords rfl rfl rfl (fE_mkA ..)
theorem icmpGeN (f : FAW) : Statement (Instr.icmpGeN f) := ofWords rfl rfl rfl (fE_mkA ..)
theorem iaddImm (f : FBW) : Statement (Instr.iaddImm f) := ofWords rfl rfl rfl (fE_mkA ..)
theorem isubImm (f : FBW) : Statement (Instr.isubImm f) := ofWords rfl rfl rfl (fE_mkA ..)
theorem imulImm (f : FBW) : Statement (Instr.imulImm f) := ofWords rfl rfl rfl (fE_mkA ..)
theorem andImm (f : FBW) : Statement (Instr.andImm f) := ofWords rfl rfl rfl (fE_mkA ..)
theorem orImm (f : FBW) : Statement (Instr.orImm f) := ofWords rfl rfl rfl (fE_mkA ..)
theorem xorImm (f : FBW) : Statement (Instr.xorImm f) := ofWords rfl rfl rfl (fE_mkA ..)
theorem shlImm (f : FBW) : Statement (Instr.shlImm f) := ofWords rfl rfl rfl (fE_mkA ..)
theorem shrImm (f : FBW) : Statement (Instr.shrImm f) := ofWords rfl rfl rfl (fE_mkA ..)
theorem sarImm (f : FBW) : Statement (Instr.sarImm f) := ofWords rfl rfl rfl (fE_mkA ..)
theorem movi (f : FCW) : Statement (Instr.movi f) := ofWords rfl rfl rfl (fE_mkC ..)
theorem movl (f : FM) : Statement (Instr.movl f) := by
  obtain ⟨e, w, d, a, b, lo, hi⟩ := f
  cases w
  · exact ofWords rfl rfl rfl (fE_mkA ..)
  · exact ofWords rfl rfl rfl (fE_mkA ..)
theorem wbaseImm (f : FC) : Statement (Instr.wbaseImm f) := ofWords rfl rfl rfl (fE_mkC ..)
theorem wbaseReg (f : FA) : Statement (Instr.wbaseReg f) := ofWords rfl rfl rfl (fE_mkA ..)
theorem lea (f : FE) : Statement (Instr.lea f) := ofWords rfl rfl rfl (fE_mkA ..)
theorem fadd (f : FAW) : Statement (Instr.fadd f) := ofWords rfl rfl rfl (fE_mkA ..)
theorem fsub (f : FAW) : Statement (Instr.fsub f) := ofWords rfl rfl rfl (fE_mkA ..)
theorem fmul (f : FAW) : Statement (Instr.fmul f) := ofWords rfl rfl rfl (fE_mkA ..)
theorem fdiv (f : FAW) : Statement (Instr.fdiv f) := ofWords rfl rfl rfl (fE_mkA ..)
theorem fdiv2 (f : FAW) : Statement (Instr.fdiv2 f) := ofWords rfl rfl rfl (fE_mkA ..)
theorem ffma (f : FAW) : Statement (Instr.ffma f) := ofWords rfl rfl rfl (fE_mkA ..)
theorem fmin (f : FAW) : Statement (Instr.fmin f) := ofWords rfl rfl rfl (fE_mkA ..)
theorem fmax (f : FAW) : Statement (Instr.fmax f) := ofWords rfl rfl rfl (fE_mkA ..)
theorem fhull (f : FAW) : Statement (Instr.fhull f) := ofWords rfl rfl rfl (fE_mkA ..)
theorem fmeet (f : FAW) : Statement (Instr.fmeet f) := ofWords rfl rfl rfl (fE_mkA ..)
theorem fmake (f : FAW) : Statement (Instr.fmake f) := ofWords rfl rfl rfl (fE_mkA ..)
theorem fneg (f : FAW) : Statement (Instr.fneg f) := ofWords rfl rfl rfl (fE_mkA ..)
theorem fabs (f : FAW) : Statement (Instr.fabs f) := ofWords rfl rfl rfl (fE_mkA ..)
theorem fsqr (f : FAW) : Statement (Instr.fsqr f) := ofWords rfl rfl rfl (fE_mkA ..)
theorem fsqrt (f : FAW) : Statement (Instr.fsqrt f) := ofWords rfl rfl rfl (fE_mkA ..)
theorem frcp (f : FAW) : Statement (Instr.frcp f) := ofWords rfl rfl rfl (fE_mkA ..)
theorem frsq (f : FAW) : Statement (Instr.frsq f) := ofWords rfl rfl rfl (fE_mkA ..)
theorem fexp (f : FAW) : Statement (Instr.fexp f) := ofWords rfl rfl rfl (fE_mkA ..)
theorem fexp2 (f : FAW) : Statement (Instr.fexp2 f) := ofWords rfl rfl rfl (fE_mkA ..)
theorem flog (f : FAW) : Statement (Instr.flog f) := ofWords rfl rfl rfl (fE_mkA ..)
theorem flog2 (f : FAW) : Statement (Instr.flog2 f) := ofWords rfl rfl rfl (fE_mkA ..)
theorem fsin (f : FAW) : Statement (Instr.fsin f) := ofWords rfl rfl rfl (fE_mkA ..)
theorem fcos (f : FAW) : Statement (Instr.fcos f) := ofWords rfl rfl rfl (fE_mkA ..)
theorem ftanh (f : FAW) : Statement (Instr.ftanh f) := ofWords rfl rfl rfl (fE_mkA ..)
theorem flo (f : FAW) : Statement (Instr.flo f) := ofWords rfl rfl rfl (fE_mkA ..)
theorem fhi (f : FAW) : Statement (Instr.fhi f) := ofWords rfl rfl rfl (fE_mkA ..)
theorem fmid (f : FAW) : Statement (Instr.fmid f) := ofWords rfl rfl rfl (fE_mkA ..)
theorem frad (f : FAW) : Statement (Instr.frad f) := ofWords rfl rfl rfl (fE_mkA ..)
theorem fwid (f : FAW) : Statement (Instr.fwid f) := ofWords rfl rfl rfl (fE_mkA ..)
theorem fbis (f : FAW) : Statement (Instr.fbis f) := ofWords rfl rfl rfl (fE_mkA ..)
theorem fcmpLt (f : FAW) : Statement (Instr.fcmpLt f) := ofWords rfl rfl rfl (fE_mkA ..)
theorem fcmpLe (f : FAW) : Statement (Instr.fcmpLe f) := ofWords rfl rfl rfl (fE_mkA ..)
theorem fcmpGt (f : FAW) : Statement (Instr.fcmpGt f) := ofWords rfl rfl rfl (fE_mkA ..)
theorem fcmpGe (f : FAW) : Statement (Instr.fcmpGe f) := ofWords rfl rfl rfl (fE_mkA ..)
theorem fcmpEq (f : FAW) : Statement (Instr.fcmpEq f) := ofWords rfl rfl rfl (fE_mkA ..)
theorem fcmpNe (f : FAW) : Statement (Instr.fcmpNe f) := ofWords rfl rfl rfl (fE_mkA ..)
theorem fcmpSub (f : FAW) : Statement (Instr.fcmpSub f) := ofWords rfl rfl rfl (fE_mkA ..)
theorem fcmpIn (f : FAW) : Statement (Instr.fcmpIn f) := ofWords rfl rfl rfl (fE_mkA ..)
theorem fcmpDis (f : FAW) : Statement (Instr.fcmpDis f) := ofWords rfl rfl rfl (fE_mkA ..)
theorem fclass (f : FAW) : Statement (Instr.fclass f) := ofWords rfl rfl rfl (fE_mkA ..)
theorem cvtf (f : FAW) : Statement (Instr.cvtf f) := ofWords rfl rfl rfl (fE_mkA ..)
theorem cvti (f : FAW) : Statement (Instr.cvti f) := ofWords rfl rfl rfl (fE_mkA ..)
theorem cvfi (f : FAW) : Statement (Instr.cvfi f) := ofWords rfl rfl rfl (fE_mkA ..)
theorem cbx (f : FAW) : Statement (Instr.cbx f) := ofWords rfl rfl rfl (fE_mkA ..)
theorem cbq (f : FAW) : Statement (Instr.cbq f) := ofWords rfl rfl rfl (fE_mkA ..)
theorem cbld (f : FL) : Statement (Instr.cbld f) := ofWords rfl rfl rfl (fE_mkL ..)
theorem bra (f : FC) : Statement (Instr.bra f) := ofWords rfl rfl rfl (fE_mkC ..)
theorem brc (f : FC) : Statement (Instr.brc f) := ofWords rfl rfl rfl (fE_mkC ..)
theorem bmz (f : FC) : Statement (Instr.bmz f) := ofWords rfl rfl rfl (fE_mkC ..)
theorem bmnz (f : FC) : Statement (Instr.bmnz f) := ofWords rfl rfl rfl (fE_mkC ..)
theorem call (f : FC) : Statement (Instr.call f) := ofWords rfl rfl rfl (fE_mkC ..)
theorem ret (f : FA) : Statement (Instr.ret f) := ofWords rfl rfl rfl (fE_mkA ..)
theorem jmpi (f : FA) : Statement (Instr.jmpi f) := ofWords rfl rfl rfl (fE_mkA ..)
theorem exit (f : FA) : Statement (Instr.exit f) := ofWords rfl rfl rfl (fE_mkA ..)
theorem yield (f : FA) : Statement (Instr.yield f) := ofWords rfl rfl rfl (fE_mkA ..)
theorem waitcy (f : FA) : Statement (Instr.waitcy f) := ofWords rfl rfl rfl (fE_mkA ..)
theorem mif (f : FA) : Statement (Instr.mif f) := ofWords rfl rfl rfl (fE_mkA ..)
theorem melse (f : FA) : Statement (Instr.melse f) := ofWords rfl rfl rfl (fE_mkA ..)
theorem mund (f : FA) : Statement (Instr.mund f) := ofWords rfl rfl rfl (fE_mkA ..)
theorem mend (f : FA) : Statement (Instr.mend f) := ofWords rfl rfl rfl (fE_mkA ..)
theorem mwhile (f : FC) : Statement (Instr.mwhile f) := ofWords rfl rfl rfl (fE_mkC ..)
theorem mset (f : FA) : Statement (Instr.mset f) := ofWords rfl rfl rfl (fE_mkA ..)
theorem mget (f : FA) : Statement (Instr.mget f) := ofWords rfl rfl rfl (fE_mkA ..)
theorem pand (f : FA) : Statement (Instr.pand f) := ofWords rfl rfl rfl (fE_mkA ..)
theorem por (f : FA) : Statement (Instr.por f) := ofWords rfl rfl rfl (fE_mkA ..)
theorem pnot (f : FA) : Statement (Instr.pnot f) := ofWords rfl rfl rfl (fE_mkA ..)
theorem pxor (f : FA) : Statement (Instr.pxor f) := ofWords rfl rfl rfl (fE_mkA ..)
theorem psel (f : FAX) : Statement (Instr.psel f) := ofWords rfl rfl rfl (fE_mkA ..)
theorem pmov (f : FA) : Statement (Instr.pmov f) := ofWords rfl rfl rfl (fE_mkA ..)
theorem ptoi (f : FA) : Statement (Instr.ptoi f) := ofWords rfl rfl rfl (fE_mkA ..)
theorem itop (f : FA) : Statement (Instr.itop f) := ofWords rfl rfl rfl (fE_mkA ..)
theorem vote (f : FA) : Statement (Instr.vote f) := ofWords rfl rfl rfl (fE_mkA ..)
theorem redi (f : FA) : Statement (Instr.redi f) := ofWords rfl rfl rfl (fE_mkA ..)
theorem redf (f : FA) : Statement (Instr.redf f) := ofWords rfl rfl rfl (fE_mkA ..)
theorem scan (f : FA) : Statement (Instr.scan f) := ofWords rfl rfl rfl (fE_mkA ..)
theorem shfl (f : FA) : Statement (Instr.shfl f) := ofWords rfl rfl rfl (fE_mkA ..)
theorem qxch (f : FA) : Statement (Instr.qxch f) := ofWords rfl rfl rfl (fE_mkA ..)
theorem qbc (f : FA) : Statement (Instr.qbc f) := ofWords rfl rfl rfl (fE_mkA ..)
theorem ld (f : FL) : Statement (Instr.ld f) := ofWords rfl rfl rfl (fE_mkL ..)
theorem ldOffset (f : FLX) : Statement (Instr.ldOffset f) := ofWords rfl rfl rfl (fE_mkL ..)
theorem st (f : FL) : Statement (Instr.st f) := ofWords rfl rfl rfl (fE_mkL ..)
theorem stOffset (f : FLX) : Statement (Instr.stOffset f) := ofWords rfl rfl rfl (fE_mkL ..)
theorem ldv (f : FL) : Statement (Instr.ldv f) := ofWords rfl rfl rfl (fE_mkL ..)
theorem ldvOffset (f : FLX) : Statement (Instr.ldvOffset f) := ofWords rfl rfl rfl (fE_mkL ..)
theorem stv (f : FL) : Statement (Instr.stv f) := ofWords rfl rfl rfl (fE_mkL ..)
theorem stvOffset (f : FLX) : Statement (Instr.stvOffset f) := ofWords rfl rfl rfl (fE_mkL ..)
theorem ldn (f : FL) : Statement (Instr.ldn f) := ofWords rfl rfl rfl (fE_mkL ..)
theorem ldnOffset (f : FLX) : Statement (Instr.ldnOffset f) := ofWords rfl rfl rfl (fE_mkL ..)
theorem stn (f : FL) : Statement (Instr.stn f) := ofWords rfl rfl rfl (fE_mkL ..)
theorem stnOffset (f : FLX) : Statement (Instr.stnOffset f) := ofWords rfl rfl rfl (fE_mkL ..)
theorem lds (f : FL) : Statement (Instr.lds f) := ofWords rfl rfl rfl (fE_mkL ..)
theorem ldsOffset (f : FLX) : Statement (Instr.ldsOffset f) := ofWords rfl rfl rfl (fE_mkL ..)
theorem sts (f : FL) : Statement (Instr.sts f) := ofWords rfl rfl rfl (fE_mkL ..)
theorem stsOffset (f : FLX) : Statement (Instr.stsOffset f) := ofWords rfl rfl rfl (fE_mkL ..)
theorem ldg (f : FLX) : Statement (Instr.ldg f) := ofWords rfl rfl rfl (fE_mkL ..)
theorem stg (f : FLX) : Statement (Instr.stg f) := ofWords rfl rfl rfl (fE_mkL ..)
theorem ldl (f : FL) : Statement (Instr.ldl f) := ofWords rfl rfl rfl (fE_mkL ..)
theorem stl (f : FL) : Statement (Instr.stl f) := ofWords rfl rfl rfl (fE_mkL ..)
theorem ncvt (f : FA) : Statement (Instr.ncvt f) := ofWords rfl rfl rfl (fE_mkA ..)
theorem pref (f : FA) : Statement (Instr.pref f) := ofWords rfl rfl rfl (fE_mkA ..)
theorem prefOffset (f : FAX) : Statement (Instr.prefOffset f) := ofWords rfl rfl rfl (fE_mkA ..)
theorem smap (f : FAX) : Statement (Instr.smap f) := ofWords rfl rfl rfl (fE_mkA ..)
theorem sunmap (f : FA) : Statement (Instr.sunmap f) := ofWords rfl rfl rfl (fE_mkA ..)
theorem aadd (f : FL) : Statement (Instr.aadd f) := ofWords rfl rfl rfl (fE_mkL ..)
theorem amin (f : FL) : Statement (Instr.amin f) := ofWords rfl rfl rfl (fE_mkL ..)
theorem amax (f : FL) : Statement (Instr.amax f) := ofWords rfl rfl rfl (fE_mkL ..)
theorem aand (f : FL) : Statement (Instr.aand f) := ofWords rfl rfl rfl (fE_mkL ..)
theorem aor (f : FL) : Statement (Instr.aor f) := ofWords rfl rfl rfl (fE_mkL ..)
theorem axor (f : FL) : Statement (Instr.axor f) := ofWords rfl rfl rfl (fE_mkL ..)
theorem axchg (f : FL) : Statement (Instr.axchg f) := ofWords rfl rfl rfl (fE_mkL ..)
theorem acas (f : FL) : Statement (Instr.acas f) := ofWords rfl rfl rfl (fE_mkL ..)
theorem ainc (f : FL) : Statement (Instr.ainc f) := ofWords rfl rfl rfl (fE_mkL ..)
theorem adec (f : FL) : Statement (Instr.adec f) := ofWords rfl rfl rfl (fE_mkL ..)
theorem afadd (f : FL) : Statement (Instr.afadd f) := ofWords rfl rfl rfl (fE_mkL ..)
theorem afmin (f : FL) : Statement (Instr.afmin f) := ofWords rfl rfl rfl (fE_mkL ..)
theorem afmax (f : FL) : Statement (Instr.afmax f) := ofWords rfl rfl rfl (fE_mkL ..)
theorem bar (f : FA) : Statement (Instr.bar f) := ofWords rfl rfl rfl (fE_mkA ..)
theorem barc (f : FA) : Statement (Instr.barc f) := ofWords rfl rfl rfl (fE_mkA ..)
theorem bufdef (f : FAX) : Statement (Instr.bufdef f) := ofWords rfl rfl rfl (fE_mkA ..)
theorem bufwait (f : FA) : Statement (Instr.bufwait f) := ofWords rfl rfl rfl (fE_mkA ..)
theorem buffree (f : FA) : Statement (Instr.buffree f) := ofWords rfl rfl rfl (fE_mkA ..)
theorem cpygo (f : FA) : Statement (Instr.cpygo f) := ofWords rfl rfl rfl (fE_mkA ..)
theorem cpyst (f : FA) : Statement (Instr.cpyst f) := ofWords rfl rfl rfl (fE_mkA ..)
theorem publ (f : FA) : Statement (Instr.publ f) := ofWords rfl rfl rfl (fE_mkA ..)
theorem region (f : FA) : Statement (Instr.region f) := ofWords rfl rfl rfl (fE_mkA ..)
theorem commit (f : FA) : Statement (Instr.commit f) := ofWords rfl rfl rfl (fE_mkA ..)
theorem waitc (f : FAX) : Statement (Instr.waitc f) := ofWords rfl rfl rfl (fE_mkA ..)
theorem sigc (f : FA) : Statement (Instr.sigc f) := ofWords rfl rfl rfl (fE_mkA ..)
theorem macq (f : FA) : Statement (Instr.macq f) := ofWords rfl rfl rfl (fE_mkA ..)
theorem mrel (f : FA) : Statement (Instr.mrel f) := ofWords rfl rfl rfl (fE_mkA ..)
theorem mldb (f : FL) : Statement (Instr.mldb f) := ofWords rfl rfl rfl (fE_mkL ..)
theorem mma (f : FL) : Statement (Instr.mma f) := ofWords rfl rfl rfl (fE_mkL ..)
theorem mmar (f : FL) : Statement (Instr.mmar f) := ofWords rfl rfl rfl (fE_mkL ..)
theorem mmaPair (f : FL) : Statement (Instr.mmaPair f) := ofWords rfl rfl rfl (fE_mkL ..)
theorem mmarPair (f : FL) : Statement (Instr.mmarPair f) := ofWords rfl rfl rfl (fE_mkL ..)
theorem mzero (f : FA) : Statement (Instr.mzero f) := ofWords rfl rfl rfl (fE_mkA ..)
theorem mstore (f : FL) : Statement (Instr.mstore f) := ofWords rfl rfl rfl (fE_mkL ..)
theorem mloadc (f : FL) : Statement (Instr.mloadc f) := ofWords rfl rfl rfl (fE_mkL ..)
theorem msave (f : FL) : Statement (Instr.msave f) := ofWords rfl rfl rfl (fE_mkL ..)
theorem mrst (f : FL) : Statement (Instr.mrst f) := ofWords rfl rfl rfl (fE_mkL ..)
theorem mstat (f : FA) : Statement (Instr.mstat f) := ofWords rfl rfl rfl (fE_mkA ..)
theorem mcbk (f : FL) : Statement (Instr.mcbk f) := ofWords rfl rfl rfl (fE_mkL ..)
theorem mdep (f : FA) : Statement (Instr.mdep f) := ofWords rfl rfl rfl (fE_mkA ..)
theorem split (f : FBW) : Statement (Instr.split f) := ofWords rfl rfl rfl (fE_mkA ..)
theorem fork (f : FB) : Statement (Instr.fork f) := ofWords rfl rfl rfl (fE_mkA ..)
theorem take (f : FB) : Statement (Instr.take f) := ofWords rfl rfl rfl (fE_mkA ..)
theorem hstat (f : FA) : Statement (Instr.hstat f) := ofWords rfl rfl rfl (fE_mkA ..)
theorem launch (f : FL) : Statement (Instr.launch f) := ofWords rfl rfl rfl (fE_mkL ..)
theorem lstat (f : FA) : Statement (Instr.lstat f) := ofWords rfl rfl rfl (fE_mkA ..)
theorem nop (f : FA) : Statement (Instr.nop f) := ofWords rfl rfl rfl (fE_mkA ..)
theorem trl (f : FT) : Statement (Instr.trl f) := ofWords rfl rfl rfl (fE_mkT ..)
theorem trap (f : FC) : Statement (Instr.trap f) := ofWords rfl rfl rfl (fE_mkC ..)
theorem tret (f : FA) : Statement (Instr.tret f) := ofWords rfl rfl rfl (fE_mkA ..)
theorem rdsr (f : FC) : Statement (Instr.rdsr f) := ofWords rfl rfl rfl (fE_mkC ..)
theorem wrsr (f : FC) : Statement (Instr.wrsr f) := ofWords rfl rfl rfl (fE_mkC ..)
theorem ldio (f : FL) : Statement (Instr.ldio f) := ofWords rfl rfl rfl (fE_mkL ..)
theorem stio (f : FL) : Statement (Instr.stio f) := ofWords rfl rfl rfl (fE_mkL ..)
theorem wfe (f : FA) : Statement (Instr.wfe f) := ofWords rfl rfl rfl (fE_mkA ..)
theorem halt (f : FA) : Statement (Instr.halt f) := ofWords rfl rfl rfl (fE_mkA ..)
theorem pipeSelect (core : Nat) (pipe : Nat) : Statement (Instr.pipeSelect core pipe) := rfl
theorem longLatencyArrival (tk : Nat) (id : Nat) : Statement (Instr.longLatencyArrival tk id) := rfl
theorem registerRefill (tk : Nat) : Statement (Instr.registerRefill tk) := rfl
theorem regionCommit (tk : Nat) : Statement (Instr.regionCommit tk) := rfl
theorem conflict (tk : Nat) (idx : Nat) : Statement (Instr.conflict tk idx) := rfl
theorem exclDeferralExpiry (die : Nat) : Statement (Instr.exclDeferralExpiry die) := rfl
theorem orderInversion (tk : Nat) : Statement (Instr.orderInversion tk) := rfl
theorem priorityAgeing (tk : Nat) : Statement (Instr.priorityAgeing tk) := rfl
theorem cycleReached (tk : Nat) : Statement (Instr.cycleReached tk) := rfl
theorem groupAdmit : Statement (Instr.groupAdmit) := rfl
theorem swapwaitExpiry (gid : Nat) : Statement (Instr.swapwaitExpiry gid) := rfl
theorem groupSave (gid : Nat) : Statement (Instr.groupSave gid) := rfl
theorem groupRestore (gid : Nat) : Statement (Instr.groupRestore gid) := rfl
theorem groupFree (gid : Nat) : Statement (Instr.groupFree gid) := rfl
theorem hamperRefill (gid : Nat) (bin : Nat) : Statement (Instr.hamperRefill gid bin) := rfl
theorem forageRequest (seq : Nat) (die : Nat) (bin : Nat) : Statement (Instr.forageRequest seq die bin) := rfl
theorem forageTransferArrival (seq : Nat) (die : Nat) : Statement (Instr.forageTransferArrival seq die) := rfl
theorem forageRestart (seq : Nat) (die : Nat) : Statement (Instr.forageRestart seq die) := rfl
theorem ringPathLost (a : Nat) (b : Nat) : Statement (Instr.ringPathLost a b) := rfl
theorem quiescenceSweep : Statement (Instr.quiescenceSweep) := rfl
theorem copyRecord (cid : Nat) : Statement (Instr.copyRecord cid) := rfl
theorem scratchArrival (cid : Nat) : Statement (Instr.scratchArrival cid) := rfl
theorem sluiceStep (cid : Nat) : Statement (Instr.sluiceStep cid) := rfl
theorem counterReread (tk : Nat) : Statement (Instr.counterReread tk) := rfl
theorem matrixOpBegin (core : Nat) : Statement (Instr.matrixOpBegin core) := rfl
theorem matrixOccupancyEnd (core : Nat) : Statement (Instr.matrixOccupancyEnd core) := rfl
theorem matrixOpRetire (core : Nat) : Statement (Instr.matrixOpRetire core) := rfl
theorem mdepDecrement (core : Nat) : Statement (Instr.mdepDecrement core) := rfl
theorem launchAcceptance (gid : Nat) : Statement (Instr.launchAcceptance gid) := rfl
theorem qheadWrite (q : Nat) (v : BitVec 64) : Statement (Instr.qheadWrite q v) := rfl
theorem qctlWrite (q : Nat) (v : BitVec 64) : Statement (Instr.qctlWrite q v) := rfl
theorem qstatHaltClear (q : Nat) : Statement (Instr.qstatHaltClear q) := rfl
theorem launchCommand (q : Nat) : Statement (Instr.launchCommand q) := rfl
theorem copyCommand (q : Nat) : Statement (Instr.copyCommand q) := rfl
theorem waitcCommand (q : Nat) : Statement (Instr.waitcCommand q) := rfl
theorem sigcCommand (q : Nat) : Statement (Instr.sigcCommand q) := rfl
theorem markCmd (q : Nat) : Statement (Instr.markCmd q) := rfl
theorem tresumeResume (tag : Nat) : Statement (Instr.tresumeResume tag) := rfl
theorem tresumeFail (tag : Nat) : Statement (Instr.tresumeFail tag) := rfl
theorem faultRecordWrite : Statement (Instr.faultRecordWrite) := rfl
theorem tlbinvPage (ctx : Nat) (va : Nat) : Statement (Instr.tlbinvPage ctx va) := rfl
theorem tlbinvContext (ctx : Nat) : Statement (Instr.tlbinvContext ctx) := rfl
theorem tlbinvAll : Statement (Instr.tlbinvAll) := rfl
theorem tlbinvDone : Statement (Instr.tlbinvDone) := rfl
theorem registerWrite (off : Nat) (v : BitVec 64) (tee : Bool) : Statement (Instr.registerWrite off v tee) := rfl
theorem measureMailboxWrite (off : Nat) (v : BitVec 64) : Statement (Instr.measureMailboxWrite off v) := rfl
theorem mregExtend (i : Nat) : Statement (Instr.mregExtend i) := rfl
theorem mlockWrite (v : BitVec 64) : Statement (Instr.mlockWrite v) := rfl
theorem otpProgramOwner : Statement (Instr.otpProgramOwner) := rfl
theorem otpRevokeOwner : Statement (Instr.otpRevokeOwner) := rfl
theorem otpRevokeVendor : Statement (Instr.otpRevokeVendor) := rfl
theorem otpSvnRaise (v : Nat) : Statement (Instr.otpSvnRaise v) := rfl
theorem moduleReset : Statement (Instr.moduleReset) := rfl
theorem pwrctlWrite (v : BitVec 64) : Statement (Instr.pwrctlWrite v) := rfl
theorem vcoreWrite (die : Nat) (v : BitVec 64) : Statement (Instr.vcoreWrite die v) := rfl
theorem ctlrstWrite (v : BitVec 64) : Statement (Instr.ctlrstWrite v) := rfl
theorem evdbWrite (ctl : Nat) : Statement (Instr.evdbWrite ctl) := rfl
theorem hostenWrite (v : BitVec 64) : Statement (Instr.hostenWrite v) := rfl
theorem dramTrainStart (stack : Nat) (step : Nat) : Statement (Instr.dramTrainStart stack step) := rfl
theorem dramTrainAbort (stack : Nat) : Statement (Instr.dramTrainAbort stack) := rfl
theorem dramTrainDone (stack : Nat) (fail : BitVec 128) : Statement (Instr.dramTrainDone stack fail) := rfl
theorem dramTrainTimeout (stack : Nat) : Statement (Instr.dramTrainTimeout stack) := rfl
theorem dmenWrite (stack : Nat) (v : BitVec 64) : Statement (Instr.dmenWrite stack v) := rfl
theorem linkTrainStart (port : Nat) (step : Nat) : Statement (Instr.linkTrainStart port step) := rfl
theorem linkTrainAbort (port : Nat) : Statement (Instr.linkTrainAbort port) := rfl
theorem linkTrainDone (port : Nat) (pass : Bool) (peer : Nat) : Statement (Instr.linkTrainDone port pass peer) := rfl
theorem linkTrainTimeout (port : Nat) : Statement (Instr.linkTrainTimeout port) := rfl
theorem clockModeWrite (pair : Nat) (v : BitVec 64) : Statement (Instr.clockModeWrite pair v) := rfl
theorem clockRelockDone (pair : Nat) : Statement (Instr.clockRelockDone pair) := rfl
theorem meteredClockHalt (pair : Nat) (mv : Nat) : Statement (Instr.meteredClockHalt pair mv) := rfl
theorem meteredClockResume (pair : Nat) (mv : Nat) : Statement (Instr.meteredClockResume pair mv) := rfl
theorem coreHotSet (core : Nat) (temp : BitVec 12) (win : BitVec 16) : Statement (Instr.coreHotSet core temp win) := rfl
theorem coreHotClear (core : Nat) (temp : BitVec 12) (win : BitVec 16) : Statement (Instr.coreHotClear core temp win) := rfl
theorem softError (e : SoftErr) : Statement (Instr.softError e) := rfl
theorem hostAccess (h : HostReq) : Statement (Instr.hostAccess h) := rfl
theorem hostSnoop (addr : Nat) : Statement (Instr.hostSnoop addr) := rfl
theorem birsp (line : Nat) (data : List Byte) : Statement (Instr.birsp line data) := rfl
theorem birspTimeout (line : Nat) : Statement (Instr.birspTimeout line) := rfl
theorem flr : Statement (Instr.flr) := rfl
theorem flrDrainDeadline : Statement (Instr.flrDrainDeadline) := rfl
theorem flrZeroDone : Statement (Instr.flrZeroDone) := rfl
theorem flitReceive (port : Nat) (flit : List Byte) : Statement (Instr.flitReceive port flit) := rfl
theorem portDown (port : Nat) (cause : Nat) : Statement (Instr.portDown port cause) := rfl
theorem rdl (port : Nat) (m : Msg) : Statement (Instr.rdl port m) := rfl
theorem wrl (port : Nat) (m : Msg) : Statement (Instr.wrl port m) := rfl
theorem dataMsg (port : Nat) (m : Msg) : Statement (Instr.dataMsg port m) := rfl
theorem ack (port : Nat) (m : Msg) : Statement (Instr.ack port m) := rfl
theorem pgs (port : Nat) (m : Msg) : Statement (Instr.pgs port m) := rfl
theorem pgm (port : Nat) (m : Msg) : Statement (Instr.pgm port m) := rfl
theorem grant (port : Nat) (m : Msg) : Statement (Instr.grant port m) := rfl
theorem recallMsg (port : Nat) (m : Msg) : Statement (Instr.recallMsg port m) := rfl
theorem retn (port : Nat) (m : Msg) : Statement (Instr.retn port m) := rfl
theorem atom (port : Nat) (m : Msg) : Statement (Instr.atom port m) := rfl
theorem nack (port : Nat) (m : Msg) : Statement (Instr.nack port m) := rfl
theorem recallRetransmit (page : Nat) : Statement (Instr.recallRetransmit page) := rfl
theorem spdmRequest (code : Nat) : Statement (Instr.spdmRequest code) := rfl
theorem powerGoodChange (v : BitVec 64) : Statement (Instr.powerGoodChange v) := rfl
theorem droopLevelTrip (pair : Nat) (mv : Nat) : Statement (Instr.droopLevelTrip pair mv) := rfl

end Sys2Proof.Laws.WordForm

namespace Sys2Proof.Laws
open WordForm Sys2Proof
theorem WordForm.seal (f : FL) : Statement (Instr.seal f) := ofWords rfl rfl rfl (fE_mkL ..)
theorem WordForm.unseal (f : FA) : Statement (Instr.unseal f) := ofWords rfl rfl rfl (fE_mkA ..)
end Sys2Proof.Laws
end

