-- ==== Sys2Proof/Laws/Words.lean ====
section
/-! SUPPORT. What the shared bodies of words do, said once: a word that issues acts; lane-by-lane words. -/
namespace Sys2Proof.Laws
open Sys2Proof.Machine Sys2Proof.Safety

/-- A word that issues and whose body acts. -/
theorem word_acts {i : Instr} {s : State} {tk : Nat} {srcs : List Reg} {body : State → Nat → Nat → WRes} {s' : State} {f e r : Nat}
    (h : Issues s tk i srcs) (hb : body s tk (s.team tk).clk = .done s' f e r) :
    word i s srcs body = .next { finishWord s' tk i f e r with cur := none } := by
  obtain ⟨hc, hw, hz, hs⟩ := h
  simp [word, hc, issueWord, hw, hz, hs, hb]
/-- What a word's body does not complete. -/
theorem word_traps {i : Instr} {s : State} {tk : Nat} {srcs : List Reg} {body : State → Nat → Nat → WRes} {s' : State} {c : Nat}
    {a : Word} {d hi k : Nat} (h : Issues s tk i srcs) (hb : body s tk (s.team tk).clk = .trap s' c a d hi k) :
    word i s srcs body = .next { trapEntry s' tk c a d hi k with cur := none } := by
  obtain ⟨hc, hw, hz, hs⟩ := h
  simp [word, hc, issueWord, hw, hz, hs, hb]

theorem flagsOf_nil (k : Nat) : flagsOf [] k = 0 := rfl
theorem flagsOf_cons (c : Nat × LaneOut) (r : List (Nat × LaneOut)) (k : Nat) :
    flagsOf (c :: r) k = (if c.1 == k then c.2.flags else 0) ||| flagsOf r k := by
  unfold flagsOf
  by_cases h : c.1 == k
  · rw [List.filter_cons_of_pos (by simpa using h), List.foldl_cons, foldl_or (fun x : Nat × LaneOut => x.2.flags) _ (0 ||| c.2.flags)]
    simp [h]
  · rw [List.filter_cons_of_neg (by simpa using h)]; simp [h]
theorem flagsOf_append (a b : List (Nat × LaneOut)) (k : Nat) : flagsOf (a ++ b) k = flagsOf a k ||| flagsOf b k := by
  induction a with
  | nil => simp [flagsOf_nil]
  | cons c r ih => rw [List.cons_append, flagsOf_cons, flagsOf_cons, ih, BitVec.or_assoc]
theorem flagsOf_map (ls : List Nat) (p : List (Reg × Tri)) (f : Flags) (k : Nat) :
    flagsOf (ls.map fun l => (l, ({ preds := p, flags := f } : LaneOut))) k =
      (ls.map fun l => (l, f)).foldl (fun (a : Flags) (x : Nat × Flags) => if x.1 == k then a ||| x.2 else a) 0 := by
  suffices h : ∀ a : Flags, a ||| flagsOf (ls.map fun l => (l, ({ preds := p, flags := f } : LaneOut))) k =
      (ls.map fun l => (l, f)).foldl (fun (a : Flags) (x : Nat × Flags) => if x.1 == k then a ||| x.2 else a) a by
    rw [← h 0]; simp
  induction ls with
  | nil => intro a; simp [flagsOf_nil]
  | cons c r ih =>
    intro a
    rw [List.map_cons, flagsOf_cons, List.map_cons, List.foldl_cons, ← ih, ← BitVec.or_assoc]
    by_cases h : c == k <;> simp [h]
theorem filter_fold (ws : List (Nat × Flags)) (k : Nat) (a : Flags) :
    (ws.filter fun x => x.1 == k).foldl (fun a x => a ||| x.2) a = ws.foldl (fun a x => if x.1 == k then a ||| x.2 else a) a := by
  induction ws generalizing a with
  | nil => rfl
  | cons c r ih =>
    by_cases h : c.1 == k
    · rw [List.filter_cons_of_pos (by simpa using h), List.foldl_cons, List.foldl_cons, ih]; simp [h]
    · rw [List.filter_cons_of_neg (by simpa using h), List.foldl_cons, ih]; simp [h]
theorem regWrites_noRegs (t : Team) (ls : List Nat) (g : Nat → LaneOut) (h : ∀ l, (g l).regs = []) :
    regWrites t (ls.map fun l => (l, g l)) = [] := by
  induction ls with
  | nil => rfl
  | cons c r ih => unfold regWrites at *; rw [List.map_cons, List.flatMap_cons, ih, h]; rfl
theorem predWrites_map (ls : List Nat) (p : List (Reg × Tri)) (f : Flags) :
    predWrites (ls.map fun l => (l, ({ preds := p, flags := f } : LaneOut))) =
      ls.flatMap fun l => p.map fun y => (y.1.toNat * 1024 + l, y.2) := by
  unfold predWrites
  induction ls with
  | nil => rfl
  | cons c r ih => rw [List.map_cons, List.flatMap_cons, ih, List.flatMap_cons]

theorem regAtPlace_congr {t u : Team} (hv : u.v = t.v) (hs : u.s = t.s) (ht : u.t = t.t) (x : Nat × Nat) :
    regAtPlace u x = regAtPlace t x := by unfold regAtPlace; rw [hv, hs, ht]
/-- What a scalar-class word leaves: registers written once, predicates and flags in every active lane. -/
theorem did_scalar (t : Team) (o : LaneOut) (c : CC) (u x : Team) (hx : x = writeRegs t (toRes t 0 o).w)
    (hu : u = { x with p := u.p, fl := u.fl, cc := c })
    (hp : ∀ k, tget .f u.p k = lastAt ((activeLanes t).flatMap fun l => o.preds.map fun y => (y.1.toNat * 1024 + l, y.2)) k (tget .f t.p k))
    (hf : ∀ k, tget 0 u.fl k = ((activeLanes t).map fun l => (l, o.flags)).foldl (fun a x => if x.1 == k then a ||| x.2 else a) (tget 0 t.fl k)) :
    Did { t with cc := c } u (scalarLanes t o) := by
  have e : x = { t with v := x.v, s := x.s, t := x.t, inflight := x.inflight, alloc := x.alloc, salloc := x.salloc,
                        nextVer := x.nextVer } := by rw [hx]; exact writeRegs_eq t _
  have hi : x.inflight.map (·.id) = t.inflight.map (·.id) := by rw [hx]; exact writeRegs_ids t _
  have hr : ∀ k, regAtPlace x k = lastAt (o.regs.map fun y => (regPlace t y.1 0, y.2)) k (regAtPlace t k) := by
    intro k; rw [hx, regAtPlace_writeRegs, placed_toRes]
  clear hx
  refine ⟨?_, ?_, ?_, ?_, ?_⟩
  · rw [hu]; rw [e]
  · rw [hu]; exact hi
  · intro k
    rw [regAtPlace_congr (t := x) (by rw [hu]) (by rw [hu]) (by rw [hu])]
    have h2 := regWrites_noRegs { t with cc := c } (activeLanes t) (fun l => { preds := o.preds, flags := o.flags }) fun _ => rfl
    unfold scalarLanes
    unfold regWrites at *
    rw [List.flatMap_cons, lastAt_append, h2]
    exact hr k
  · intro k
    rw [hp]
    have h2 := predWrites_map (activeLanes t) o.preds o.flags
    unfold scalarLanes
    unfold predWrites at *
    rw [List.flatMap_cons, h2]
    rfl
  · intro k
    rw [hf, ← filter_fold, foldl_or (fun x : Nat × Flags => x.2), filter_fold]
    unfold scalarLanes
    rw [flagsOf_cons, flagsOf_map]
    simp only [ite_self]
    rw [show ∀ y : Flags, 0 ||| y = y from fun y => BitVec.zero_or]
theorem no_flags (ls : List Nat) (k : Nat) (a : Flags) :
    (ls.map fun l => (l, (0 : Flags))).foldl (fun a x => if x.1 == k then a ||| x.2 else a) a = a := by
  induction ls generalizing a with
  | nil => rfl
  | cons c r ih => rw [List.map_cons, List.foldl_cons, show a ||| (c, (0 : Flags)).2 = a from BitVec.or_zero, ite_self]; exact ih a
/-- The same for a word that writes registers alone. -/
theorem did_scalar_regs (t : Team) (rs : List (Reg × Word)) (c : CC) :
    Did { t with cc := c } { writeRegs t (toRes t 0 { regs := rs }).w with cc := c } (scalarLanes t { regs := rs }) := by
  refine did_scalar t _ c _ _ rfl rfl ?_ ?_
  · intro k
    show tget .f (writeRegs t _).p k = _
    rw [writeRegs_p]
    have : (activeLanes t).flatMap (fun _ => ([] : List (Nat × Tri))) = [] := by simp
    simp only [List.map_nil, this, lastAt_nil]
  · intro k
    show tget 0 (writeRegs t _).fl k = _
    rw [writeRegs_fl, no_flags]

/-- A word whose body is `laneWord` does what its lanes compute (R197, R198). -/
theorem laneWord_claim (i : Instr) (srcs rs : List Reg) (d : Reg) (w cb : Bool) (ivl rdy : Nat) (g : Team → Nat → Nat → IRes)
    (out : Team → Nat → Nat → LaneOut) (cc : Team → CC)
    (hi : ∀ s, exec i s = word i s srcs (laneWord d rs w cb ivl rdy g))
    (ho : ∀ t c l, out t c l = { regs := [(d, wRes w (g t c l).val)] })
    (hc : ∀ t, cc t = if cb then ccOf w t.cc (g t t.clk 0) else t.cc) :
    LaneClaim i srcs rs (fun _ _ _ => ivl) rdy out cc := by
  intro s tk hs
  show if scalarClass tk rs then _ else _
  have res : ∀ c l, ({ w := regW (s.team tk) l d (wRes w (g (s.team tk) c l).val) } : LaneRes) = toRes (s.team tk) l (out (s.team tk) c l) := by
    intro c l; rw [ho]; rfl
  split
  · next h =>
    refine ⟨{ writeRegs (s.team tk) (regW (s.team tk) 0 d (wRes w (g (s.team tk) (s.team tk).clk 0).val)) with cc := cc (s.team tk) }, ?_, ?_⟩
    · unfold Acts
      rw [hi]
      refine word_acts hs ?_
      unfold laneWord
      simp only [h, if_true, once]
      rw [hc]
      cases cb
      · simp only [Bool.false_eq_true, if_false]
        have e := writeRegs_cc (s.team tk) (regW (s.team tk) 0 d (wRes w (g (s.team tk) (s.team tk).clk 0).val))
        rw [← e]
      · simp only [if_true]
        rw [writeRegs_cc]
    · have := did_scalar_regs (s.team tk) [(d, wRes w (g (s.team tk) (s.team tk).clk 0).val)] (cc (s.team tk))
      rw [ho]
      exact this
  · next h =>
    refine ⟨_, ?_, did_applyLanes (s.team tk) _⟩
    unfold Acts
    rw [hi]
    refine word_acts hs ?_
    unfold laneWord
    simp only [h, swept, Bool.false_eq_true, if_false]
    rw [List.map_map]
    have e : ∀ c l, toRes (s.team tk) l (out (s.team tk) c l) = _ := fun c l => (res c l).symm
    simp only [Function.comp_def, e]
/-- A word whose body is `floatWord` does what its lanes compute (R225, R226). -/
theorem floatWord_claim (i : Instr) (srcs rs : List Reg) (ivl : Team → Nat → Nat → Nat) (rdy : Nat) (g : Team → Nat → Nat → LaneRes)
    (out : Team → Nat → Nat → LaneOut)
    (hi : ∀ s, exec i s = word i s srcs (floatWord rs ivl rdy g))
    (ho : ∀ t c l, g t c l = toRes t l (out t c l)) (hp : ∀ t c l, (out t c l).preds = []) :
    LaneClaim i srcs rs ivl rdy out (fun t => t.cc) := by
  intro s tk hs
  show if scalarClass tk rs then _ else _
  split
  · next h =>
    let t1 := writeRegs (s.team tk) (toRes (s.team tk) 0 (out (s.team tk) (s.team tk).clk 0)).w
    refine ⟨if (out (s.team tk) (s.team tk).clk 0).flags == 0 then t1 else raiseFlags t1 ((activeLanes (s.team tk)).map fun l => (l, (out (s.team tk) (s.team tk).clk 0).flags)), ?_, ?_⟩
    · unfold Acts
      rw [hi]
      refine word_acts hs ?_
      unfold floatWord
      simp only [h, if_true, once]
      rw [ho]
      rfl
    · have e : t1.cc = (s.team tk).cc := writeRegs_cc (s.team tk) _
      refine did_scalar (s.team tk) _ (s.team tk).cc _ t1 rfl ?_ ?_ ?_
      · split <;> rw [← e] <;> rfl
      · intro k
        have hq : (activeLanes (s.team tk)).flatMap (fun _ => ([] : List (Nat × Tri))) = [] := by simp
        simp only [hp, List.map_nil, hq, lastAt_nil]
        have e2 : t1.p = (s.team tk).p := writeRegs_p (s.team tk) _
        split
        · rw [e2]
        · show tget .f t1.p k = _; rw [e2]
      · intro k
        have e2 : t1.fl = (s.team tk).fl := writeRegs_fl (s.team tk) _
        split
        · next h0 => rw [eq_of_beq h0, no_flags, e2]
        · show tget 0 (((activeLanes (s.team tk)).map fun l => (l, (out (s.team tk) (s.team tk).clk 0).flags)).foldl (fun m x => tset 0 m x.1 (tget 0 m x.1 ||| x.2)) t1.fl) k = _
          rw [tget_raise, e2, filter_fold]
  · next h =>
    refine ⟨_, ?_, did_applyLanes (s.team tk) _⟩
    unfold Acts
    rw [hi]
    refine word_acts hs ?_
    unfold floatWord
    simp only [h, swept, Bool.false_eq_true, if_false]
    rw [List.map_map]
    simp only [Function.comp_def, ho]
/-- A word whose body is `predWord` does what its lanes compute (R220). -/
theorem predWord_claim (i : Instr) (d : Reg) (g : Team → Nat → Nat → Tri) (out : Team → Nat → Nat → LaneOut)
    (hi : ∀ s, exec i s = word i s [] (predWord d g)) (ho : ∀ t c l, out t c l = { preds := [(d, g t c l)] }) :
    PerLaneClaim i [] 1 1 out := by
  intro s tk hs
  refine ⟨_, ?_, did_applyLanes (s.team tk) _⟩
  unfold Acts
  rw [hi]
  refine word_acts hs ?_
  unfold predWord
  simp only [swept]
  rw [List.map_map]
  simp only [Function.comp_def, ho]
  rfl

end Sys2Proof.Laws
end

