-- ==== Sys2Proof/Tests/Slice0.lean ====
section
/-! SUPPORT. Tests: ill-formed words, words written out from the spec's encodings, witnesses of the statements'
hypotheses, and single steps against the spec's examples. -/
namespace Sys2Proof.Tests
set_option Elab.async false
open Sys2Proof Sys2Proof.Machine Sys2Proof.Safety Sys2Proof.Claims

/-- A small machine: one team of 8 live lanes about to issue, in one group that holds a hamper and is the even half of a
cluster; die 0's memory enabled, granted and mapped onto itself. -/
def grp : Group := { plGroup 0 with mate := some 7 }
def tm : Team :=
  { Team.none with gid := 0, st := .issuing, live := 255, mask := 255, hvec := 0x200800, pc := 0x200000, wordPc := 0x200000,
                   nextPc := 0x200004, clk := 5, pipe := some 0 }
def mach (t : Team) : State :=
  { State.reset with
    teams := [(0, t)], groups := [(0, grp)], grids := [(0, plGrid 0)], cur := some (.team 0),
    dstacks := [(0, { Stack.reset with dmen := true })], access := [(0, 7), (2, 0x3FFFF000)],
    mem := [(0x100000, 1), (0x100001, 0x10), (0x100002, 0x10), (0x101000, 1), (0x101001, 0x20), (0x101002, 0x10), (0x102000, 0xF), (0x204000, 1),
      (0x300100, 7)] }
def st : State := mach tm
/-- The same with values in registers of lane 0, or in scalars. -/
def withV (s : State) (ws : List (Nat × Nat)) : State :=
  s.modTeam 0 fun t => { t with v := tsetAll 0 t.v (ws.map fun x => (vKey x.1 0, BitVec.ofNat 64 x.2)) }
def withS (s : State) (ws : List (Nat × Nat)) : State :=
  s.modTeam 0 fun t => { t with s := tsetAll 0 t.s (ws.map fun x => (x.1, BitVec.ofNat 64 x.2)) }
def byStep (s : State) (i : Instr) : State := stateOf s (exec i s)
def ctlTm : Team :=
  { Team.none with st := .issuing, pc := BitVec.ofNat 64 (ctlSram 1 + 128), wordPc := BitVec.ofNat 64 (ctlSram 1 + 128),
                   nextPc := BitVec.ofNat 64 (ctlSram 1 + 132), clk := 5 }
/-- Controller 1 about to issue a word. -/
def ctlSt : State :=
  { State.reset with
    ctls := [(1, { Ctl.reset with st := .running, codebase := ctlSram 1 + 128, codesz := 4096, mapbase := ctlSram 1 + 8192 })],
    teams := [(ctlKey 1, ctlTm)],
    cur := some (.team (ctlKey 1)) }

/-! Witnesses: concrete states and operands that meet the hypotheses of the statements. -/

/-- Words that issue on `st`, each with the registers it reads. -/
abbrev AllIssue (s : State) (tk : Nat) (l : List (Instr × List Reg)) : Prop := ∀ x ∈ l,
  s.cur = some (.team tk) ∧ wordOk s tk x.1 = true ∧ hazard (s.team tk) x.2 = false ∧ spilledIn (s.team tk) (readWords (s.team tk) x.1) x.2 = none
theorem allIssue_issues {s : State} {tk : Nat} {l : List (Instr × List Reg)} (h : AllIssue s tk l) : ∀ x ∈ l, Issues s tk x.1 x.2 := h

theorem wit_IntegerArithmetic : int2Rows.length = 26 ∧ int1Rows.length = 7 ∧ immRows.length = 9 ∧ AllIssue st 0 [
    (.iadd ⟨false, true, 1, 2, 3⟩, [2, 3]), (.iadd ⟨true, false, 96, 97, 98⟩, [97, 98]), (.idivI ⟨false, true, 1, 2, 3⟩, [2, 3]),
    (.ineg ⟨false, true, 1, 2, 0⟩, [2]), (.shlImm ⟨false, true, 1, 2, 63⟩, [2]), (.sarImm ⟨false, false, 96, 97, 31⟩, [97])] := by decide +kernel
theorem wit_FieldsAndMoves : AllIssue st 0 [
    (.imad ⟨false, true, 1, 2, 3⟩, [1, 2, 3]), (.bfx ⟨false, false, 3, 7, 0, 0x00010604⟩, [7]), (.bfi ⟨false, true, 3, 7, 0, 0x00004000⟩, [3, 7]),
    (.mov ⟨false, true, 96, 97, 0⟩, [97]), (.movi ⟨false, true, 99, 0x3F9C⟩, []), (.movl ⟨false, false, 1, 0, 0, 5, 0⟩, []),
    (.movKill ⟨false, 4, 0, 1⟩, [])] := by decide +kernel
theorem wit_AddressWord : AllIssue st 0 [(.lea ⟨false, 3, 1, 2, 98⟩, [2, 98]), (.lea ⟨true, 0, 96, 97, 98⟩, [97, 98])] := by decide +kernel
theorem wit_SelectByPredicate : AllIssue st 0 [(.sel ⟨false, true, 1, 2, 3, 0x001⟩, [2, 3]), (.sel ⟨false, true, 1, 2, 3, 0x124⟩, [2, 3]),
    (.sel ⟨false, false, 1, 2, 98, 0x21F⟩, [2, 98])] := by decide +kernel
theorem wit_IntegerCompare : icmpRows.length = 10 ∧ AllIssue st 0 [
    (.icmpEq ⟨false, true, 31, 2, 3⟩, [2, 3]), (.icmpGeN ⟨false, false, 0, 97, 98⟩, [97, 98])] := by decide +kernel
theorem wit_IntervalArithmetic : float2Rows.length = 7 ∧ float1Rows.length = 18 ∧ AllIssue st 0 [
    (.fadd ⟨false, false, 1, 2, 3⟩, pairRegs false 2 ++ pairRegs false 3), (.fdiv ⟨false, true, 2, 4, 6⟩, pairRegs true 4 ++ pairRegs true 6),
    (.fmul ⟨false, true, 96, 98, 100⟩, pairRegs true 98 ++ pairRegs true 100),
    (.ffma ⟨false, false, 1, 2, 3⟩, pairRegs false 1 ++ pairRegs false 2 ++ pairRegs false 3),
    (.fsqrt ⟨false, true, 2, 4, 0⟩, pairRegs true 4), (.ftanh ⟨false, false, 96, 97, 0⟩, pairRegs false 97)] := by decide +kernel
theorem wit_IntervalPieces : AllIssue st 0 [(.fdiv2 ⟨false, false, 2, 4, 6⟩, pairRegs false 4 ++ pairRegs false 6),
    (.fbis ⟨false, true, 4, 8, 0⟩, pairRegs true 8), (.fmake ⟨false, false, 1, 2, 3⟩, pairRegs false 2 ++ pairRegs false 3),
    (.fclass ⟨false, true, 1, 2, 0⟩, pairRegs true 2)] := by decide +kernel
theorem wit_IntervalConversions : cbtHazard (st.team 0) = false ∧ AllIssue st 0 [
    (.cvtf ⟨false, true, 2, 4, 1⟩, [4, nextReg 4]), (.cvtf ⟨false, true, 2, 4, 18⟩, [4, nextReg 4]), (.cvtf ⟨false, false, 1, 3, 4⟩, [3]),
    (.cvti ⟨false, false, 1, 3, 0x27⟩, pairRegs false 3), (.cvfi ⟨false, true, 2, 3, 7⟩, [3]), (.cbx ⟨false, false, 1, 3, 0⟩, [3]),
    (.cbq ⟨false, true, 1, 4, 0⟩, pairRegs true 4)] := by decide +kernel
theorem wit_IntervalCompare : fcmpRows.length = 9 ∧ AllIssue st 0 [
    (.fcmpLt ⟨false, false, 0, 2, 3⟩, pairRegs false 2 ++ pairRegs false 3), (.fcmpDis ⟨false, true, 31, 96, 98⟩, pairRegs true 96 ++ pairRegs true 98)] := by decide +kernel
theorem wit_PredicateLogic : predRows.length = 5 ∧ AllIssue st 0 [(.pand ⟨false, 31, 36, 0⟩, []), (.pmov ⟨false, 0, 0, 3⟩, []), (.pmov ⟨false, 0, 36, 7⟩, []),
    (.psel ⟨false, 1, 2, 3, 0x324⟩, [])] := by decide +kernel
theorem wit_PredicatesAndIntegers : isS 97 = true ∧ isS 3 = false ∧ AllIssue st 0 [(.ptoi ⟨false, 3, 31, 0⟩, []), (.ptoi ⟨false, 97, 0, 98⟩, [98]),
    (.itop ⟨false, 1, 3, 1⟩, [3]), (.itop ⟨false, 1, 96, 2⟩, [96, nextReg 96]), (.vote ⟨false, 1, 36, 1⟩, []), (.vote ⟨false, 97, 0, 4⟩, [])] := by decide +kernel
theorem wit_ReductionsAndShuffles : AllIssue st 0 [(.redi ⟨false, 97, 2, 15⟩, [2]), (.redi ⟨false, 1, 2, 0⟩, [2]),
    (.redf ⟨false, 2, 4, 12⟩, pairRegs true 4), (.scan ⟨false, 1, 2, 0x20⟩, pairRegs false 2), (.scan ⟨false, 2, 4, 0x1C⟩, pairRegs true 4),
    (.shfl ⟨false, 1, 2, 97⟩, [2, 97])] := by decide +kernel
theorem wit_QuadExchange : AllIssue st 0 [(.qxch ⟨false, 1, 2, 3⟩, [2]), (.qbc ⟨false, 1, 2, 0⟩, [2])] := by decide +kernel

/-- A control word that ends its run, with nothing in flight. -/
abbrev AllTurn (s : State) (tk : Nat) (l : List (Instr × List Reg)) : Prop := AllIssue s tk l ∧ (∀ x ∈ l, x.1.ebit = true) ∧
  (isCtl tk = true ∨ (((slotTeams s (teamCore s tk)).map (physVectors s)).sum ≤ Config.physVector ∧
    ((slotTeams s (teamCore s tk)).map (physScalars s)).sum ≤ Config.physScalar)) ∧
  slotFin s tk ((s.team tk).clk + 1) = (s.team tk).clk + 1 ∧ (s.team tk).st = .issuing ∧ (s.team tk).inflight = [] ∧ (s.team tk).tok = 0
theorem allTurn_turns {s : State} {tk : Nat} {l : List (Instr × List Reg)} (h : AllTurn s tk l) : ∀ x ∈ l, Turns s tk x.1 x.2 :=
  fun x hx => ⟨h.1 x hx, h.2.2.1, h.2.2.2.1, h.2.2.2.2.1, h.2.1 x hx, h.2.2.2.2.2.1, h.2.2.2.2.2.2⟩
theorem wit_WordGoesOn : AllTurn st 0 [] ∧ (st.team 0).st ≠ .free ∧ (Instr.nop ⟨false, 0, 0, 0⟩).ebit = false ∧ isTrl (.nop ⟨false, 0, 0, 0⟩) = false := by decide +kernel
theorem wit_RunEnd : AllTurn st 0 [(.trl ⟨true, 255, 0⟩, [])] ∧ (st.team 0).pend = none ∧ (st.team 0).tok &&& (255 : BitVec 8) = 0 ∧
    AllIssue (mach { tm with tok := 1 }) 0 [(.trl ⟨true, 1, 0⟩, [])] ∧ ((mach { tm with tok := 1 }).team 0).tok &&& (1 : BitVec 8) ≠ 0 := by decide +kernel
/-- A control word stands before the trailer of its run; a run ends with E = 1 and token 3 outstanding; a word in flight
holds a parked team's control word back. -/
def pendSt (tok : BitVec 8) : State := mach { tm with pend := some (.bmz ⟨false, 0, 5⟩), pendPc := 0x200000, tok := tok }
def tokSt : State := mach { tm with tok := 8 }
def lateSt (p : Park) : State := mach { tm with
  st := .parked, park := p, pend := some (.bra ⟨false, 0, 0x3FFF⟩), pendPc := 0x200000, tok := 4, pipe := none
  inflight := [{ id := 1, due := 0, tok := some 2, rid := 0, run := 0, wait := .arrival, exact := false, arrived := false, applied := false, vw := [], sw := [], flw := [], cbt := none }] }
theorem wit_RunEndWaits : (∀ k ∈ [(0 : BitVec 8), 1], AllTurn (pendSt 0) 0 [(.trl ⟨true, 1, 0⟩, [])] ∧ AllIssue (pendSt k) 0 [(.trl ⟨true, 1, 0⟩, [])] ∧
      ((pendSt k).team 0).tok &&& (1 : BitVec 8) = k ∧ ((pendSt k).team 0).inflight = [] ∧ (goesTo ((pendSt k).team 0) (.bmz ⟨false, 0, 5⟩) 0x200008).isSome = true) ∧
    ((tokSt.team 0).st ≠ .free ∧ (Instr.nop ⟨true, 0, 0, 0⟩).ebit = true ∧ isTrl (.nop ⟨true, 0, 0, 0⟩) = false ∧ (tokSt.team 0).inflight = [] ∧ (tokSt.team 0).tok ≠ 0) ∧
    (∀ p ∈ [Park.trailer, .tokens], ((lateSt p).team 0).st = .parked ∧ ((lateSt p).team 0).park = p ∧ saveDecided (lateSt p) 0 = false ∧
      goesTo ((lateSt p).team 0) (.bra ⟨false, 0, 0x3FFF⟩) ((lateSt p).team 0).pc = some 0x1FFFFC ∧ ((lateSt p).team 0).inflight.length = 1) := by decide +kernel
theorem wit_WordsThatStand : AllIssue st 0 [(.nop ⟨false, 0, 0, 0⟩, []), (.trl ⟨true, 0, 0⟩, []), (.pref ⟨false, 0, 2, 1⟩, [2]),
    (.prefOffset ⟨false, 0, 2, 0, 64⟩, [2]), (.bra ⟨true, 0, 5⟩, []), (.ret ⟨true, 0, 97, 0⟩, [97]), (.exit ⟨true, 0, 0, 0⟩, [])] ∧
    AllIssue ctlSt (ctlKey 1) [(.wfe ⟨true, 0, 0, 0⟩, []), (.halt ⟨true, 0, 0, 0⟩, [])] := by decide +kernel
def zeroMask : State := mach { tm with mask := 0 }
theorem wit_BranchesAndWaits : brcRows.length = 16 ∧ AllTurn (withS st [(1, 5), (2, 6)]) 0 [(.bra ⟨true, 0, 0x3FFF⟩, []), (.brc ⟨true, 0, 1⟩, []),
    (.brc ⟨true, 15, 1⟩, []), (.bmz ⟨true, 0, 1⟩, []), (.bmnz ⟨true, 0, 1⟩, []), (.yield ⟨true, 0, 0, 0⟩, []), (.waitcy ⟨true, 0, 97, 0⟩, [97]),
    (.waitcy ⟨true, 0, 98, 0⟩, [98])] ∧ ¬noneActive (st.team 0) ∧ noneActive (zeroMask.team 0) ∧
    (readReg (readyTeam ((withS st [(1, 5), (2, 6)]).team 0) 0) 5 0 97).toNat ≤ 5 ∧
    ¬(readReg (readyTeam ((withS st [(1, 5), (2, 6)]).team 0) 0) 5 0 98).toNat ≤ 5 := by unfold noneActive; decide +kernel

theorem wit_CallsAndReturns : AllTurn (withS st [(1, 0x200000)]) 0 [(.call ⟨true, 97, 1⟩, []), (.ret ⟨true, 0, 97, 0⟩, [97]), (.jmpi ⟨true, 0, 97, 0⟩, [97])] ∧
    targetOk (withS st [(1, 0x200000)]) 0 (readReg (readyTeam ((withS st [(1, 0x200000)]).team 0) 0) 5 0 97) = true := by decide +kernel
theorem lanesAre_of {t : Team} {m : Mask} {r : Reg} {x : Tri} (h : ∀ l < t.width, m.getLsbD l = (t.mask.getLsbD l && decide (readPred t l r = x)))
    (hm : ∀ l < 1024, t.width ≤ l → m.getLsbD l = false) : lanesAre t m r x := by
  intro l
  by_cases hl : l < t.width
  · simp [hl, h l hl]
  · by_cases h1 : l < 1024
    · simp [hl, hm l h1 (by omega)]
    · simp [hl, BitVec.getLsbD_of_ge m l (by omega)]
/-- Predicate 0 is T in lanes 0 and 1 and U in lane 2. -/
def predSt : State := mach { tm with p := [(0, .t), (1, .t), (2, .u)], stack := [4, 255] }
theorem wit_LoopsAndExits : AllTurn predSt 0 [(.mwhile ⟨true, 0, 1⟩, []), (.exit ⟨true, 0, 0, 0⟩, [])] ∧ lanesAre (predSt.team 0) 3 0 .t ∧
    lanesAre (predSt.team 0) 0 1 .t ∧ (predSt.team 0).stack ≠ [] ∧ mayAct predSt 0 ∧
    (vacate (predSt.team 0) (predSt.team 0).mask).live ||| (vacate (predSt.team 0) (predSt.team 0).mask).helper = 0 ∧
    (vacate (zeroMask.team 0) (zeroMask.team 0).mask).live ||| (vacate (zeroMask.team 0) (zeroMask.team 0).mask).helper ≠ 0 ∧
    AllTurn zeroMask 0 [(.exit ⟨true, 0, 0, 0⟩, [])] ∧ mayAct zeroMask 0 := by
  refine ⟨by decide +kernel, lanesAre_of (by decide +kernel) (by decide +kernel), lanesAre_of (by decide +kernel) (by decide +kernel), ?_⟩
  unfold mayAct; decide +kernel
/-- A second team in the group. -/
def twoTeams : State := { st with teams := [(0, tm), (1, { tm with teami := 1, st := .ready, pipe := none })], groups := [(0, { grp with nteam := 2 })] }
theorem wit_LastLanesExit : AllTurn twoTeams 0 [(.exit ⟨true, 0, 0, 0⟩, [])] ∧ (teamGroup twoTeams 0).isSome = true ∧
    1 ∈ ({ grp with nteam := 2 } : Group).teamKeys ∧ (twoTeams.team 1).st ≠ .free := by decide +kernel
def handler : State := mach { tm with lvl := true, spc := 0x200000, ssw := tswBits tm }
theorem wit_TrapsAndReturns : AllTurn st 0 [(.trap ⟨true, 0, 16383⟩, [])] ∧ mayAct st 0 ∧ (st.team 0).lvl = false ∧ (st.team 0).hvec ≠ 0 ∧
    AllTurn handler 0 [(.tret ⟨true, 0, 0, 0⟩, [])] ∧ tretBad handler 0 = false ∧
    AllTurn ctlSt (ctlKey 1) [(.wfe ⟨true, 0, 0, 0⟩, []), (.halt ⟨true, 0, 0, 0⟩, [])] := by unfold mayAct; decide +kernel
theorem wit_HierarchicalMask : AllIssue predSt 0 [(.mif ⟨false, 0, 0, 0⟩, []), (.melse ⟨false, 0, 0, 0⟩, []), (.mund ⟨false, 0, 0, 0⟩, []), (.mend ⟨false, 0, 0, 0⟩, [])] ∧
    lanesAre (predSt.team 0) 3 0 .t ∧ lanesAre (predSt.team 0) 4 0 .u ∧ (predSt.team 0).stack.length ≤ 62 ∧
    (∃ u p r, (predSt.team 0).stack = u :: p :: r) ∧ (st.team 0).stack.length < 2 ∧ AllIssue st 0 [(.melse ⟨false, 0, 0, 0⟩, [])] ∧
    ¬((mach { tm with stack := List.replicate 63 255 }).team 0).stack.length ≤ 62 := by
  refine ⟨by decide +kernel, lanesAre_of (by decide +kernel) (by decide +kernel), lanesAre_of (by decide +kernel) (by decide +kernel), by decide +kernel, ⟨_, _, _, rfl⟩, ?_⟩
  decide +kernel
theorem wit_MasksAndWindow : AllIssue predSt 0 [(.mset ⟨false, 0, 0, 0⟩, []), (.mset ⟨false, 0, 0, 1⟩, []), (.mset ⟨false, 96, 97, 2⟩, [96, 97]), (.mset ⟨false, 0, 0, 3⟩, []),
    (.mget ⟨false, 96, 97, 0⟩, [97]), (.mget ⟨false, 96, 0, 1⟩, []), (.wbaseImm ⟨false, 0, 416⟩, []), (.wbaseReg ⟨false, 0, 97, 0⟩, [97])] ∧
    AllIssue (withS st [(1, 448)]) 0 [(.wbaseReg ⟨false, 0, 97, 0⟩, [97]), (.mset ⟨false, 0, 0, 1⟩, [])] ∧ (predSt.team 0).stack.length ≤ 63 ∧
    (st.team 0).stack = [] := by decide +kernel

/-- Addresses of lanes in v1 and in s1, both inside the mapped memory. -/
def memSt : State := withS (mach { tm with v := (List.range 8).map fun l => (vKey 1 l, 0x300100 + 8 * l), regions := [
  { rid := 0, wm := snapWaymark tm 0x200000, closed := false, uacc := false, reads := [], stores := [], evts := [], spages := [], sstores := [], mapped := [] }] })
  [(1, 0x300100), (2, 0x300100)]
/-- The accesses of a load meet nothing, and those of a store. -/
abbrev loadMeets (s : State) (tok : BitVec 3) (sc : Bool) (l : List Acc) : Prop :=
  MeetNothing s 0 tok .read (sure (s.team 0) sc l) (madeAccs s 0 sc l)
abbrev storeMeets (s : State) (l : List Acc) : Prop := MeetNothing s 0 0 .write (sure (s.team 0) false l) (sure (s.team 0) false l)
def careSt : State := memSt.modTeam 0 fun t => { t with careful := true }
theorem wit_LaneLoads : AllIssue memSt 0 [(.ld ⟨false, 2, 1, 7, 6⟩, [1]), (.lds ⟨false, 2, 3, 0, 0⟩, [3]), (.ldvOffset ⟨false, 2, 1, 1, 2, 0xFFFFFFF8⟩, [1]),
    (.ldOffset ⟨false, 97, 97, 0, 4, 8⟩, [97])] ∧
    loadMeets memSt 7 false (accesses false false 8 (baseOff 1 0) memSt 0).2 ∧
    (memSt.team 0).ordered = false := by unfold loadMeets MeetNothing keptAttrs; decide +kernel
theorem wit_GathersAndPrivateLoads : AllIssue memSt 0 [(.ldg ⟨false, 2, 3, 0, 4, 0x61⟩, [3, 97]), (.ldl ⟨false, 2, 3, 0, 6⟩, [3])] ∧
    loadMeets memSt 0 false (accesses false false 4 (gatherAt 3 0x61) memSt 0).2 ∧
    loadMeets memSt 0 false (privateAcc 2 3 6 (memSt.modTeam 0 fun t => { t with plim := 64 }) 0).2 := by
  unfold loadMeets MeetNothing keptAttrs; exact ⟨by decide +kernel, by decide +kernel, by decide +kernel⟩
theorem wit_BlockAndCodebookLoads : AllIssue memSt 0 [(.ldn ⟨false, 2, 98, 0, 0⟩, [98, nextReg 98]), (.cbld ⟨false, 0, 97, 0, 0⟩, [97])] ∧
    baseOff 98 0 (memSt.team 0) 5 0 % 8 = 0 ∧ (reg 97 (memSt.team 0) 5 0).toNat % 32 = 0 ∧
    loadMeets memSt 0 false (blockAcc 98 0 0 memSt 0).2 ∧
    loadMeets memSt 0 true [⟨0, 5, false, [(0x300100, 32)], none⟩] := by
  unfold loadMeets MeetNothing keptAttrs; exact ⟨by decide +kernel, by decide +kernel, by decide +kernel, by decide +kernel, by decide +kernel⟩
theorem wit_LaneStores : AllIssue memSt 0 [(.st ⟨false, 2, 1, 0, 6⟩, [2, 1]), (.sts ⟨false, 2, 3, 0, 0⟩, [2, 3]), (.stv ⟨false, 2, 1, 0, 8⟩, [1, 2, 3])] ∧
    storeMeets memSt (accesses false false 8 (baseOff 1 0) memSt 0).2 ∧ (memSt.team 0).careful = false ∧ (memSt.team 0).regions ≠ [] ∧
    AllIssue careSt 0 [(.st ⟨false, 2, 1, 0, 6⟩, [2, 1])] ∧ storeMeets careSt (accesses false false 8 (baseOff 1 0) careSt 0).2 ∧
    storesNow (careSt.team 0) 0 = true ∧ unticketed careSt 0 = false ∧ (careSt.team 0).excl = false ∧
    ((∀ x ∈ careSt.groups, x.2.rmarks = []) ∧ (∀ x ∈ careSt.teams, x.1 = 0) ∧ careSt.dies = []) := by
  unfold storeMeets MeetNothing keptAttrs
  exact ⟨by decide +kernel, by decide +kernel, by decide +kernel, by decide +kernel, by decide +kernel, by decide +kernel, by decide +kernel⟩
theorem wit_ScattersAndPrivateStores : AllIssue memSt 0 [(.stg ⟨false, 2, 3, 0, 4, 0x61⟩, [3, 97]), (.stl ⟨false, 2, 3, 0, 6⟩, [2, 3])] ∧
    storeMeets memSt (accesses false false 4 (gatherAt 3 0x61) memSt 0).2 ∧
    storeMeets memSt (privateAcc 2 3 6 (memSt.modTeam 0 fun t => { t with plim := 64 }) 0).2 := by
  unfold storeMeets MeetNothing keptAttrs; exact ⟨by decide +kernel, by decide +kernel, by decide +kernel⟩

theorem wit_NarrowBlocks : AllIssue memSt 0 [(.ncvt ⟨false, 2, 4, 0⟩, pairRegs false 4), (.stn ⟨false, 2, 98, 0, 0⟩, 98 :: nextReg 98 :: pairRegs false 2)] ∧
    baseOff 98 0 (memSt.team 0) 5 0 % 8 = 0 ∧
    storeMeets memSt (((blocksOf memSt (memSt.team 0) (passesOf (memSt.team 0) 5 fun _ _ => 1) 0 false 2).flatMap
      (blockStore 0x300100 0 (blockBytes 0) (kindOf 0).b)).map (·.1)) := by unfold storeMeets MeetNothing keptAttrs; decide +kernel
/-- No uncommitted region: an irrevocable word may act. -/
def calm : State := memSt.modTeam 0 fun t => { t with regions := [], v := (List.range 8).map fun l => (vKey 1 l, 0x300100 + 16 * l) }
theorem wit_Atomics : atomRows.length = 13 ∧ AllIssue calm 0 [(.aadd ⟨false, 2, 1, 0, 4⟩, [2, 1]), (.acas ⟨false, 2, 1, 0, 4⟩, [2, 3, 1]),
    (.afmax ⟨false, 2, 1, 0, 4⟩, [1, 2, 3]), (.axchg ⟨false, 2, 97, 0, 2⟩, [2, 97])] ∧ (calm.team 0).st = .issuing ∧ mayAct calm 0 ∧
    (calm.team 0).tok.getLsbD 0 = false ∧ ((calm.team 0).placed = none ∧ (calm.team 0).lanesDone = [] ∧ calm.dies = []) ∧
    (∀ op ∈ [0, 7, 12], let l := sure (calm.team 0) false (atomAcc op ⟨false, 2, 1, 0, 4⟩ false calm 0).2
      (∀ a ∈ l, ∀ x ∈ a.parts, x.1 % atomAlignment op 1 = 0) ∧ firstFault calm 0 .write l = none ∧
      gates calm 0 (globLines ((reachAll calm 0 .write l).map fun x => (x.1, x.2.take 1))) true = none) ∧
    (∀ q, teamGrid calm 0 = some q → q.det = false) := by
  refine ⟨by decide +kernel, by decide +kernel, by decide +kernel, by unfold mayAct; decide +kernel, by decide +kernel, by decide +kernel, by decide +kernel, ?_⟩
  intro q h
  have : teamGrid calm 0 = some (plGrid 0) := by decide +kernel
  rw [this] at h; cases h; rfl
/-- Team 1 has arrived at barrier 3 of the group; at barrier 4 nobody has. -/
def barSt : State := { twoTeams with teams := [(0, tm), (1, { tm with teami := 1, st := .parked, park := .barrier, arrG := 8, arrC := 8, pipe := none })] }
theorem wit_Barriers : AllIssue barSt 0 [(.bar ⟨false, 0, 0, 3⟩, []), (.barc ⟨false, 0, 0, 15⟩, [])] ∧ (barSt.team 0).irrev = false ∧
    (barSt.team 0).regions = [] ∧ (barSt.team 0).st = .issuing ∧ teamGroup barSt 0 = some { grp with nteam := 2 } ∧
    barTeams barSt { grp with nteam := 2 } false = [0, 1] ∧ barTeams barSt { grp with nteam := 2 } true = [0, 1] ∧
    arrivedAt 3 false (barSt.team 1) = true ∧ arrivedAt 4 false (barSt.team 1) = false ∧ arrivedAt 15 true (barSt.team 1) = false ∧
    saveDecided barSt 1 = false ∧ AllIssue (mach { tm with irrev := true }) 0 [(.bar ⟨false, 0, 0, 3⟩, [])] := by decide +kernel
theorem wit_WordsThatWaitForCommit : isCtl 0 = false ∧ AllIssue memSt 0 [(.commit ⟨false, 0, 0, 0⟩, []), (.buffree ⟨false, 0, 0, 63⟩, []),
    (.unseal ⟨false, 0, 0, 15⟩, []), (.macq ⟨false, 96, 0, 0⟩, [])] ∧ (memSt.team 0).irrev = false ∧ (memSt.team 0).careful = false ∧
    (memSt.team 0).regions ≠ [] := by decide +kernel
/-- Handles 1 full, 2 filling, 3 draining and 4 in error; s1 an offset and s2, s3, s4 counts. -/
def bufSt : State := withS { calm with groups := [(0, { grp with handles := [(1, ⟨.full, 0, 8, 0⟩), (2, ⟨.filling, 0, 8, 3⟩),
  (3, ⟨.draining, 0, 8, 8⟩), (4, ⟨.error, 0, 8, 8⟩)] })] } [(1, 64), (2, 0), (3, 1), (4, 0x100001), (5, 0x5C0)]
theorem wit_BufferHandles : AllIssue bufSt 0 [(.bufdef ⟨false, 0, 97, 98, 0⟩, [97, 98]), (.bufdef ⟨false, 0, 97, 99, 63⟩, [97, 99]),
    (.bufwait ⟨false, 0, 0, 1⟩, []), (.buffree ⟨false, 0, 0, 1⟩, [])] ∧ (teamGroup bufSt 0).isSome = true ∧ (bufSt.team 0).regions = [] ∧
    (reg 98 (bufSt.team 0) 5 0).toNat = 0 ∧ (reg 99 (bufSt.team 0) 5 0).toNat = 1 ∧ 2 ^ 20 < (reg 100 (bufSt.team 0) 5 0).toNat ∧
    64 + (reg 101 (bufSt.team 0) 5 0).toNat ≤ grp.progBytes ∧
    (handleOf bufSt 0 0).st = .free ∧ (handleOf bufSt 0 1).st = .full ∧ (handleOf bufSt 0 2).st = .filling ∧ (handleOf bufSt 0 3).st = .draining ∧
    (handleOf bufSt 0 4).st = .error ∧ handleBusy bufSt 0 2 = false ∧ ((bufSt.modTeam 0 fun t => { t with lvl := true }).team 0).lvl = true := by decide +kernel
def fourRegions : State := memSt.modTeam 0 fun t => { t with regions := t.regions ++ t.regions ++ t.regions ++ t.regions }
theorem wit_RegionWords : isCtl 0 = false ∧ AllIssue memSt 0 [(.region ⟨false, 0, 0, 0⟩, [])] ∧ (memSt.team 0).careful = false ∧
    (memSt.team 0).regions.length < 4 ∧ AllIssue fourRegions 0 [(.region ⟨false, 0, 0, 0⟩, [])] ∧ (fourRegions.team 0).regions.length = 4 ∧
    AllIssue calm 0 [(.commit ⟨false, 0, 0, 0⟩, [])] ∧ (calm.team 0).regions = [] := by decide +kernel
/-- An access of the team translates, begins at that very location, and no gate holds its line. -/
def beginsAt (s : State) (va n : Nat) (k : AKind) : Bool :=
  match xlateN s (teamCore s 0) (teamAs s 0) va n k with
  | .ok ((loc, pl) :: _) => decide (loc = va) && !isRemote loc && (gates s 0 [(lineOf loc, pl.coh)] (k == .write)).isNone
  | _ => false
/-- The place of the counter at 0x300100, and the two results of WAITC on it. -/
theorem wit_Counters : AllIssue calm 0 [(.waitc ⟨false, 99, 97, 98, 0⟩, [97, 98]), (.waitc ⟨false, 99, 97, 98, 5⟩, [97, 98]), (.sigc ⟨false, 2, 97, 98⟩, [97, 98]),
    (.sigc ⟨false, 0, 97, 98⟩, [97, 98])] ∧
    beginsAt calm 0x300100 8 .read = true ∧ beginsAt calm 0x300100 8 .write = true ∧ (reg 97 (calm.team 0) 5 0).toNat = 0x300100 ∧
    (reg 97 (calm.team 0) 5 0).toNat % 8 = 0 ∧ (calm.team 0).regions = [] ∧ isRemote 0x300100 = false ∧ mayAct calm 0 ∧
    (waitcRows.getD 0 fun _ _ => false) 7 7 = true ∧ (waitcRows.getD 5 fun _ _ => false) 7 5 = false := by
  unfold mayAct; decide +kernel

/-- A mapping of scratch bytes 256 to 383 stands; the team has an offset and an address for another. -/
def mapSt : State := withS { calm with groups := [(0, { grp with maps := [⟨256, 128, 0x300200⟩], mapLines := [2] })] }
  [(1, 0x300300), (2, 128), (3, 256), (4, 0x300380)]
theorem wit_StashMappings : AllIssue mapSt 0 [(.smap ⟨false, 98, 97, 0, 128⟩, [98, 97]), (.sunmap ⟨false, 0, 99, 0⟩, [99])] ∧
    teamGroup mapSt 0 = some { grp with maps := [⟨256, 128, 0x300200⟩], mapLines := [2] } ∧ (mapSt.team 0).regions = [] ∧
    (reg 98 (mapSt.team 0) 5 0).toNat = 128 ∧ (reg 97 (mapSt.team 0) 5 0).toNat = 0x300300 ∧ 128 + 128 ≤ grp.progBytes ∧
    overlaps 128 128 256 128 = false ∧ overlaps 0x300300 128 0x300200 128 = false ∧ grp.absent = [] ∧
    (reg 99 (mapSt.team 0) 5 0).toNat = 256 ∧ grp.gid = (mapSt.team 0).gid := by decide +kernel
/-- A chain of the team's group stands at the front of channel 1, and 15 chains on channel 2. -/
def chain1 : Chain := { newChain st 0 1 grp.as 0x300140 with cid := 1, tk := some 0, gid := some 0, committed := true }
def chanSt : State := withS { calm with chains := [(1, chain1)], cores := [(0, { Core.reset with chans := [(1, { Channel.reset with heads := [1] }),
  (2, { Channel.reset with heads := List.replicate 15 1 })] })], nextCid := 2 } [(1, 0x300140), (2, 0x300141)]
theorem wit_CopyWords : AllIssue chanSt 0 [(.cpygo ⟨false, 0, 97, 2⟩, [97]), (.cpygo ⟨false, 0, 97, 7⟩, [97]), (.cpygo ⟨false, 0, 98, 0⟩, [98]),
    (.cpyst ⟨false, 99, 0, 1⟩, []), (.cpyst ⟨false, 96, 0, 3⟩, []), (.publ ⟨false, 0, 0, 1⟩, []), (.publ ⟨false, 0, 0, 0⟩, [])] ∧
    (reg 97 (chanSt.team 0) 5 0).toNat % 64 = 0 ∧ (reg 98 (chanSt.team 0) 5 0).toNat % 64 ≠ 0 ∧ (chanOf chanSt 0 2).heads.length < 16 ∧
    (chanSt.team 0).tok = 0 ∧ ((chanOf chanSt 0 1).heads.head?.bind chanSt.chain?) = some chain1 ∧ chain1.gid = some (chanSt.team 0).gid ∧
    ((chanOf chanSt 0 0).heads.head?.bind chanSt.chain?) = none := by decide +kernel
/-- A matrix record of 8-bit integers, 64 rows of 64, for A or for B. -/
def matRec (b : Nat) : List Nat := [0x300000, 0x301000, 64 + 2 ^ 32 * 64, 64, 16, 7 + 16 * b, 0, 0]
theorem matRec_sealed : sealReason 0x300400 (matRec 0) = 0 ∧ sealReason 0x300400 (matRec 1) = 0 ∧ sealReason 0x300440 (matRec 0) = 0 ∧
    sealReason 0x300404 (matRec 0) = 1 ∧ sealReason 0x300400 (List.replicate 8 0) = 4 := by decide +kernel
/-- Team 0 holds the pair of arrays; its scalars are the registers of the matrix words; slots 1 and 2 hold records. -/
def resB1 : ResB := { kind := 7, w := alignedWidth 7 0, n := tileN (alignedWidth 7 0), imode := false, beta := [], rowScale := [], sat := [], nai := [], xb := [], eb := [], zero := [] }
def arr0 : MArray := { MArray.reset with holder := some 0, paired := true, lastCtx := some 0, resB := some resB1, issued := [⟨0, 0, false, false⟩], nextMid := 1 }
def matSt : State := withS { calm with
  cores := [(0, { Core.reset with arr := arr0 }), (1, { Core.reset with arr := { arr0 with follower := true } })],
  groups := [(0, { grp with slots := [(1, (matRec 0).map (BitVec.ofNat 64)), (2, (matRec 1).map (BitVec.ofNat 64))] })],
  mem := tsetAll 0 calm.mem ((List.range 64).map fun i => (0x300400 + i, BitVec.ofNat 8 ((matRec 0).getD (i / 8) 0 / 2 ^ (8 * (i % 8))))) }
  [(0, 0x300400), (1, 0x300500), (2, 2 ^ 32), (3, 0), (4, 0), (5, 64), (6, 1 + 2 ^ 32 * (1 + 2 ^ 16)), (7, 8), (8, 0x305000), (9, 64), (10, 98303 + 2 ^ 32)]
def freeArr : State := { matSt with cores := [(0, { Core.reset with arr := { MArray.reset with lastCtx := some 5, acc := [(3, 7)] } })] }
theorem wit_RecordsAndArrays : AllIssue matSt 0 [(.seal ⟨false, 15, 96, 3, 0⟩, [96]), (.seal ⟨false, 0, 97, 3, 0⟩, [97]), (.unseal ⟨false, 0, 0, 15⟩, []),
      (.macq ⟨false, 97, 0, 1⟩, []), (.mrel ⟨false, 0, 0, 0⟩, []), (.mstat ⟨false, 97, 0, 1⟩, []), (.mdep ⟨false, 0, 97, 0⟩, [97])] ∧
    (teamGroup matSt 0).isSome = true ∧ (matSt.team 0).regions = [] ∧ (matSt.team 0).tok = 0 ∧
    (∀ x ∈ [(0x300400, 0), (0x300500, 4)], ∃ ps, xlateN matSt 0 (teamAs matSt 0) x.1 64 .read = .ok ps ∧
      gates matSt 0 ((distinct (ps.map fun x => lineOf x.1)).map fun l => (l, counterCoh matSt (l * 128) 0)) false = none ∧
      sealReason x.1 ((List.range 8).map fun i => leVal (((ps.map fun x => readNow matSt 0 x.1).drop (8 * i)).take 8)) = x.2) ∧
    holdsArray matSt 0 = true ∧ (arrOf matSt 0).paired = true ∧ (∀ x ∈ (arrOf matSt 0).ops, x.stage = .retired) ∧
    (reg 97 (matSt.team 0) 5 0).toNat % 8 = 0 ∧ (arrOf matSt 0).issued.getLast? = some ⟨0, 0, false, false⟩ ∧
    AllIssue freeArr 0 [(.macq ⟨false, 97, 0, 1⟩, []), (.mrel ⟨false, 0, 0, 0⟩, []), (.mdep ⟨false, 0, 97, 0⟩, [97])] ∧
    holdsArray freeArr 0 = false ∧ (arrOf freeArr 0).holder = none ∧ (arrOf freeArr 1).holder = none ∧
    (arrOf freeArr 0).lastCtx ≠ some (teamCtx freeArr 0) := by
  refine ⟨by decide +kernel, by decide +kernel, by decide +kernel, by decide +kernel, ?_, by decide +kernel⟩
  intro x hx
  refine ⟨(match xlateN matSt 0 (teamAs matSt 0) x.1 64 .read with | .ok ps => ps | _ => []), ?_⟩
  revert x; decide +kernel
/-- The same with an open region in the way of the words that wait for it. -/
def regSt : State := matSt.modTeam 0 fun t => { t with regions := (memSt.team 0).regions }
/-- An access of a team translates. -/
def mapped (s : State) (va n : Nat) (k : AKind) : Bool := match xlateN s 0 (teamAs s 0) va n k with | .ok _ => true | _ => false
theorem wit_WaitRows : AllIssue regSt 0 [(.bar ⟨false, 0, 0, 3⟩, []), (.barc ⟨false, 0, 0, 15⟩, []), (.sunmap ⟨false, 0, 99, 0⟩, [99]), (.mrel ⟨false, 0, 0, 0⟩, []),
      (.bufdef ⟨false, 0, 99, 101, 0⟩, [99, 101]), (.smap ⟨false, 99, 96, 0, 128⟩, [99, 96]), (.waitc ⟨false, 99, 96, 97, 0⟩, [96, 97]), (.sigc ⟨false, 0, 96, 97⟩, [96, 97]),
      (.seal ⟨false, 15, 96, 3, 0⟩, [96]), (.launch ⟨false, 0, 96, 7, 0⟩, [96]), (.mcbk ⟨false, 0, 96, 0, 0⟩, [96]), (.mldb ⟨false, 2, 100, 1, 0⟩, [100, nextReg 100]),
      (.aadd ⟨false, 2, 1, 0, 4⟩, [2, 1])] ∧
    (regSt.team 0).irrev = false ∧ holdsArray regSt 0 = true ∧ (regSt.team 0).tok = 0 ∧ (regSt.team 0).placed = none ∧ (regSt.team 0).careful = false ∧
    (regSt.team 0).regions ≠ [] ∧ (reg 99 (regSt.team 0) 5 0).toNat = 0 ∧ (reg 101 (regSt.team 0) 5 0).toNat = 64 ∧ 0 + 128 ≤ grp.progBytes ∧
    (reg 96 (regSt.team 0) 5 0).toNat = 0x300400 ∧ 0x300400 % 128 = 0 ∧ mapped regSt 0x300400 8 .read = true ∧ mapped regSt 0x300400 8 .write = true ∧
    mapped regSt 0x300400 192 .read = true ∧ slotOf regSt 0 2 = some (matRec 1) ∧ srRoleB (matRec 1) = true ∧
    (let l := sure (regSt.team 0) false (atomAcc 0 ⟨false, 2, 1, 0, 4⟩ false regSt 0).2
     firstFault regSt 0 .write l = none ∧ ∀ a ∈ l, ∀ y ∈ a.parts, y.1 % atomAlignment 0 1 = 0) ∧
    AllTurn regSt 0 [(.exit ⟨true, 0, 0, 0⟩, []), (.trap ⟨true, 0, 5⟩, [])] := by decide +kernel
theorem wit_MatrixQueue : canQueue matSt 0 ∧ AllIssue matSt 0 [(.mzero ⟨false, 0, 98, 0⟩, [98]), (.mzero ⟨false, 0, 106, 0⟩, [106]), (.mcbk ⟨false, 0, 96, 0, 0⟩, [96]),
      (.mldb ⟨false, 2, 100, 1, 2⟩, [100, nextReg 100]), (.mma ⟨false, 1, 98, 7, 0⟩, [98, nextReg 98]), (.mmaPair ⟨false, 1, 98, 7, 0⟩, [98, nextReg 98]),
      (.mstore ⟨false, 102, 104, 0, 0⟩, [102, nextReg 102, 104, nextReg 104]), (.mstore ⟨false, 102, 106, 0, 12⟩, [102, nextReg 102, 106, nextReg 106])] ∧
    AllIssue matSt 0 [(.mloadc ⟨false, 102, 104, 0, 0⟩, [102, nextReg 102, 104, nextReg 104]), (.msave ⟨false, 98, 96, 0, 0⟩, [96, 98]),
      (.mrst ⟨false, 98, 96, 0, 0⟩, [96, 98]), (.msave ⟨false, 0, 104, 0, 1⟩, [104])] ∧
    (matSt.team 0).tok = 0 ∧ (matSt.team 0).regions = [] ∧ lowHalf 98 (matSt.team 0) = 0 ∧ highHalf 98 (matSt.team 0) = 1 ∧
    lowHalf 106 (matSt.team 0) + highHalf 106 (matSt.team 0) = 98304 ∧ (checkReads matSt 0 false [(0x300400, 32)]).isNone = true ∧
    slotOf matSt 0 2 = some (matRec 1) ∧ srRoleB (matRec 1) = true ∧ lowHalf 101 (matSt.team 0) % 64 = 0 ∧
    (checkReads matSt 0 false (tileReads (matRec 1) 0 64)).isNone = true ∧
    slotOf matSt 0 1 = some (matRec 0) ∧ srRoleB (matRec 0) = false ∧ residentB matSt 0 0 = some (7, tileN (alignedWidth 7 0), false) ∧
    residentB matSt 0 1 = residentB matSt 0 0 ∧ srImode (matRec 0) = false ∧ 1 ≤ 98304 / tileN (alignedWidth 7 0) ∧
    lowHalf 99 (matSt.team 0) + tileN (alignedWidth 7 0) ≤ 98304 ∧ highHalf 99 (matSt.team 0) % 64 = 0 ∧
    (checkReads matSt 0 false (mulReads (matRec 0) false 0 1 0 16)).isNone = true ∧
    (rectAt ⟨false, 102, 104, 0, 0⟩ (matSt.team 0)).bad = false ∧
    (checkWrites matSt 0 false (rectAt ⟨false, 102, 104, 0, 0⟩ (matSt.team 0)).parts).isNone = true ∧
    (checkReads matSt 0 false (rectAt ⟨false, 102, 104, 0, 0⟩ (matSt.team 0)).parts).isNone = true ∧
    (checkWrites matSt 0 false [(0x300400, 8)]).isNone = true ∧ (checkReads matSt 0 false [(0x300400, 8)]).isNone = true ∧
    0x305000 % 4096 = 0 := by unfold canQueue; decide +kernel
/-- Entries of bins 0 and 1 in the group's hamper, one of them speculative; lane 2 of the team is vacant; s1 is a record's address. -/
def hent (b : Nat) (spec : Bool) (n : Nat) : HEntry :=
  { bin := b, spec := spec, rtag := 0, taken := false, nreg := 2, pushno := n, group := 0, pay := [7, 8], pusher := 0, pushRid := 0, drawer := 0, drawRid := 0, slot := n }
def taskSt : State := withS {
  calm with
    groups := [(0, { grp with hamper := [hent 0 false 0, hent 1 true 1, hent 0 false 2], pushno := 3 })]
    teams := [(0, { calm.team 0 with live := 251, mask := 251 })] } [(1, 0x300140)]
def emptyTeam : State := taskSt.modTeam 0 fun t => { t with live := 1, mask := 1 }
theorem wit_TasksAndLaunch : AllIssue taskSt 0 [(.split ⟨false, false, 0, 1, 7⟩, pairRegs false 1), (.fork ⟨false, 31, 0, 0⟩, []), (.take ⟨false, 1, 0, 0⟩, []),
      (.take ⟨false, 1, 0, 7⟩, []), (.hstat ⟨false, 96, 0, 7⟩, []), (.lstat ⟨false, 97, 0, 0⟩, []), (.launch ⟨false, 0, 97, 7, 0⟩, [97])] ∧
    (taskSt.team 0).st = .issuing ∧ (teamGroup taskSt 0).map (·.hamper.length) = some 3 ∧ 3 + 8 ≤ ({ grp with hamper := [] } : Group).hamperN ∧
    taskSt.grid? 0 = some (plGrid 0) ∧ (plGrid 0).det = false ∧ (plGrid 0).quiescent = false ∧ grp.hlog ≠ 0 ∧ (taskSt.team 0).tok = 0 ∧
    mayAct taskSt 0 ∧ grp.launchq.length < 4 ∧ (reg 97 (taskSt.team 0) 5 0).toNat % 64 = 0 ∧
    (match xlateN taskSt 0 (teamAs taskSt 0) 0x300140 192 .read with
      | .ok ps => (gates taskSt 0 ((distinct (ps.map fun x => lineOf x.1)).map fun l => (l, counterCoh matSt (l * 128) 0)) false).isNone
      | _ => false) = true ∧
    (vacate (taskSt.team 0) ((taskSt.team 0).mask &&& (taskSt.team 0).live)).live = 0 ∧
    ((emptyTeam.team 0).live &&& (emptyTeam.team 0).mask) = (emptyTeam.team 0).live := by unfold mayAct; decide +kernel
/-- The team at handler level; controller 1 with a grant on the registers of die 0. -/
def lvlSt : State := withS (mach { tm with lvl := true }) [(1, 0xF00)]
def ioSt : State := {
  ctlSt with
    access := [(41 * 256, 271), (41 * 256 + 2, 0xFFFFFFFFFF000)]
    teams := [(ctlKey 1, { ctlTm with s := [(1, BitVec.ofNat 64 (regBase + 0x10000000)), (2, BitVec.ofNat 64 regBase)] })] }
theorem wit_SystemRegisters : AllIssue st 0 [(.rdsr ⟨false, 2, 0x00⟩, []), (.rdsr ⟨false, 96, 0x12⟩, []), (.rdsr ⟨false, 2, 0x05⟩, []), (.rdsr ⟨false, 2, 0x10⟩, []),
      (.rdsr ⟨false, 96, 0x29⟩, []), (.wrsr ⟨false, 96, 0x00⟩, [96]), (.wrsr ⟨false, 96, 0x04⟩, [96]), (.wrsr ⟨false, 2, 0x05⟩, [2]), (.wrsr ⟨false, 97, 0x25⟩, [97]),
      (.wrsr ⟨false, 97, 0x29⟩, [97])] ∧ (st.team 0).lvl = false ∧
    AllIssue lvlSt 0 [(.rdsr ⟨false, 96, 0x20⟩, []), (.wrsr ⟨false, 97, 0x06⟩, [97]), (.wrsr ⟨false, 97, 0x20⟩, [97]), (.wrsr ⟨false, 97, 0x21⟩, [97]),
      (.wrsr ⟨false, 97, 0x26⟩, [97]), (.wrsr ⟨false, 97, 0x29⟩, [97])] ∧ (lvlSt.team 0).lvl = true ∧
    AllIssue ioSt (ctlKey 1) [(.ldio ⟨false, 99, 97, 7, 6⟩, [97]), (.stio ⟨false, 99, 97, 0, 6⟩, [99, 97]), (.ldio ⟨false, 99, 98, 0, 4⟩, [98])] ∧
    (ioSt.team (ctlKey 1)).tok = 0 ∧ ctlKey 1 - 2 ^ 60 = 1 ∧ (∀ w ∈ [true, false], ioOk ioSt 1 (regBase + 0x10000000) 8 w = true ∧ ioOk ioSt 1 regBase 4 w = false) ∧
    (teamGroup st 0 = some grp ∧ st.grid? grp.seq = some (plGrid 0) ∧ AllIssue st 0 [(.rdsr ⟨false, 96, 0x07⟩, []), (.rdsr ⟨false, 2, 0x13⟩, []), (.rdsr ⟨false, 96, 0x1C⟩, [])]) ∧
    AllIssue ctlSt (ctlKey 1) [(.rdsr ⟨false, 96, 0x30⟩, [])] ∧
    (reg 97 (ioSt.team (ctlKey 1)) 5 0).toNat = regBase + 0x10000000 := by decide +kernel

/-- A word in flight that has not arrived, holding token 2. -/
def infl (id run : Nat) : Inflight :=
  { id := id, due := if run = 0 then 9 else 0, tok := some 2, rid := 0, run := run, wait := .arrival, exact := false, arrived := false, applied := false, vw := [⟨vKey 3 0, 9, 7⟩], sw := [],
    flw := [], cbt := none }
def readySt : State := mach { tm with st := .ready, pipe := none }
def busyPipe : State := { readySt with cores := [(0, { Core.reset with pipes := [(0, 5)] })] }
def inflSt : State := mach { tm with clk := 9, inflight := [infl 0 0, infl 1 1], nextId := 2, run := 1, tok := 4 }
def spinSt : State := mach { tm with oiCount := Config.spinLimit, faultAddr := 0x300180 }
def agedSt : State := { (mach { tm with st := .ready, prio := 1, readyAt := 5, pipe := none }) with pairs := [(0, { Pair.reset with cyc := 1029 })] }
def cycleSt : State := mach { tm with st := .parked, park := .cycle, wait := ⟨0, 900⟩, pipe := none }
/-- A closed region with one store event, and two regions of which the first has read a line. -/
def regionOf (closed : Bool) (reads : List Nat) (cells : List (Nat × Byte)) : Region :=
  { rid := if closed then 0 else 1, wm := snapWaymark tm 0x200000, closed := closed, uacc := false, reads := reads, stores := tsetAll 0 [] cells,
    evts := if cells = [] then [] else [cells], spages := [], sstores := [], mapped := [] }
def commitSt : State := mach { tm with regions := [regionOf true [] [(0x300100, 1), (0x300107, 2)], regionOf false [] []], nextRid := 2 }
def conflictSt : State := mach { tm with regions := [regionOf true [0x300100 / 128] [], regionOf false [0x300180 / 128] []], nextRid := 2, escalRid := 9 }
theorem wit_SchedulerAndRegionEvents :
    (readyTeams readySt 0 = [0] ∧ (readySt.team 0).st = .ready ∧ (teamGroup readySt 0).isSome = true ∧ clockRuns readySt 0 = true ∧
      tget 0 (readySt.core 0).pipes 0 = 0 ∧ selectFirst readySt 0 1 = true) ∧
    (readyTeams busyPipe 0 = [0] ∧ tget 0 (busyPipe.core 0).pipes 1 = 0 ∧ selectAt busyPipe 0 0 = none ∧ selectFirst busyPipe 0 1 = true) ∧
    (((inflSt.team 0).inflight.map (·.id)).Nodup ∧ infl 0 0 ∈ (inflSt.team 0).inflight ∧ infl 1 1 ∈ (inflSt.team 0).inflight ∧
      (infl 0 0).due ≠ 0 ∧ (infl 1 1).due = 0 ∧ eventFirst inflSt 0 9 = true ∧ (infl 0 0).run ≠ (inflSt.team 0).run ∧ (infl 1 1).run = (inflSt.team 0).run ∧ (inflSt.team 0).park = .none) ∧
    ((mach { tm with refill := some (2 ^ 20) }).team 0).refill = some (2 ^ 20) ∧ (agedSt.team 0).st = .ready ∧
    (match xlateN (mach { tm with refill := some 32 }) 0 (teamAs (mach { tm with refill := some 32 }) 0)
      (spillVa (mach { tm with refill := some 32 }) tm 1 0) 64 .read with | .ok _ => true | _ => false) = true ∧
    ((spinSt.team 0).st = .issuing ∧ Config.spinLimit ≤ (spinSt.team 0).oiCount) ∧
    ((agedSt.team 0).st = .ready ∧ (agedSt.team 0).age < (agedSt.team 0).prio ∧ (agedSt.team 0).readyAt + 1024 ≤ teamCyc agedSt 0) ∧
    ((cycleSt.team 0).st = .parked ∧ (cycleSt.team 0).park = .cycle ∧ saveDecided cycleSt 0 = false ∧ (cycleSt.pair 0).stopped = false ∧ eventFirst cycleSt 0 900 = true) := by decide +kernel
theorem wit_RegionEvents :
    ((commitSt.team 0).st ≠ .swapped ∧ (commitSt.team 0).park ≠ .fault ∧ unticketed commitSt 0 = false ∧
      ((commitSt.team 0).regions.map fun r => (r.closed, r.uacc, accessesDone commitSt 0 r.rid, (commitGate commitSt 0 r).isNone,
        r.evts.all fun e => e.all fun c => (tget? r.stores c.1).isSome)) = [(true, false, true, true, true), (false, false, true, true, true)]) ∧
    ((∀ x ∈ commitSt.groups, x.2.rmarks = []) ∧ (∀ x ∈ commitSt.teams, x.1 = 0)) ∧
    (unticketed conflictSt 0 = false ∧ (conflictSt.team 0).careful = false ∧
      ((conflictSt.team 0).regions.map fun r => (r.reads.isEmpty, (conflictSt.team 0).escalRid == r.rid)) = [(false, false), (false, false)]) := by
  decide +kernel

/-- The machine with a grid handed over, one unit of it pending, and the descriptor of a metered context in memory. -/
def dwCells (a : Nat) (l : List Nat) : List (Nat × Byte) := (l.zipIdx.flatMap fun x => (List.range 8).map fun i => (a + 8 * x.2 + i, BitVec.ofNat 8 (x.1 / 2 ^ (8 * i))))
def noGroup : State := {
  st with
    teams := []
    groups := []
    grids := [(0, { plGrid 0 with next := 0, st := .accepted })]
    handed := [0]
    cur := none
    nextGid := 3
    sched := { Sched.reset with ctxbase := 0x110000 }
    pairs := [(0, { Pair.reset with metered := true })]
    mem := tsetAll 0 st.mem (dwCells 0x110000 (3 :: (plDesc.map (·.toNat)).drop 1)) }
/-- A group with a queued launch; a group whose teams are all parked; a swapped group with a team that wants back; a group
whose save is decided and whose teams are saved; a group that drains. -/
def launchSt : State := { calm with groups := [(0, { grp with launchq := [⟨plRecord, 0x300140, 0, 0, none⟩] })] }
def onTheirOwn (g : Group) (t : Team) : State := { mach t with groups := [(0, { g with mate := none })] }
def allParked : State := onTheirOwn grp { tm with st := .parked, park := .barrier, pipe := none }
def swappedSt : State := { (onTheirOwn { grp with st := .swapped } { tm with st := .swapped, satisfied := true, pipe := none }) with mem := noGroup.mem, sched := noGroup.sched, pairs := noGroup.pairs }
def savingSt : State := { (onTheirOwn { grp with hold := some false } { tm with st := .swapped, pipe := none }) with saveBusy := [(0, 16)] }
def drainSt : State := onTheirOwn { grp with st := .draining, hamper := [hent 1 false 0] } { tm with st := .exited, pipe := none }
theorem xlatePieces_ok {s : State} {core as va : Nat} {k : AKind} {pz : Bool} (n : Nat) : ∀ l : List Nat, (∀ i ∈ l, i ≤ n) →
    (∀ i ∈ l, ∃ p, xlate s core as (va + i) k pz = .ok p ∧ p.loc + n ≤ hostBase) →
    ∃ ps, xlatePieces s core as va k pz l n = .ok ps ∧ ∀ x ∈ ps, x.1 < hostBase
  | [], _, _ => ⟨_, rfl, by simp⟩
  | i :: r, hl, h => by
    obtain ⟨p, hp, hb⟩ := h i (by simp)
    obtain ⟨ps, hps, hx⟩ := xlatePieces_ok n r (fun j hj => hl j (by simp [hj])) fun j hj => h j (by simp [hj])
    have hr : ∀ q : List Nat, (∀ j ∈ q, j ≤ n) → (match q with | j :: _ => j | [] => n) ≤ n := by intro q hq; cases q <;> simp_all
    have hr := hr r fun j hj => hl j (by simp [hj])
    refine ⟨_, by simp only [xlatePieces, hp, hps]; rfl, ?_⟩
    intro x hm
    simp only [List.mem_append, List.mem_map, List.mem_range] at hm
    obtain ⟨j, hj, rfl⟩ | hm := hm
    · have hj : j < n := Nat.lt_of_lt_of_le hj (Nat.le_trans (Nat.sub_le _ i) hr)
      simp only; omega
    · exact hx x hm
/-- A long save is possible where each of its pages translates to the device's own memory. -/
theorem savePut_none {s : State} {g : Group} {va m : Nat} {b : List Byte} (hb : b.length = 4096 * m) (hva : va % 4096 = 0)
    (hc : va + 4096 * m ≤ 2 ^ 57) (hp : s.poison = [])
    (h : ∀ i < m, ∃ p, xlate s g.core g.as (va + 4096 * i) .write = .ok p ∧ p.loc + 4096 * m ≤ hostBase) :
    ∃ s1, savePut s g va b = (s1, none) := by
  obtain ⟨ps, hps, hx⟩ := xlatePieces_ok (s := s) (core := g.core) (as := g.as) (va := va) (k := .write) (pz := false) (4096 * m)
    (pageCuts va (4096 * m)) (by
      intro i hi
      simp only [pageCuts, List.mem_filter, List.mem_range] at hi
      omega) (by
    intro i hi
    simp only [pageCuts, List.mem_filter, List.mem_range, Bool.or_eq_true, beq_iff_eq] at hi
    obtain ⟨p, hp⟩ := h (i / 4096) (by omega)
    exact ⟨p, by rw [show 4096 * (i / 4096) = i by omega] at hp; exact hp⟩)
  have hn : ¬(2 ^ 57 < va + 4096 * m ∧ va < 2 ^ 57) := by omega
  have hr : portRefused s g.as .write ps = false := by
    simp only [portRefused, List.any_eq_false, isHost, Bool.and_eq_true, decide_eq_true_eq, not_and]
    intro x hm h1; have := hx x hm; omega
  have hl : xlateN s g.core g.as va (4096 * m) .write = .ok ps := by
    unfold xlateN
    rw [if_neg hn, hps]
    simp [poisoned, hp, hr]
  exact ⟨memPut s ((ps.map (·.1)).zip b), by unfold savePut; rw [hb, hl]⟩
def xOk (r : Xlate) : Bool := match r with | .ok p => decide (p.loc + 4096 * 272 ≤ hostBase) | .fault _ => false
theorem xOk_ok {r : Xlate} (h : xOk r = true) : ∃ p, r = .ok p ∧ p.loc + 4096 * 272 ≤ hostBase := by cases r <;> simp_all [xOk]
theorem wit_groupSave : ∃ s1 g, savingSt.group? 0 = some g ∧ savePut savingSt g (groupSaveVa g) (groupBytes savingSt g) = (s1, none) := by
  refine (savePut_none (m := 272) (g := { grp with hold := some false, mate := none }) (s := savingSt)
    (b := groupBytes savingSt { grp with hold := some false, mate := none }) (va := groupSaveVa { grp with hold := some false, mate := none })
    (by simp [groupBytes]) (by decide +kernel) (by decide +kernel) (by decide +kernel) ?_).imp fun s1 h => ⟨_, by decide +kernel, h⟩
  have h : ∀ i < 272, xOk (xlate savingSt grp.core grp.as (groupSaveVa grp + 4096 * i) .write) = true := by decide +kernel
  exact fun i hi => xOk_ok (h i hi)
theorem wit_GroupEvents :
    (noGroup.handed = [0] ∧ noGroup.grid? 0 = some { plGrid 0 with next := 0, st := .accepted } ∧
      (match noGroup.grid? 0 with
        | some q => decide (q.prio < 4) && decide (q.next < gridUnits q) && !lrCl2 q.lrec && place noGroup (unitNeed noGroup q) false == some 0 &&
          (newGroup noGroup q (unitCoords q q.next).1 (unitCoords q q.next).2.1 (unitCoords q q.next).2.2 0 0 none).isSome
        | none => false) = true) ∧
    ((launchSt.group? 0).map (fun g => (g.gid, g.launchq.length, g.seq)) = some (0, 1, 0) ∧ (launchSt.grid? 0).isSome = true ∧
      (gates launchSt (launchAgent 0) (codeFar launchSt 0 plRecord) false).isNone = true) ∧
    ((allParked.group? 0).map (fun g => (g.st, g.mate, g.teamKeys)) = some (.resident, none, [0]) ∧ (allParked.team 0).st = .parked ∧ (allParked.team 0).gid = 0 ∧ isCtl 0 = false ∧ allParked.saveBusy = [] ∧
      eventFirst allParked 0 (allParked.sched.swapwait.toNat + 1) = true) ∧
    ((savingSt.group? 0).map (·.st) = some .resident ∧ savingSt.saveBusy = [(0, 16)] ∧ (savingSt.team 0).st = .swapped ∧ unticketed savingSt 0 = false ∧ scratchBusy savingSt 0 = false ∧
      (arrOf savingSt grp.core).holder = none) ∧
    (match swappedSt.group? 0 with
      | some g => decide (g.st = .swapped) && g.mate.isNone && g.teamKeys.any (fun k => wantsBack (swappedSt.team k)) &&
        place swappedSt ⟨slotsNeed g.width g.nteam, g.stashSize, bits (descDw swappedSt g.ctx 0) 1 1 == 1, g.hold⟩ false == some 0
      | none => false) = true ∧
    (match drainSt.group? 0 with | some g => decide (g.st = .draining) && drained drainSt g | none => false) = true ∧
    (drainSt.grid? 0).map (·.seq) = some 0 ∧ drainSt.cores = [] := by decide +kernel

/-- A group alone on its die waits on bin 3; entries stand in cisterns. -/
def waitSt (q : Grid) : State := { (onTheirOwn grp { tm with st := .parked, park := .take, wait := ⟨0, 3⟩, pipe := none }) with grids := [(0, q)] }
def full0 : Grid := (plGrid 0).setCist 0 3 [hent 3 false 0, hent 3 false 1]
def full1 : Grid := ((plGrid 0).setCist 1 3 [hent 3 false 0, hent 3 false 1]).setCist 7 3 [hent 3 false 2]
def foraging (rest : Bool) : Grid := { plGrid 0 with forage := [(0, ⟨3, if rest then none else some 1, if rest then [] else [hent 3 false 0], rest⟩)] }
def idleSt (last : Option (List Nat)) : State := { st with groups := [], teams := [], grids := [(0, { plGrid 0 with lastSweep := last })], cur := none }
theorem wit_HamperEvents :
    (match (waitSt full0).group? 0, (waitSt full0).grid? 0 with
      | some g, some q => decide (dieGroups (waitSt full0) g.seq (dieOfCore g.core) = [g]) && waitsTake (waitSt full0) g 3 && (standing g 3).isEmpty &&
        decide (g.hamper.length < g.hamperN) && (q.cist 0 3).all (fun e => e.drawer == 0) && decide (q.cist 0 3).Nodup && decide (q.cist 0 3 ≠ [])
      | _, _ => false) = true ∧
    (∀ q ∈ [full1, plGrid 0], (waitSt q).grid? 0 = some q ∧ q.det = false ∧ tget? q.forage 0 = none ∧ forageDue (waitSt q) 0 0 3 = true ∧
      ∀ d < 8, (∀ e ∈ q.cist d 3, e.drawer = 0) ∧ (q.cist d 3).Nodup) ∧
    ((donors 0).find? fun d => pathOk (waitSt full1) 0 d && !(full1.cist d 3).isEmpty) = some 1 ∧
    ((donors 0).find? fun d => pathOk (waitSt (plGrid 0)) 0 d && !((plGrid 0).cist d 3).isEmpty) = none ∧
    ((waitSt (foraging false)).grid? 0 = some (foraging false) ∧ (foraging false).det = false) ∧
    (forageDue { (waitSt (foraging true)) with teams := [] } 0 0 3 = false) ∧
    (pathOk st 0 7 = true ∧ ∀ x ∈ st.grids, x.2.forage = []) ∧
    (∀ l ∈ [none, some (List.replicate 8 0)], sweepCounts (idleSt l) { plGrid 0 with lastSweep := l } = [0, 0, 0, 0]) ∧ lrHlog plRecord ≠ 0 := by
  decide +kernel
/-- A chain stands at a good and at a bad transfer record; it has elements on the way to scratch; its sluice step is due. -/
def copySt (d1 : Nat) : State := { chanSt with mem := tsetAll 0 chanSt.mem (dwCells 0x300140 [1, d1, 0x300200, 0x300280, 2 + 2 ^ 16 + 2 ^ 32, 0, 0, 0]) }
def arrivalChain : Chain := { chain1 with busy := true, arrivals := [⟨64, some [5, 6], 2, none, false⟩, ⟨66, some [7, 8], 2, none, false⟩], dw0 := 9 }
def sluiceChain : Chain := { chain1 with stepDue := true, shadow := [(0x300280, 9)] }
theorem wit_CopyEngineEvents : clockRuns chanSt 0 = true ∧ chain1.cid = 1 ∧ (chain1.busy = false ∧ chain1.stepDue = false ∧ chain1.ended = false) ∧
    (∀ x ∈ [(24, true), (7, false)], (copySt x.1).chain? 1 = some chain1 ∧ (chanOf (copySt x.1) chain1.core chain1.ch).heads.head? = some 1 ∧
      (match readRecord (copySt x.1) chain1.gid 0 chain1.ctx chain1.cur with
        | .ok l =>
          let c := { chain1 with busy := true, dw0 := nth 0 l 0, done := 0, stat := 0 }
          decide (nth 0 l 0 % 2 = 1) && decide (bits (nth 0 l 0) 3 1 = 0) && recordOk l (some grp.progBytes) == x.2 &&
          (gates (copySt x.1) (chainAgent 1) (srcLines (copySt x.1) c l) false).isNone && ((recElems l).foldl (copyElem (copySt x.1) l) c).arrivals.isEmpty
        | _ => false) = true) ∧
    (match xlateN (copySt 7) 0 chain1.ctx 0x300140 16 .write true with | .ok _ => true | _ => false) = true ∧
    (arrivalChain.arrivals.length = 2 ∧ arrivalChain.gid = some grp.gid) ∧
    (let s := { chanSt with chains := [(1, sluiceChain)] }
     sluiceChain.stepDue = true ∧ sluiceChain.committed = true ∧ (plGrid 0).det = false ∧ unticketed s 0 = false ∧ sluiceChain.queueRec = none ∧
     sluiceChain.ulines = [] ∧ sluiceChain.vas = [] ∧ (wrlGate (s.setChain { sluiceChain with logged := true }) (chainAgent 1) []).isNone = true ∧
     gates s noTeam ((distinct (sluiceChain.shadow.map fun x => lineOf x.1)).map fun l => (l, 0)) true = none) := by
  decide +kernel
/-- The array holds a queued, a running, a retiring operation, and a bound counter. -/
def mop (st : MStage) : MOp :=
  { mid := 1, tk := 0, gid := 0, rid := 0, ctx := grp.as, ins := .mzero ⟨false, 0, 98, 0⟩, ra := 2 ^ 32, rb := 0, rd := 0, re := 0, lrec := [], issue := 5, beginC := 6,
    occ := 4, lat := 2, stage := st, reads := (0, 0), writes := (0, 1), usesB := 0, setsB := 0, mem := false, committed := true, shadow := none,
    results := [(0, 0)], resB := none, acb := none, bcb := none, mstat := 0, outcnt := 0, mset := none, data := [], spages := [], ulines := [],
    toScratch := false, slines := [], slinesIn := [], release := 0, token := none }
/-- A store of two bytes on two lines of scratch, whose region has committed. -/
def mstoreOp : MOp := { mop .latency with
  ins := .mstore ⟨false, 102, 104, 0, 8⟩, reads := (0, 1), writes := (0, 0), data := [(0, 1), (128, 2)], toScratch := true, slines := [0, 1], occ := 4 }
def bind0 : MBind := { mid := 0, va := 0x300108, ctx := grp.as, tk := 0, gid := 0, rid := 0, committed := true, made := false, sent := false }
def opOn (o : MOp) : State :=
  { (matSt.modTeam 0 fun t => { t with clk := 20 }) with
      cores := [(0, { Core.reset with arr := { arr0 with ops := [o], mdeps := [bind0], nextMid := 2 } })] }
def opSt (st : MStage) : State := opOn (mop st)
/-- The same with a codebook to read where nothing is mapped. -/
def badOp : MOp := { mop .queued with ins := .mcbk ⟨false, 0, 96, 0, 0⟩, ra := 2 ^ 45, writes := (0, 0), mem := true }
/-- A counter at device 3, over port 17, bound to an operation that has retired. -/
def farBind : MBind := { bind0 with va := 2 ^ 30 + 0x108 }
def farCounter : State := {
  matSt with
    cores := [(0, { Core.reset with arr := { arr0 with mdeps := [farBind], nextMid := 2 } })]
    mem := tsetAll 0 matSt.mem [(0x102008, 0x8F), (0x10200E, 0x30)]
    access := [(0, 7), (2, 0x3FFFF000), (37 * 256, 7), (37 * 256 + 2, 0x3FFFF000)]
    ports := [(17, { Port.reset with st := 2 })]
    route := [(3, 1 <<< 17)] }
theorem wit_MatrixEvents :
    (∀ x ∈ [(MStage.queued, 5), (.running, 10)], clockRuns (opSt x.1) 0 = true ∧ (arrOf (opSt x.1) 0).ops.find? (fun o => o.stage == x.1) = some (mop x.1) ∧
      eventFirst (opSt x.1) 0 x.2 = true) ∧
    (match opRun (opSt .queued) 0 (mop .queued) with | .ok _ => true | _ => false) = true ∧
    (match opRun (opOn badOp) 0 badOp with | .fault _ _ => true | _ => false) = true ∧ uBusy ((opOn badOp).team 0) = false ∧ eventFirst (opOn badOp) 0 5 = true ∧
    (∀ o ∈ [mop .queued, badOp], opScratchLines (opOn o) o = [] ∧ (∀ e ∈ (arrOf (opOn o) 0).ops, e.stage ≠ .running ∧ ¬e.mid < 1) ∧
      gates (opOn o) (arrayAgent 0) (engLines (opOn o) 0 o.ctx (opGlobal (opOn o) o)) false = none ∧ engLines (opOn o) 0 o.ctx (opGlobal (opOn o) o) = []) := by
  decide +kernel
/-- What an array does next: an operation, its lines if it delivers some, and the cycle. -/
def nextIs (s : State) (o : MOp) (ls : Option (List Nat)) (c : Nat) : Bool :=
  match nextOut s 0, ls with
  | some (.retire p d), none => p == o && d == c
  | some (.lines p l d), some k => p == o && l == k && d == c
  | _, _ => false
theorem wit_MatrixResults :
    (nextIs (opSt .latency) (mop .latency) none 12 = true ∧ eventFirst (opSt .latency) 0 12 = true ∧ (mop .latency).toScratch = false) ∧
    (nextIs (opOn mstoreOp) mstoreOp (some [0, 1]) 8 = true ∧ eventFirst (opOn mstoreOp) 0 8 = true) ∧
    (let o := { mstoreOp with slinesIn := [0, 1] }
     nextIs (opOn o) o none 12 = true ∧ eventFirst (opOn o) 0 12 = true ∧ o.toScratch = true ∧ storesOut o.ins = true) ∧
    (opOn mstoreOp).group? 0 = (opSt .latency).group? 0 ∧ ((opSt .latency).group? 0).map (fun g => (g.gid, g.maps)) = some (0, []) ∧
    (let s := opSt .latency
     let a := arrOf s 0
     a.mdeps.find? (fun d => bindDue a d && !unticketed s d.gid) = some bind0 ∧
     (match xlateN s 0 grp.as 0x300108 8 .write with
      | .ok ((loc, _) :: _) => !isRemote loc && (gates s noTeam [(lineOf loc, 0)] true).isNone
      | _ => false) = true) ∧
    (let s := farCounter
     let a := arrOf s 0
     a.mdeps.find? (fun d => bindDue a d && !unticketed s d.gid) = some farBind ∧ s.borrowed = [] ∧ freshTag s < 4096 ∧
     (match xlateN s 0 grp.as farBind.va 8 .write with | .ok ((loc, _) :: _) => isRemote loc | _ => false) = true) := by
  decide +kernel
/-- Queue 0 stands at a record of a kind. -/
def queueSt (kind dw2 : Nat) : State := {
  noGroup with
    queues := [(0, { Queue.reset with heads := [0x300140], en := true })]
    mem := tsetAll 0 noGroup.mem (dwCells 0x300140 (if kind = 1 then 1 :: (plRecord.map (·.toNat)).drop 1 else [1, kind, dw2])) }
theorem wit_QueueEvents : (∀ x ∈ [(1, 0, 0), (2, 0x300200, 0), (3, 0x300108, 0), (4, 0x300108, 0), (5, 1, 0), (3, 0x300109, 0x0A), (2, 0x300201, 0x0A)], let s := queueSt x.1 x.2.1
      servedQueue s = some 0 ∧ (match nextRec s 0 with
        | .found va l => va == 0x300140 && lrKind l == x.1 && (cmdGate s 0 (ctxAs s 0) l).isNone &&
          (if x.1 = 1 then launchStatus s l 0 false false else (cmdStatus s (ctxAs s 0) l).1) == x.2.2
        | _ => false) = true ∧
      (match xlateN s 0 (ctxAs s 0) 0x300140 16 .write true with
        | .ok ps => (recordGate s 0 ps).isNone && (uLinesOf ps).isEmpty
        | _ => false) = true) ∧ noGroup.lock.hosten = false ∧ ({ noGroup with lock := { Lock.reset with hosten := true } } : State).lock.hosten = true := by decide +kernel

/-- Team 0 waits for the counter at 0x300100, whose value is 7; team 0 holds fault tag 5; a fault report waits. -/
def watchSt (v : Nat) : State :=
  { (mach { tm with st := .parked, park := .counter, pipe := none }) with dies := [(0, { Die.reset with watch := [⟨0x300100, 0, BitVec.ofNat 64 v, .team 0, false, false⟩] })] }
def faultSt : State := {
  mach { tm with st := .parked, park := .fault, tag := some 5, pipe := none } with
    lock := { Lock.reset with hosten := true }
    tags := [⟨5, 0⟩]
    faultWait := [⟨0, some 5, 0, 0, 0, cNOTMAPPED, 0, 0x301000, 1, 0, 0, 0⟩]
    sched := { Sched.reset with frbase := 0x120000, frsize := 64, frprod := 1, frcons := 0 } }
def invSt : State := { st with sched := { Sched.reset with tlbBusy := true }, tlb := [⟨0, 0, 0x300, 0, 1⟩] }
theorem wit_DriverEvents : (∀ v ∈ [7, 8], (watchSt v).dies = [(0, { Die.reset with watch := [⟨0x300100, 0, BitVec.ofNat 64 v, .team 0, false, false⟩] })] ∧
      isRemote 0x300100 = false ∧ gates (watchSt v) 0 [(lineOf 0x300100, 0)] false = none ∧ (watchSt v).attrs = [] ∧ ((watchSt v).team 0).st = .parked ∧ saveDecided (watchSt v) 0 = false ∧
      condMet 0 (BitVec.ofNat 64 (readMemN (watchSt v) 0x300100 8)) (BitVec.ofNat 64 v) = decide (v = 7)) ∧
    (faultSt.tags.find? (fun x => x.tag == 5) = some ⟨5, 0⟩ ∧ (faultSt.team 0).st = .parked ∧ saveDecided faultSt 0 = false ∧ (faultSt.group? (faultSt.team 0).gid).isSome = true) ∧
    (faultSt.faultWait.length = 1 ∧ (∀ x ∈ faultSt.faultWait, x.tag ≠ none) ∧ faultSt.sched.frprod - faultSt.sched.frcons < faultSt.sched.frsize / 32) ∧
    faultSt.lock.hosten = true ∧ (faultSt.sched.tlbBusy = false ∧ isTlbinv 63 0x300000 (.tlbinvAll, 128, none)) ∧
    (invSt.sched.tlbBusy = true ∧ invSt.sched.tlbWait = none ∧ invSt.sched.tlbHeld = [] ∧ ∀ h ∈ tlbHolders invSt, tlbPending invSt h = false) := by
  refine ⟨by decide +kernel, by decide +kernel, by decide +kernel, by decide +kernel, ⟨by decide +kernel, ?_⟩, by decide +kernel⟩
  unfold isTlbinv; simp
/-- The lockkeeper has opened the host's registers and its controller runs. -/
def openSt : State := { st with lock := { Lock.reset with hosten := true, mlock := true }, ctls := [(0, { Ctl.reset with st := .running })] }
theorem wit_BlockEvents : (openSt.lock.hosten = true ∧ tdiLocked openSt = false ∧ openSt.lock.mbQueue = [] ∧ openSt.lock.mlock = true) ∧ st.lock.hosten = false ∧
    (5 ≤ (7 : BitVec 64).toNat ∧ (7 : BitVec 64).toNat < 8) ∧ ¬(5 ≤ (8 : BitVec 64).toNat ∧ (8 : BitVec 64).toNat < 8) ∧ ¬(5 ≤ (4 : BitVec 64).toNat) ∧
    (∀ x ∈ [(0, true), (7, true), (9, false), (16, false)], spdmServed openSt x.1 = x.2) ∧ spdmServed { openSt with spdm := .open_ } 12 = true ∧
    (openSt.ctl 0).st = .running ∧ openSt.tdi = .unlocked ∧ ({ openSt with tdi := .locked } : State).tdi = .locked ∧
    (0x400 : BitVec 64).getLsbD 10 = true ∧ (st.ctl 10).st = .reset ∧ st.variant ≠ .noLink ∧ (openSt.ctl 0).st ≠ .reset := by decide +kernel
/-- A stack and a host port in a running step, and a link in its last. -/
def trainSt : State := {
  st with
    dstacks := [(0, { Stack.reset with tr := { Train.reset with last := 3 } }), (1, { Stack.reset with tr := { Train.reset with busy := true, step := 4, last := 3 } }),
      (15, { Stack.reset with tr := { Train.reset with last := 7 } })]
    hports := [(0, { HPort.reset with tr := { Train.reset with busy := true, step := 4, last := 3 } })]
    ports := [(17, { Port.reset with tr := { Train.reset with busy := true, step := 5, last := 4 }, heldPeer := 9, peer := 2 })] }
theorem wit_TrainingEvents : ((trainSt.stack 0).tr.busy = false ∧ 4 ≤ (trainSt.stack 0).tr.last + 1 ∧ (trainSt.stack 0).tr.last + 1 < 5) ∧
    ((trainSt.stack 1).tr.busy = true ∧ endsStack 1 0 5 (.dramTrainDone 1 5, false, 5) ∧ endsStack 1 0 0 (.dramTrainDone 1 0, true, 0)) ∧
    (trainSt.stack 15).tr.last = 7 ∧ (trainSt.stack 14).tr.last ≠ 7 ∧
    ((trainSt.hport 0).tr.busy = true ∧ (trainSt.hport 0).tr.step ≠ 3 ∧ endsLink 18 true (.linkTrainDone 18 true 0, true) ∧ endsLink 18 true (.linkTrainAbort 18, false)) ∧
    ((trainSt.port 17).tr.busy = true ∧ (trainSt.port 17).tr.step = 5 ∧ (trainSt.port 17).peer ≠ (trainSt.port 17).heldPeer) := by
  refine ⟨by decide +kernel, ⟨by decide +kernel, ?_, ?_⟩, by decide +kernel, by decide +kernel, ⟨by decide +kernel, by decide +kernel, ?_, ?_⟩, by decide +kernel⟩ <;>
    simp [endsStack, endsLink]
def pairSt (x : Pair) : State := { st with pairs := [(383, x)] }
theorem wit_ClockAndErrorEvents :
    (let x := { Pair.reset with metered := true }; x.metered = true ∧ x.switching = false ∧ x.stopped = false ∧ 400 + x.mfloor ≤ vcoreOf (pairSt x) 7) ∧
    (let x := { Pair.reset with metered := true, stopped := true }; x.stopped = true ∧ vcoreOf (pairSt x) 7 < 401 + x.mfloor) ∧
    (Pair.reset.metered = false ∧ Pair.reset.switching = false ∧ 428 + Pair.reset.drBase ≤ vcoreOf st 7 ∧
      ∀ k < 8, vcoreOf st 7 < 429 + Pair.reset.drBase + k * Pair.reset.drStep) ∧
    (8 * st.sched.thot.toNat < (761 : BitVec 12).toNat ∧ st.sched.dhot.toNat < (65 : BitVec 16).toNat) ∧
    ((696 : BitVec 12).toNat + 64 ≤ 8 * st.sched.thot.toNat ∧ (64 : BitVec 16).toNat ≤ st.sched.dhot.toNat) ∧ pairEmpty st 383 = true ∧ pairEmpty st 0 = false := by
  decide +kernel
/-- Die 0's memory open to host port 0; a dirty line of the host; lines the host holds with a snoop out. -/
def hostReq (w : Bool) : HostReq := { port := 0, bar0 := false, write := w, tee := false, addr := 0x300100, len := 8, data := [1, 2, 3, 4, 5, 6, 7, 8], keep := 0 }
def hostSt : State := {
  st with
    teams := []
    groups := []
    grids := []
    cur := none
    access := [(0, 1 + 2 + 4 + 2 * 8), (2, 0x3FFFF000)]
    lock := { st.lock with hosten := true }
    hostDirty := [0x300200 / 128]
    hostLines := [⟨0x300280 / 128, true, 2, false⟩, ⟨0x300300 / 128, false, 1, false⟩] }
theorem wit_HostPortEvents : (∀ w ∈ [true, false], (hostReq w).bar0 = false ∧ hostSt.hostWait = [] ∧ physLoc (hostReq w).addr = some 0x300100 ∧ isHost 0x300100 = false ∧
      hostRefused hostSt (hostReq w) 0x300100 = false ∧ tdiBreach hostSt (hostReq w) = false ∧ hostWaits hostSt (hostReq w) (lineOf 0x300100) = none ∧
      hostSt.poison.contains (lineOf 0x300100) = false ∧ hostRefused { hostSt with access := [] } (hostReq w) 0x300100 = true ∧
      hostRefused { hostSt with access := [] } { hostReq w with cxl := true, keep := 2 } 0x300100 = true) ∧
    tdiBreach hostSt (backWrite (0x300280 / 128) [1]) = false ∧ (∀ c < 64, descDw hostSt c 0 % 2 = 0) ∧
    (0x300200 / 128 ∈ hostSt.hostDirty ∧ 0x300180 / 128 ∉ hostSt.hostDirty ∧ hostSt.poison = [] ∧ hostSt.variant ≠ .noLink ∧
      (∀ l ∈ [0x300180 / 128, 0x300200 / 128], exclGate hostSt noTeam l = none)) ∧ ({ hostSt with variant := .noLink } : State).variant = .noLink ∧
    hostSt.hostLines.find? (fun x => x.line == 0x300280 / 128 && x.snoop != 0) = some ⟨0x300280 / 128, true, 2, false⟩ ∧
    hostSt.hostLines.find? (fun x => x.line == 0x300300 / 128 && x.snoop != 0) = some ⟨0x300300 / 128, false, 1, false⟩ ∧
    (hostSt.borrowed = [] ∧ hostSt.pages = []) ∧
    (∀ x ∈ [Tdi.locked, .unlocked], ({ hostSt with flr := .draining, tdi := x } : State).flr = .draining ∧ ({ hostSt with tdi := x } : State).tdi = x) ∧
    ({ hostSt with flr := .zeroing } : State).flr = .zeroing := by decide +kernel
/-- A peer, device 3, that may reach the memory; port 17 is up and is its route. -/
def pmsg (off : Nat) (flags : BitVec 32) : Msg := { src := 3, tag := 4, flags := flags, off := off, body := List.replicate 144 0 }
def peerSt : State := {
  hostSt with
    access := [(0, 1 + 2 + 4 + 3 * 8 + 3 * 2 ^ 8), (2, 0x3FFFF000)]
    ports := [(17, { Port.reset with st := 2 })]
    route := [(3, 1 <<< 17)]
    hostLines := []
    hostDirty := []
    remoteOut := [(4, ⟨1, remoteBase + 0x300100, 9⟩)] }
def pageSt (e : PageEntry) : State := { peerSt with pages := [(0x300, e)] }
theorem wit_LinkEvents : (peerSt.port 17).st = 2 ∧ (bits (leVal ((List.replicate 240 (0 : Byte)).take 4)) 16 3 = 0 ∧
      bits (leVal ((List.replicate 240 (0 : Byte)).take 4)) 0 8 = (peerSt.port 17).rxSeq) ∧ (peerSt.pages = [] ∧ peerSt.borrowed = [] ∧ peerSt.peerWait = [] ∧ peerSt.variant ≠ .noLink ∧
      ({ peerSt with remoteOut := [] } : State).remoteOut = [] ∧ pageHeld peerSt 0x300 = none ∧ pageHeld peerSt ((remoteBase + 3 * 2 ^ 45 + 0x300100) / 4096) = none) ∧
    (∀ w ∈ [true, false], peerRefused peerSt (pmsg 0x300100 0) w = false ∧ peerGate peerSt (lineOf 0x300100) 3 w = none ∧
      pageGate peerSt 0x300 3 w = none) ∧ physLoc 0x300100 = some 0x300100 ∧ peerRefused { peerSt with access := [] } (pmsg 0x300100 0) false = true ∧
    peerSt.poison.contains (lineOf 0x300100) = false ∧ (peerSt.pageEntry 0x300).recalls = [] ∧ (peerSt.pageEntry 0x300).sharers.length < 4 ∧
    (∀ h ∈ peerSt.hostLines, h.line / 32 ≠ 0x300) ∧
    (let s := pageSt { PageEntry.reset with offs := [(3, 0x300000)], owner := some 3, recalls := [(3, false)] }
     (s.pageEntry 0x300).recalls = [(3, false)] ∧ reqPage 9 (pmsg 0x300100 0) = 0x300 ∧
     tget 0 ({ s.pageEntry 0x300 with rtags := [(3, 4)] } : PageEntry).rtags 3 = (pmsg 0x300100 0).tag ∧ tget 0 (s.pageEntry 0x300).rtags 3 ≠ (pmsg 0x300100 0).tag ∧ ((routePort s 3 (tget 0 (s.pageEntry 0x300).offs 3 / 4096)).any fun k => (s.port k).st == 2) = true) ∧
    (∀ w ∈ [1, 2, 4], tget? ({ peerSt with remoteOut := [(4, ⟨w, remoteBase + 0x300100, 9⟩)] } : State).remoteOut 4 = some ⟨w, remoteBase + 0x300100, 9⟩) ∧
    (tget ⟨false, false, false⟩ peerSt.borrowed ((remoteBase + 3 * 2 ^ 45 + 0x300100) / 4096)).granted = false := by decide +kernel

/-- A word stands at the pc of the team, and of a controller; an event stands on the agenda. -/
def codeSt : State := {
  st with
    grids := [(0, { plGrid 0 with icache := (List.range 64).map fun i => (0x200000 + i, if i < 4 then BitVec.ofNat 8 (0x016285E2 / 2 ^ (8 * i)) else 0) })]
    agenda := [.issue (.team 0)]
    cur := none }
def ctlCode : State := { ctlSt with agenda := [.issue (.team (ctlKey 1))], mem := [(ctlSram 1 + 131, 0x20)], cur := none }
/-- The instruction that a fetch gives, if it gives one. -/
def fetched? (r : FetchI) : Option (Instr × Nat) := match r with | .ok i n => some (i, n) | _ => none
theorem wit_StepRunsDecoded :
    (fetched? (fetchInstr codeSt 0 0x200000) = some (.imad ⟨false, true, 10, 11, 98⟩, 1) ∧ HasWords codeSt 0 0x200000 [0x016285E2] ∧
      decode [0x016285E2] = .ok (.imad ⟨false, true, 10, 11, 98⟩) 1) ∧
    (let s0 := { codeSt with agenda := [] }
     isCtl 0 = false ∧ coTurn s0 0 = 0 ∧ clockRuns s0 (teamCore s0 0) = true ∧ (s0.team 0).st = .issuing ∧ AtWord (coSync s0 0) 0 ∧
     fetched? (fetchInstr (coSync s0 0) 0 ((coSync s0 0).team 0).pc.toNat) = some (.imad ⟨false, true, 10, 11, 98⟩, 1) ∧ wordFirst s0 0 = true ∧ uBusy (s0.team 0) = false ∧ groupReleasing s0 (s0.team 0).gid = false ∧
     unitFree (coSync s0 0) 0 (.imad ⟨false, true, 10, 11, 98⟩) ≤ ((coSync s0 0).team 0).clk) ∧
    wordFirst { codeSt with agenda := [], pairs := [(0, { Pair.reset with cyc := 3 })], teams := codeSt.teams ++ [(1, { tm with teami := 1, st := .parked, park := .cycle, wait := ⟨0, 3⟩, pipe := none, clk := 3 })] } 0 = false ∧
    (let s := { codeSt with agenda := [], cores := [(0, { Core.reset with scalarAt := 9 })] }
     (s.team 0).clk < unitFree s 0 (.iadd ⟨false, true, 96, 97, 98⟩)) ∧
    (let s0 := { ctlCode with agenda := [] }
     isCtl (ctlKey 1) = true ∧ AtWord s0 (ctlKey 1) ∧ (fetched? (fetchInstr s0 (ctlKey 1) (s0.team (ctlKey 1)).pc.toNat)).isSome = true) ∧
    Instr.isEvent .moduleReset = true := by
  unfold HasWords AtWord; decide +kernel
theorem wit_DecodeEncode : Instr.isEvent (.movl ⟨true, true, 127, 0, 0, 0xFFFFFFFF, 0x80000000⟩) = false ∧
    Instr.fieldsOk (.movl ⟨true, true, 127, 0, 0, 0xFFFFFFFF, 0x80000000⟩) = true := by decide +kernel
theorem wit_IllegalWords : (st.cur = some (.team 0) ∧ Instr.isEvent (.wfe ⟨true, 0, 0, 0⟩) = false ∧ wordOk st 0 (.wfe ⟨true, 0, 0, 0⟩) = false ∧
      (st.team 0).regions = [] ∧ (st.team 0).lvl = false ∧ (st.team 0).hvec ≠ 0) ∧
    (memSt.cur = some (.team 0) ∧ isCtl 0 = false ∧ wordOk memSt 0 (.wfe ⟨true, 0, 0, 0⟩) = false ∧ (memSt.team 0).regions.length = 1 ∧
      (memSt.team 0).lvl = false ∧ (memSt.team 0).hvec ≠ 0) ∧
    (ctlSt.cur = some (.team (ctlKey 1)) ∧ wordOk ctlSt (ctlKey 1) (.region ⟨false, 0, 0, 0⟩) = false ∧ (ctlSt.team (ctlKey 1)).hvec = 0) := by decide +kernel
theorem wit_MemoryStaysCanonical : Memory.wf st.mem ∧ ∃ t, step codeSt = .next t := by
  refine ⟨by decide +kernel, ?_⟩
  have h : (match step codeSt with | .next _ => true | _ => false) = true := by decide +kernel
  cases hs : step codeSt <;> simp_all

/-! WellFormed: for each check a term that it accepts and ill-formed terms that it refuses. -/
abbrev Checks (good bad : List Instr) : Prop := (∀ i ∈ good, i.wf = true) ∧ ∀ i ∈ bad, i.wf = false
theorem smoke_reserved_fields : Checks [.ineg ⟨false, true, 1, 2, 0⟩, .movl ⟨false, true, 1, 0, 0, 5, 6⟩, .bra ⟨true, 0, 5⟩, .bar ⟨false, 0, 0, 15⟩, .trl ⟨true, 255, 0⟩]
    [.ineg ⟨false, true, 1, 2, 1⟩, .movl ⟨false, true, 1, 0, 1, 5, 6⟩, .movl ⟨false, false, 1, 0, 0, 5, 6⟩, .bra ⟨true, 1, 5⟩, .bar ⟨false, 0, 0, 16⟩,
     .trl ⟨false, 0, 0⟩, .trl ⟨true, 0, 1⟩] := by decide +kernel
theorem smoke_predicates : Checks [.icmpEq ⟨false, true, 31, 2, 3⟩, .mif ⟨false, 0, 36, 2⟩, .pmov ⟨false, 0, 36, 7⟩, .pmov ⟨false, 0, 0, 3⟩, .ptoi ⟨false, 97, 31, 98⟩]
    [.icmpEq ⟨false, true, 32, 2, 3⟩, .mif ⟨false, 0, 37, 0⟩, .mif ⟨false, 0, 0, 3⟩, .pmov ⟨false, 0, 1, 3⟩, .pmov ⟨false, 0, 0, 8⟩, .ptoi ⟨false, 97, 32, 98⟩,
     .ptoi ⟨false, 3, 0, 98⟩, .brc ⟨true, 16, 0⟩] := by decide +kernel
theorem smoke_classes : Checks [.iadd ⟨false, true, 96, 97, 98⟩, .iadd ⟨false, true, 112, 1, 98⟩, .ld ⟨false, 1, 2, 0, 6⟩]
    [.iadd ⟨false, true, 96, 1, 98⟩, .iadd ⟨false, true, 96, 97, 112⟩, .ineg ⟨false, true, 96, 1, 0⟩, .sel ⟨false, true, 96, 2, 3, 0⟩, .ld ⟨false, 112, 2, 0, 6⟩,
     .ld ⟨false, 96, 2, 0, 6⟩, .wbaseReg ⟨false, 0, 1, 0⟩, .call ⟨true, 1, 0⟩] := by decide +kernel
theorem smoke_pairs : Checks [.fadd ⟨false, true, 2, 4, 6⟩, .fadd ⟨false, false, 1, 3, 5⟩, .fdiv2 ⟨false, true, 4, 6, 8⟩, .fdiv2 ⟨false, false, 2, 3, 5⟩, .ldn ⟨false, 1, 98, 0, 0⟩]
    [.fadd ⟨false, true, 1, 4, 6⟩, .fadd ⟨false, true, 2, 4, 7⟩, .fdiv2 ⟨false, true, 2, 6, 8⟩, .fdiv2 ⟨false, false, 1, 3, 5⟩, .ldn ⟨false, 1, 97, 0, 0⟩,
     .ldn ⟨false, 1, 2, 0, 0⟩, .acas ⟨false, 1, 2, 0, 0⟩, .cvtf ⟨false, true, 1, 4, 0⟩, .cvtf ⟨false, false, 1, 3, 1⟩] := by decide +kernel
theorem smoke_ranges : Checks [.bfx ⟨false, false, 3, 7, 0, 0x00010604⟩, .shlImm ⟨false, false, 1, 2, 31⟩, .wbaseImm ⟨false, 0, 416⟩, .redi ⟨false, 1, 2, 15⟩, .smap ⟨false, 98, 97, 0, 0x1FFFFF⟩]
    [.bfx ⟨false, false, 3, 7, 0, 0x00002001⟩, .bfx ⟨false, false, 3, 7, 0, 4⟩, .bfx ⟨false, false, 3, 7, 0, 0x00000120⟩, .shlImm ⟨false, false, 1, 2, 32⟩,
     .wbaseImm ⟨false, 0, 448⟩, .wbaseImm ⟨false, 0, 16⟩, .wbaseImm ⟨false, 0, 0x3FE0⟩, .redi ⟨false, 1, 2, 16⟩, .redi ⟨false, 1, 97, 0⟩, .smap ⟨false, 98, 97, 0, 0x200000⟩] := by decide +kernel
theorem smoke_codes : Checks [.cvtf ⟨false, false, 1, 3, 18⟩, .cvti ⟨false, false, 1, 3, 0x27⟩, .ldv ⟨false, 2, 3, 0, 12⟩, .ldg ⟨false, 2, 3, 0, 6, 0x61⟩, .ldl ⟨false, 2, 3, 0, 6⟩, .rdsr ⟨false, 1, 0x30⟩]
    [.cvtf ⟨false, false, 1, 3, 5⟩, .cvtf ⟨false, false, 1, 3, 19⟩, .cvti ⟨false, false, 1, 3, 0x30⟩, .cvti ⟨false, false, 1, 3, 8⟩, .ldv ⟨false, 2, 3, 0, 5⟩, .ld ⟨false, 2, 3, 0, 7⟩,
     .st ⟨false, 2, 3, 0, 1⟩, .ldg ⟨false, 2, 3, 0, 6, 0x01⟩, .ldg ⟨false, 2, 3, 0, 6, 0x1E1⟩, .ldg ⟨false, 2, 3, 0, 6, 0x4061⟩, .ldl ⟨false, 2, 3, 0, 0⟩, .rdsr ⟨false, 1, 8⟩] := by decide +kernel
theorem smoke_words_of_units : Checks [.aadd ⟨false, 2, 1, 0, 4⟩, .cpygo ⟨false, 0, 97, 63⟩, .seal ⟨false, 15, 96, 0, 0⟩, .mldb ⟨false, 15, 96, 0, 3⟩, .msave ⟨false, 0, 96, 0, 1⟩, .wrsr ⟨false, 97, 0x20⟩, .wrsr ⟨false, 1, 0x05⟩, .rdsr ⟨false, 1, 0x10⟩]
    [.aadd ⟨false, 2, 1, 0, 3⟩, .aadd ⟨false, 2, 1, 0, 8⟩, .cpygo ⟨false, 0, 97, 8⟩, .seal ⟨false, 16, 96, 0, 0⟩, .mldb ⟨false, 15, 97, 0, 3⟩, .msave ⟨false, 98, 96, 0, 1⟩,
     .wrsr ⟨false, 1, 0x20⟩, .wrsr ⟨false, 97, 0x05⟩, .rdsr ⟨false, 97, 0x10⟩, .split ⟨false, false, 0, 97, 0⟩, .waitc ⟨false, 97, 98, 99, 6⟩] := by decide +kernel
theorem smoke_events : (Checks [.pipeSelect 767 1, .qheadWrite 63 0, .linkTrainStart 19 15, .clockModeWrite 383 0, .portDown 17 1]
    [.pipeSelect 768 0, .pipeSelect 0 2, .qheadWrite 64 0, .linkTrainStart 20 1, .clockModeWrite 384 0, .portDown 18 1, .evdbWrite 11, .exclDeferralExpiry 8, .tresumeFail 65536]) := by decide +kernel
/-- Words for teams or controllers alone, and vector operands on a controller (R191). -/
theorem smoke_agents : wordOk st 0 (.ldio ⟨false, 99, 97, 7, 6⟩) = false ∧ wordOk st 0 (.halt ⟨true, 0, 0, 0⟩) = false ∧ wordOk ctlSt (ctlKey 1) (.iadd ⟨false, true, 1, 2, 3⟩) = false ∧
    wordOk ctlSt (ctlKey 1) (.iadd ⟨false, true, 96, 97, 98⟩) = true ∧ wordOk ctlSt (ctlKey 1) (.fork ⟨false, 0, 0, 0⟩) = false ∧ wordOk st 0 .groupAdmit = false := by decide +kernel

/-! Single steps. The expected results are the spec's own examples, or worked out by hand from the rule named. -/
def lane0 (s : State) (r : Reg) : Word := readReg (s.team 0) (s.team 0).clk 0 r
def scal (s : State) (n : Nat) : Nat := (tget 0 (s.team 0).s n).toNat
def vec (s : State) (n l : Nat) : Nat := (tget 0 (s.team 0).v (vKey n l)).toNat
/-- R200's example: 5 − 7. -/
theorem test_isub : (let s := byStep (withS st [(4, 5), (5, 7)]) (.isub ⟨false, true, 102, 100, 101⟩)
    (scal s 6, (s.team 0).cc)) = (0xFFFFFFFFFFFFFFFE, ⟨false, true, true, false, false⟩) := by decide +kernel
/-- R200's example: a saturating add. -/
theorem test_iadds : (let s := byStep (withS st [(4, 0x7FFFFFF0), (5, 0x20)]) (.iaddsI ⟨false, false, 102, 100, 101⟩)
    (scal s 6, (s.team 0).cc.n, (s.team 0).cc.v)) = (0x7FFFFFFF, false, true) := by decide +kernel
/-- R201's examples of division. -/
theorem test_division : (let s := withV st [(1, 7), (2, 0xFFFFFFFE), (3, 0xFFFFFFF9), (4, 2)]
    (vec (byStep s (.idivI ⟨false, false, 9, 1, 2⟩)) 9 0, vec (byStep s (.iremI ⟨false, false, 9, 1, 2⟩)) 9 0,
     vec (byStep s (.idivI ⟨false, false, 9, 3, 4⟩)) 9 0, vec (byStep s (.iremI ⟨false, false, 9, 3, 4⟩)) 9 0)) =
    (0xFFFFFFFD, 1, 0xFFFFFFFD, 0xFFFFFFFF) := by decide +kernel
theorem test_division_by_zero : (let s := withV st [(1, 7)]
    (vec (byStep s (.idivN ⟨false, false, 9, 1, 2⟩)) 9 0, vec (byStep s (.iremN ⟨false, false, 9, 1, 2⟩)) 9 0)) = (0xFFFFFFFF, 7) := by decide +kernel
/-- R204's example of a signed field. -/
theorem test_bfx : vec (byStep (withV st [(7, 0x3A0)]) (.bfx ⟨false, false, 3, 7, 0, 0x00010604⟩)) 3 0 = 0xFFFFFFFA := by decide +kernel
/-- R207's example. -/
theorem test_movi : scal (byStep st (.movi ⟨false, true, 99, 0x3F9C⟩)) 3 = 0xFFFFFFFFFFFFFF9C := by decide +kernel
/-- R217's example: the arms of a construct. -/
def divSt : State := mach { tm with p := [(1024, .t), (1026, .u), (1027, .t), (1029, .u), (1030, .t)] }
def armsOf (mode : Reg) : List (Nat × List Nat) :=
  let show_ := fun (s : State) => ((s.team 0).mask.toNat, ((s.team 0).stack.map (·.toNat)))
  let s1 := { byStep divSt (.mif ⟨false, 0, 1, mode⟩) with cur := some (.team 0) }
  let s2 := { byStep s1 (.melse ⟨false, 0, 0, 0⟩) with cur := some (.team 0) }
  let s3 := { byStep s2 (.mund ⟨false, 0, 0, 0⟩) with cur := some (.team 0) }
  [show_ s1, show_ s2, show_ s3, show_ (byStep s3 (.mend ⟨false, 0, 0, 0⟩))]
theorem test_divergence : armsOf 0 = [(0x49, [0x24, 0xFF]), (0x92, [0x24, 0xFF]), (0x24, [0x24, 0xFF]), (0xFF, [])] := by decide +kernel
theorem test_divergence_uf : ((armsOf 2).map (·.1)).take 2 = [0x49, 0xB6] := by decide +kernel
theorem test_divergence_ut : ((armsOf 1).map (·.1)).take 1 = [0x6D] := by decide +kernel
/-- R225's example: votes over the same predicate. -/
theorem test_vote : (let s := byStep divSt (.vote ⟨false, 2, 1, 0⟩); (List.range 8).map fun l => tget .f (s.team 0).p (2048 + l)) = List.replicate 8 .f ∧
    (let s := byStep divSt (.vote ⟨false, 3, 1, 1⟩); (List.range 8).map fun l => tget .f (s.team 0).p (3072 + l)) = List.replicate 8 .t ∧
    scal (byStep divSt (.vote ⟨false, 100, 1, 4⟩)) 4 = 2 := by decide +kernel
/-- R219's example: the first pass of the loop. -/
theorem test_loop : (let s := mach { tm with p := [(1, .t), (2, .t), (4, .t), (5, .t), (7, .t)], stack := [0xFF] }
    ((byStep s (.mwhile ⟨true, 0, 0x3FFE⟩)).team 0).mask) = 0xB6 := by decide +kernel
/-- [1, 2] + [1, 2] = [2, 4], exactly (R85). -/
theorem test_fadd : vec (byStep (withV st [(1, 0x400000003F800000)]) (.fadd ⟨false, false, 2, 1, 1⟩)) 2 0 = 0x4080000040000000 := by decide +kernel
/-- 1 / 3 lies between two adjacent floats (R85, R89). -/
theorem test_fdiv : vec (byStep (withV st [(1, 0x3F8000003F800000), (2, 0x4040000040400000)]) (.fdiv ⟨false, false, 3, 1, 2⟩)) 3 0 = 0x3EAAAAAB3EAAAAAA := by decide +kernel
/-- The X word of R82's example reads as [1, 2] (R238). -/
theorem test_cvtf : vec (byStep (withV st [(1, 0x40003C00)]) (.cvtf ⟨false, false, 2, 1, 2⟩)) 2 0 = 0x400000003F800000 := by decide +kernel
/-- A result carries a zero lower bound as −0 (R62). -/
theorem test_zero_sign : vec (byStep st (.fneg ⟨false, false, 2, 1, 0⟩)) 2 0 = 0x80000000 := by decide +kernel
/-- In careful mode a store changes memory at once, little-endian (R143, R156). -/
theorem test_store : (let s := byStep (withV careSt [(2, 0x0807060504030201)]) (.st ⟨false, 2, 1, 0, 6⟩)
    ((List.range 8).map fun i => (readMem s (0x300100 + i)).toNat)) = [1, 2, 3, 4, 5, 6, 7, 8] := by decide +kernel
/-- In an open region memory stands, and the team reads its own bytes (R128). -/
theorem test_buffered_store : (let s := byStep (withV memSt [(2, 9)]) (.st ⟨false, 2, 1, 0, 6⟩)
    ((readMem s 0x300100).toNat, (readLoc s 0 0x300100).toNat, (s.team 0).tok.toNat)) = (7, 9, 1) := by decide +kernel
/-- One lane adds 5 to the 7 in memory; the old value is on its way to the register (R266). -/
theorem test_aadd : (let s := byStep (withV calm [(2, 5)]) (.aadd ⟨false, 2, 1, 0, 4⟩)
    ((readMem s 0x300100).toNat, (s.team 0).inflight.flatMap fun f => (f.vw.filter fun w => w.key == vKey 2 0).map (·.val.toNat))) = (12, [7]) := by decide +kernel
/-- A trap saves the word's address, the status and the cause, and enters the handler (R307). -/
theorem test_trap : (let u := (byStep st (.trap ⟨true, 0, 5⟩)).team 0
    (u.lvl, u.pc, u.spc, u.ssw)) = (true, 0x200800, 0x200004, tswBits tm) := by decide +kernel
/-- A word reserved for controllers is ILLEGAL: cause 1 at its own address (R190, R308). -/
theorem test_illegal : (let u := (byStep st (.halt ⟨true, 0, 0, 0⟩)).team 0; (u.scause, u.saddr, u.spc, u.pc)) = (1, 0x200000, 0x200000, 0x200800) := by decide +kernel

theorem test_decodeInteger1 : ∀ x ∈ ([
    ([0x003EC008], .iadd ⟨false, true, 123, 0, 8⟩),
    ([0x007CD372], .isub ⟨false, true, 115, 38, 114⟩),
    ([0x0082B13C], .imul ⟨false, false, 10, 98, 60⟩),
    ([0x00E2F3ED], .imulhI ⟨false, true, 11, 103, 109⟩),
    ([0x01208750], .imulhN ⟨false, true, 2, 14, 80⟩),
    ([0x8165E508], .imad ⟨true, true, 23, 74, 8⟩),
    ([0x01803D80], .idivI ⟨false, false, 0, 123, 0⟩),
    ([0x01E0708F], .idivN ⟨false, true, 1, 97, 15⟩),
    ([0x023D8000], .iremI ⟨false, true, 118, 0, 0⟩),
    ([0x825C746C], .iremN ⟨true, false, 113, 104, 108⟩),
    ([0x829D8001], .iminI ⟨true, false, 118, 0, 1⟩),
    ([0x02D9C001], .iminN ⟨false, false, 103, 0, 1⟩),
    ([0x833EB359], .imaxI ⟨true, true, 122, 102, 89⟩),
    ([0x0359810B], .imaxN ⟨false, false, 102, 2, 11⟩),
    ([0x83A44001], .iaddsI ⟨true, true, 17, 0, 1⟩),
    ([0x83E6B30C], .iaddsN ⟨true, true, 26, 102, 12⟩),
    ([0x0423A400], .isubsI ⟨false, true, 14, 72, 0⟩),
    ([0x84403F81], .isubsN ⟨true, false, 0, 127, 1⟩),
    ([0x04BD7E68], .andR ⟨false, true, 117, 124, 104⟩),
    ([0x04C54001], .orR ⟨false, false, 21, 0, 1⟩),
    ([0x050C8070], .xorR ⟨false, false, 50, 0, 112⟩),
    ([0x85600016], .andn ⟨true, true, 0, 0, 22⟩),
    ([0x85A48000], .shl ⟨true, true, 18, 0, 0⟩),
    ([0x05C00063], .shr ⟨false, false, 0, 0, 99⟩),
    ([0x062F36D8], .sar ⟨false, true, 60, 109, 88⟩),
    ([0x865BAD67], .rol ⟨true, false, 110, 90, 103⟩),
    ([0x069D7D60], .ror ⟨false, false, 117, 122, 96⟩),
    ([0x86C01A00], .ineg ⟨true, false, 0, 52, 0⟩),
    ([0x873C0700], .iabs ⟨true, true, 112, 14, 0⟩),
    ([0x07403D80], .notR ⟨false, false, 0, 123, 0⟩),
    ([0x879B8000], .popc ⟨true, false, 110, 0, 0⟩),
    ([0x07E33400], .clz ⟨false, true, 12, 104, 0⟩)] : List (List W32 × Instr)), decode x.1 = .ok x.2 x.1.length ∧ encode x.2 = x.1 := by decide
theorem test_decodeInteger2 : ∀ x ∈ ([
    ([0x0838CD80], .ctz ⟨false, true, 99, 27, 0⟩),
    ([0x08603F00], .brev ⟨false, true, 0, 126, 0⟩),
    ([0x08A00001], .movKill ⟨false, 0, 0, 1⟩),
    ([0x88810000], .mov ⟨true, false, 4, 0, 0⟩),
    ([0x88F88000, 0x00000D03], .bfx ⟨true, true, 98, 0, 0, 0xD03⟩),
    ([0x09277480, 0x00000C01], .bfi ⟨false, true, 29, 105, 0, 0xC01⟩),
    ([0x09639203, 0x00000203], .sel ⟨false, true, 14, 36, 3, 0x203⟩),
    ([0x09A033E0], .icmpEq ⟨false, true, 0, 103, 96⟩),
    ([0x09C3B4EE], .icmpNe ⟨false, false, 14, 105, 110⟩),
    ([0x8A04B301], .icmpLtI ⟨true, false, 18, 102, 1⟩),
    ([0x8A677CAD], .icmpLeI ⟨true, true, 29, 121, 45⟩),
    ([0x8AA6C001], .icmpGtI ⟨true, true, 27, 0, 1⟩),
    ([0x0AE6F101], .icmpGeI ⟨false, true, 27, 98, 1⟩),
    ([0x0B0539BD], .icmpLtN ⟨false, false, 20, 115, 61⟩),
    ([0x0B453482], .icmpLeN ⟨false, false, 20, 105, 2⟩),
    ([0x8BA01E80], .icmpGtN ⟨true, true, 0, 61, 0⟩),
    ([0x0BE0340B], .icmpGeN ⟨false, true, 0, 104, 11⟩),
    ([0x8C040001], .iaddImm ⟨true, false, 16, 0, 1⟩),
    ([0x8C610801], .isubImm ⟨true, true, 4, 16, 1⟩),
    ([0x8C9A3D80], .imulImm ⟨true, false, 104, 123, 0⟩),
    ([0x8CFC6001], .andImm ⟨true, true, 113, 64, 1⟩),
    ([0x8D29310D], .orImm ⟨true, true, 36, 98, 13⟩),
    ([0x0D6074EE], .xorImm ⟨false, true, 1, 105, 110⟩),
    ([0x0DBF0006], .shlImm ⟨false, true, 124, 0, 6⟩),
    ([0x0DE1F53D], .shrImm ⟨false, true, 7, 106, 61⟩),
    ([0x0E184A00], .sarImm ⟨false, false, 97, 20, 0⟩),
    ([0x8E4780A0], .movi ⟨true, false, 30, 160⟩),
    ([0x0EBCC000, 0x00000309, 0x00000A61], .movl ⟨false, true, 115, 0, 0, 0x309, 0xA61⟩),
    ([0x0EC00100], .wbaseImm ⟨false, 0, 256⟩),
    ([0x0EE00000], .wbaseReg ⟨false, 0, 0, 0⟩),
    ([0x8F788053], .lea ⟨true, 3, 98, 0, 83⟩)] : List (List W32 × Instr)), decode x.1 = .ok x.2 x.1.length ∧ encode x.2 = x.1 := by decide
theorem test_decodeFloat1 : ∀ x ∈ ([
    ([0x1003C893], .fadd ⟨false, false, 15, 17, 19⟩),
    ([0x10540E80], .fsub ⟨false, false, 80, 29, 0⟩),
    ([0x90BCFAE1], .fmul ⟨true, true, 115, 117, 97⟩),
    ([0x10C00001], .fdiv ⟨false, false, 0, 0, 1⟩),
    ([0x91002309], .fdiv2 ⟨true, false, 0, 70, 9⟩),
    ([0x11400001], .ffma ⟨false, false, 0, 0, 1⟩),
    ([0x91854014], .fmin ⟨true, false, 21, 0, 20⟩),
    ([0x11C0006F], .fmax ⟨false, false, 0, 0, 111⟩),
    ([0x923E7881], .fhull ⟨true, true, 121, 113, 1⟩),
    ([0x127D2E4D], .fmeet ⟨false, true, 116, 92, 77⟩),
    ([0x12BF75E8], .fmake ⟨false, true, 125, 107, 104⟩),
    ([0x92D44780], .fneg ⟨true, false, 81, 15, 0⟩),
    ([0x13031780], .fabs ⟨false, false, 12, 47, 0⟩),
    ([0x935CC000], .fsqr ⟨true, false, 115, 0, 0⟩),
    ([0x13B99D00], .fsqrt ⟨false, true, 102, 58, 0⟩),
    ([0x13F9D700], .frcp ⟨false, true, 103, 46, 0⟩),
    ([0x943B0000], .frsq ⟨true, true, 108, 0, 0⟩),
    ([0x945C4000], .fexp ⟨true, false, 113, 0, 0⟩),
    ([0x94BC0E00], .fexp2 ⟨true, true, 112, 28, 0⟩),
    ([0x94C43A80], .flog ⟨true, false, 16, 117, 0⟩),
    ([0x95040000], .flog2 ⟨true, false, 16, 0, 0⟩),
    ([0x95403280], .fsin ⟨true, false, 0, 101, 0⟩),
    ([0x159BE600], .fcos ⟨false, false, 111, 76, 0⟩),
    ([0x15FDFF80], .ftanh ⟨false, true, 119, 127, 0⟩),
    ([0x16039100], .flo ⟨false, false, 14, 34, 0⟩),
    ([0x167F5D80], .fhi ⟨false, true, 125, 59, 0⟩),
    ([0x969DE100], .fmid ⟨true, false, 119, 66, 0⟩),
    ([0x96C00000], .frad ⟨true, false, 0, 0, 0⟩),
    ([0x17210000], .fwid ⟨false, true, 4, 0, 0⟩),
    ([0x97432C00], .fbis ⟨true, false, 12, 88, 0⟩),
    ([0x9806B184], .fcmpLt ⟨true, false, 26, 99, 4⟩),
    ([0x98649081], .fcmpLe ⟨true, true, 18, 33, 1⟩)] : List (List W32 × Instr)), decode x.1 = .ok x.2 x.1.length ∧ encode x.2 = x.1 := by decide
theorem test_decodeFloat2 : ∀ x ∈ ([
    ([0x18A3C023], .fcmpGt ⟨false, true, 15, 0, 35⟩),
    ([0x98E2000B], .fcmpGe ⟨true, true, 8, 0, 11⟩),
    ([0x99024000], .fcmpEq ⟨true, false, 9, 0, 0⟩),
    ([0x19400009], .fcmpNe ⟨false, false, 0, 0, 9⟩),
    ([0x19A00B00], .fcmpSub ⟨false, true, 0, 22, 0⟩),
    ([0x99C78069], .fcmpIn ⟨true, false, 30, 0, 105⟩),
    ([0x9A220F64], .fcmpDis ⟨true, true, 8, 30, 100⟩),
    ([0x1A5DEE00], .fclass ⟨false, false, 119, 92, 0⟩),
    ([0x9AA49A00], .cvtf ⟨true, true, 18, 52, 0⟩),
    ([0x9AE30005], .cvti ⟨true, true, 12, 0, 5⟩),
    ([0x1B380003], .cvfi ⟨false, true, 96, 0, 3⟩),
    ([0x1B580000], .cbx ⟨false, false, 96, 0, 0⟩),
    ([0x9B86C000], .cbq ⟨true, false, 27, 0, 0⟩),
    ([0x9BC00680], .cbld ⟨true, 0, 13, 0, 0⟩)] : List (List W32 × Instr)), decode x.1 = .ok x.2 x.1.length ∧ encode x.2 = x.1 := by decide
theorem test_decodeControl1 : ∀ x ∈ ([
    ([0xA0000000], .bra ⟨true, 0, 0⟩),
    ([0x20203B24], .brc ⟨false, 0, 15140⟩),
    ([0xA0400010], .bmz ⟨true, 0, 16⟩),
    ([0x20603FE4], .bmnz ⟨false, 0, 16356⟩),
    ([0x20999407], .call ⟨false, 102, 5127⟩),
    ([0x20A02800], .ret ⟨false, 0, 80, 0⟩),
    ([0x20C00000], .jmpi ⟨false, 0, 0, 0⟩),
    ([0xA0E00000], .exit ⟨true, 0, 0, 0⟩),
    ([0x21000000], .yield ⟨false, 0, 0, 0⟩),
    ([0x21200000], .waitcy ⟨false, 0, 0, 0⟩),
    ([0x21400000], .mif ⟨false, 0, 0, 0⟩),
    ([0x21600000], .melse ⟨false, 0, 0, 0⟩),
    ([0x21800000], .mund ⟨false, 0, 0, 0⟩),
    ([0xA1A00000], .mend ⟨true, 0, 0, 0⟩),
    ([0xA1C00113], .mwhile ⟨true, 0, 275⟩),
    ([0xA1E00000], .mset ⟨true, 0, 0, 0⟩),
    ([0x22000001], .mget ⟨false, 0, 0, 1⟩),
    ([0x2220000C], .pand ⟨false, 0, 0, 12⟩),
    ([0xA2478001], .por ⟨true, 30, 0, 1⟩),
    ([0x22600000], .pnot ⟨false, 0, 0, 0⟩),
    ([0xA286000D], .pxor ⟨true, 24, 0, 13⟩),
    ([0xA2A0000A, 0x00000019], .psel ⟨true, 0, 0, 10, 0x19⟩),
    ([0xA2C00002], .pmov ⟨true, 0, 0, 2⟩),
    ([0x22F90A0B], .ptoi ⟨false, 100, 20, 11⟩),
    ([0x23003C81], .itop ⟨false, 0, 121, 1⟩),
    ([0xA33C8782], .vote ⟨true, 114, 15, 2⟩),
    ([0xA3597B80], .redi ⟨true, 101, 119, 0⟩),
    ([0x237C7881], .redf ⟨false, 113, 113, 1⟩),
    ([0x239C2801], .scan ⟨false, 112, 80, 1⟩),
    ([0x23A13881], .shfl ⟨false, 4, 113, 1⟩),
    ([0x23D8D380], .qxch ⟨false, 99, 39, 0⟩),
    ([0x23FE6101], .qbc ⟨false, 121, 66, 1⟩)] : List (List W32 × Instr)), decode x.1 = .ok x.2 x.1.length ∧ encode x.2 = x.1 := by decide
theorem test_decodeMemory1 : ∀ x ∈ ([
    ([0xB0031606], .ld ⟨true, 12, 44, 0, 6⟩),
    ([0xB0237F01, 0x00000A0B], .ldOffset ⟨true, 13, 126, 0, 1, 0xA0B⟩),
    ([0xB05C8584], .st ⟨true, 114, 11, 0, 4⟩),
    ([0x306BC200, 0xBD5C0466], .stOffset ⟨false, 47, 4, 0, 0, 0xBD5C0466⟩),
    ([0xB0851B62], .ldv ⟨true, 20, 54, 6, 2⟩),
    ([0x30A54F81, 0x00000038], .ldvOffset ⟨false, 21, 31, 0, 1, 0x38⟩),
    ([0x30DD0C80], .stv ⟨false, 116, 25, 0, 0⟩),
    ([0x30E3D102, 0x51CB77F5], .stvOffset ⟨false, 15, 34, 0, 2, 0x51CB77F5⟩),
    ([0xB10E8F09], .ldn ⟨true, 58, 30, 0, 9⟩),
    ([0x31201001, 0x00000356], .ldnOffset ⟨false, 0, 32, 0, 1, 0x356⟩),
    ([0xB140170D], .stn ⟨true, 0, 46, 0, 13⟩),
    ([0x3164B600, 0x00000247], .stnOffset ⟨false, 18, 108, 0, 0, 0x247⟩),
    ([0xB1802E53], .lds ⟨true, 0, 92, 5, 3⟩),
    ([0x31A10780, 0x00000227], .ldsOffset ⟨false, 4, 15, 0, 0, 0x227⟩),
    ([0xB1C23FB6], .sts ⟨true, 8, 127, 3, 6⟩),
    ([0x31E58082, 0x00000262], .stsOffset ⟨false, 22, 1, 0, 2, 0x262⟩),
    ([0x32051800, 0x00000666], .ldg ⟨false, 20, 48, 0, 0, 0x666⟩),
    ([0x32383A80, 0x00000661], .stg ⟨false, 96, 117, 0, 0, 0x661⟩),
    ([0x3246B985], .ldl ⟨false, 26, 115, 0, 5⟩),
    ([0x327EAC36], .stl ⟨false, 122, 88, 3, 6⟩),
    ([0xB2800000], .ncvt ⟨true, 0, 0, 0⟩),
    ([0xB2C00680], .pref ⟨true, 0, 13, 0⟩),
    ([0x32E00581, 0x00000A61], .prefOffset ⟨false, 0, 11, 1, 0xA61⟩),
    ([0xB3068C00, 0x00000665], .smap ⟨true, 26, 24, 0, 0x665⟩),
    ([0x33201400], .sunmap ⟨false, 0, 40, 0⟩)] : List (List W32 × Instr)), decode x.1 = .ok x.2 x.1.length ∧ encode x.2 = x.1 := by decide
theorem test_decodeSync1 : ∀ x ∈ ([
    ([0xC0030004], .aadd ⟨true, 12, 0, 0, 4⟩),
    ([0xC0266E00], .amin ⟨true, 25, 92, 0, 0⟩),
    ([0xC0598060], .amax ⟨true, 102, 0, 6, 0⟩),
    ([0x40676A42], .aand ⟨false, 29, 84, 4, 2⟩),
    ([0x40803CD5], .aor ⟨false, 0, 121, 5, 5⟩),
    ([0x40A3BF85], .axor ⟨false, 14, 127, 0, 5⟩),
    ([0x40C393E5], .axchg ⟨false, 14, 39, 6, 5⟩),
    ([0xC0FCEB00], .acas ⟨true, 115, 86, 0, 0⟩),
    ([0x41078E81], .ainc ⟨false, 30, 29, 0, 1⟩),
    ([0x41240800], .adec ⟨false, 16, 16, 0, 0⟩),
    ([0x41401101], .afadd ⟨false, 0, 34, 0, 1⟩),
    ([0x41600005], .afmin ⟨false, 0, 0, 0, 5⟩),
    ([0x4198B300], .afmax ⟨false, 98, 102, 0, 0⟩),
    ([0x42000000], .bar ⟨false, 0, 0, 0⟩),
    ([0xC2200001], .barc ⟨true, 0, 0, 1⟩),
    ([0x42400009, 0x0000002A], .bufdef ⟨false, 0, 0, 9, 0x2A⟩),
    ([0x42600000], .bufwait ⟨false, 0, 0, 0⟩),
    ([0xC2800001], .buffree ⟨true, 0, 0, 1⟩),
    ([0xC2A005AF], .cpygo ⟨true, 0, 11, 47⟩),
    ([0x42CF4001], .cpyst ⟨false, 61, 0, 1⟩),
    ([0xC2E00000], .publ ⟨true, 0, 0, 0⟩),
    ([0xC3000000], .region ⟨true, 0, 0, 0⟩),
    ([0xC3200000], .commit ⟨true, 0, 0, 0⟩),
    ([0x435F9F15, 0x00000001], .waitc ⟨false, 126, 62, 21, 0x1⟩),
    ([0x43602000], .sigc ⟨false, 0, 64, 0⟩)] : List (List W32 × Instr)), decode x.1 = .ok x.2 x.1.length ∧ encode x.2 = x.1 := by decide
theorem test_decodeMatrix1 : ∀ x ∈ ([
    ([0x50003180], .seal ⟨false, 0, 99, 0, 0⟩),
    ([0x50200001], .unseal ⟨false, 0, 0, 1⟩),
    ([0x505FC000], .macq ⟨false, 127, 0, 0⟩),
    ([0xD0600000], .mrel ⟨true, 0, 0, 0⟩),
    ([0x50800000], .mldb ⟨false, 0, 0, 0, 0⟩),
    ([0x50A00601], .mma ⟨false, 0, 12, 0, 1⟩),
    ([0xD0C03F00], .mmar ⟨true, 0, 126, 0, 0⟩),
    ([0xD0E00001], .mmaPair ⟨true, 0, 0, 0, 1⟩),
    ([0x51000600], .mmarPair ⟨false, 0, 12, 0, 0⟩),
    ([0xD1202D81], .mzero ⟨true, 0, 91, 1⟩),
    ([0xD152485C], .mstore ⟨true, 73, 16, 5, 12⟩),
    ([0x517B3981], .mloadc ⟨false, 108, 115, 0, 1⟩),
    ([0x5183A140], .msave ⟨false, 14, 66, 4, 0⟩),
    ([0xD1A08E00], .mrst ⟨true, 2, 28, 0, 0⟩),
    ([0xD1DE0001], .mstat ⟨true, 120, 0, 1⟩),
    ([0x51E00031], .mcbk ⟨false, 0, 0, 3, 1⟩),
    ([0xD2000000], .mdep ⟨true, 0, 0, 0⟩)] : List (List W32 × Instr)), decode x.1 = .ok x.2 x.1.length ∧ encode x.2 = x.1 := by decide
theorem test_decodeTasksAndSystem1 : ∀ x ∈ ([
    ([0xE024F501], .split ⟨true, true, 19, 106, 1⟩),
    ([0xE0418001], .fork ⟨true, 6, 0, 1⟩),
    ([0xE063C004], .take ⟨true, 15, 0, 4⟩),
    ([0x609EC001], .hstat ⟨false, 123, 0, 1⟩),
    ([0x60A00000], .launch ⟨false, 0, 0, 0, 0⟩),
    ([0xE0C00000], .lstat ⟨true, 0, 0, 0⟩),
    ([0xF0000000], .nop ⟨true, 0, 0, 0⟩),
    ([0xF02A8000], .trl ⟨true, 84, 0⟩),
    ([0x70400100], .trap ⟨false, 0, 256⟩),
    ([0x70600000], .tret ⟨false, 0, 0, 0⟩),
    ([0xF0800006], .rdsr ⟨true, 0, 6⟩),
    ([0x70BA4010], .wrsr ⟨false, 105, 16⟩),
    ([0xF1000004], .ldio ⟨true, 0, 0, 0, 4⟩),
    ([0xF1200036], .stio ⟨true, 0, 0, 3, 6⟩),
    ([0x71400000], .wfe ⟨false, 0, 0, 0⟩),
    ([0x71600000], .halt ⟨false, 0, 0, 0⟩)] : List (List W32 × Instr)), decode x.1 = .ok x.2 x.1.length ∧ encode x.2 = x.1 := by decide

end Sys2Proof.Tests
end

section
/-! Memory as a list of writes leaves it, byte by byte (R143), and folds over the tables of an FLR. -/
namespace Sys2Proof.Proofs
open Sys2Proof.Machine Sys2Proof.Safety Sys2Proof.Claims Sys2Proof.Laws

/-- An event that goes on leaves what holds of its next state. -/
theorem Does.of_next {i : Instr} {s t : State} {P : State → Prop} (h : exec i s = .next t) (hP : P t) : Does i s P :=
  ⟨t, h, hP⟩

/-- Writes to other keys leave a key that passes the filter its last value. -/
theorem lastAt_filter_key {α : Type} (p : Nat → Bool) (ws : List (Nat × α)) {k : Nat} (old : α) (hk : p k = true) :
    lastAt (ws.filter fun w => p w.1) k old = lastAt ws k old := by
  induction ws generalizing old with
  | nil => rfl
  | cons w r ih =>
    cases hw : p w.1 with
    | true => rw [List.filter_cons_of_pos (by simpa using hw), lastAt_cons, lastAt_cons, ih]
    | false =>
      have hne : (w.1 == k) = false := beq_false_of_ne fun e => by rw [e, hk] at hw; exact Bool.noConfusion hw
      rw [List.filter_cons_of_neg (by simp [hw]), lastAt_cons, ih, hne]
      rfl

/-- A list of listed values leaves the last value listed at a key, or the old one. -/
theorem tget_tputAll {α : Type} (d : α) (cs : List (Nat × α)) (m : Tab α) (k : Nat) :
    tget d (tputAll m cs) k = lastAt cs k (tget d m k) := by
  induction cs generalizing m with
  | nil => rfl
  | cons c r ih =>
    rw [show tputAll m (c :: r) = tputAll (tput m c.1 c.2) r from rfl, ih, lastAt_cons]
    by_cases h : c.1 = k
    · subst h; simp [tget_tput_self]
    · rw [tget_tput_ne d m c.2 (Ne.symm h)]; simp [h]

/-- A table without some keys reads as before at the others, and as unlisted at those. -/
theorem tget_filter_key {α : Type} (d : α) (p : Nat → Bool) (m : Tab α) (k : Nat) :
    tget d (m.filter fun c => p c.1) k = if p k then tget d m k else d := by
  induction m with
  | nil => simp
  | cons c r ih =>
    obtain ⟨j, v⟩ := c
    by_cases hjk : k = j
    · subst hjk
      cases hp : p k with
      | true => simp [hp, tget, tget?]
      | false => simpa [hp] using ih
    · have hskip : tget d ((j, v) :: r) k = tget d r k := by simp [tget, tget?, hjk]
      cases hp : p j with
      | true =>
        rw [List.filter_cons_of_pos (by simpa using hp), hskip, ← ih]
        simp [tget, tget?, hjk]
      | false => rw [List.filter_cons_of_neg (by simp [hp]), hskip, ih]

/-- Bytes put in memory are the bytes read, each the last one written to its place. -/
theorem readMem_memPut (s : State) (cells : List (Nat × Byte)) (a : Nat) :
    readMem (memPut s cells) a = lastAt cells a (readMem s a) := by
  unfold readMem
  cases hr : isRemote a with
  | true =>
    exact (tget_tputAll 0 _ s.proxy a).trans (lastAt_filter_key isRemote cells _ hr)
  | false =>
    exact (tget_tsetAll Memory.unlisted _ s.mem a).trans
      (lastAt_filter_key (fun l => !isRemote l) cells _ (by simp [hr]))

/-- A write event leaves in memory the bytes that it carries (R143). -/
theorem readMem_writeEvent (s : State) (who : Option Nat) (cells : List (Nat × Byte)) (sp : List (Nat × Nat)) (a : Nat) :
    readMem (writeEvent s who cells sp) a = lastAt cells a (readMem s a) :=
  ((same_writeEvent s who cells sp).readMem a).trans (readMem_memPut s cells a)

theorem mem_nins_self (l : List Nat) (a : Nat) : a ∈ nins l a := by
  induction l with
  | nil => simp [nins]
  | cons k r ih =>
    unfold nins
    split
    · next h => simp [h]
    · split
      · simp
      · exact List.mem_cons_of_mem _ ih

end Sys2Proof.Proofs
end

section
/-! The host ports (R165, R402 to R406): the request that is served at once, what its service leaves, snoops and their
answers, and function level reset. -/
namespace Sys2Proof.Proofs
open Sys2Proof.Machine Sys2Proof.Safety Sys2Proof.Claims Sys2Proof.Laws

/-- With no request before it, one that is served is done with at once (R165). -/
theorem exec_hostAccess_served {s t : State} {h : HostReq} (hw : s.hostWait = [])
    (hs : hostServe s { h with keep := if h.cxl then h.keep % 3 else 0 } = (t, true)) :
    exec (.hostAccess h) s = .next t := by
  have hnone : { s with hostWait := [] } = s := by rw [← hw]
  show event (if (s.hostWait ++ [_]).isEmpty then _ else hostTry (s.hostWait ++ [_]) { s with hostWait := [] }) = _
  rw [if_neg (by simp), hnone, hw, List.nil_append, hostTry, hs]
  rfl

/-- A request of a host asks to keep no copy, a shared or an exclusive one: 3 marks a waiting snoop alone. -/
theorem keep_asked_ne_snoop (h : HostReq) : (if h.cxl then h.keep % 3 else 0) ≠ 3 := by
  split <;> omega

/-- The copy that the host keeps is noted in the table of host lines alone. -/
theorem hostKeep_eq (s : State) (h : HostReq) (line : Nat) :
    hostKeep s h line = { s with hostLines := (hostKeep s h line).hostLines } := by
  unfold hostKeep
  dsimp only
  split
  · rfl
  · split
    · rfl
    · split <;> rfl
theorem same_hostKeep (s : State) (h : HostReq) (line : Nat) : SameBytes s (hostKeep s h line) := by
  rw [hostKeep_eq]; exact ⟨rfl, rfl⟩

section
variable {s : State} {h : HostReq} {loc : Nat}
/-- An access to device memory that is refused (R402, R405). -/
theorem hostServe_refused (hb : h.bar0 = false) (hk : h.keep ≠ 3) (hl : physLoc h.addr = some loc) (hh : isHost loc = false)
    (hr : hostRefused s h loc = true) : hostServe s h = (hostRefuse s h, true) := by
  simp [hostServe, hb, hk, hl, hh, hr]
/-- An admitted access to device memory: a write event, or the bytes as they stand (R402, R403). -/
theorem hostServe_write (hb : h.bar0 = false) (hk : h.keep ≠ 3) (hl : physLoc h.addr = some loc) (hh : isHost loc = false)
    (hr : hostRefused s h loc = false) (ht : tdiBreach s h = false) (hw : hostWaits s h (lineOf loc) = none) (hwr : h.write = true) :
    hostServe s h = (hostKeep (writeEvent s none ((List.range h.len).map fun i => (loc + i, nth 0 h.data i))
      (sPagesOn s [lineOf loc])) h (lineOf loc), true) := by
  simp [hostServe, hb, hk, hl, hh, hr, ht, hw, hwr]
theorem hostServe_read (hb : h.bar0 = false) (hk : h.keep ≠ 3) (hl : physLoc h.addr = some loc) (hh : isHost loc = false)
    (hr : hostRefused s h loc = false) (ht : tdiBreach s h = false) (hw : hostWaits s h (lineOf loc) = none) (hwr : h.write = false)
    (hp : s.poison.contains (lineOf loc) = false) :
    hostServe s h = (hostKeep (hostAnswer s true ((List.range h.len).map fun i => readMem s (loc + i))) h (lineOf loc), true) := by
  have hp' : lineOf loc ∉ s.poison := by simpa using hp
  simp [hostServe, hb, hk, hl, hh, hr, ht, hw, hwr, hp']
end

/-- A refusal writes no byte: it logs the address and answers as the kind of request asks (R402). -/
theorem hostRefuse_frame (s : State) (h : HostReq) : hostRefuse s h =
    { s with aer := s.aer ++ [h.addr], hostOut := (hostRefuse s h).hostOut, free := (hostRefuse s h).free } := by
  unfold hostRefuse hostAnswer
  dsimp only
  split
  · rfl
  · split <;> rfl
theorem hostRefuse_hostOut_plain (s : State) {h : HostReq} (hc : h.cxl = false) :
    (hostRefuse s h).hostOut = s.hostOut ++ (if h.write then [] else [(false, [])]) := by
  cases hw : h.write <;> simp [hostRefuse, hostAnswer, hc, hw]
theorem hostRefuse_hostOut_cxl (s : State) {h : HostReq} (hc : h.cxl = true) :
    ∃ b : List Byte, (hostRefuse s h).hostOut = s.hostOut ++ [(false, b)] ∧ b.length = max 1 h.len := by
  simp [hostRefuse, hostAnswer, hc]

theorem exec_hostSnoop_noLink {s : State} (addr : Nat) (hv : s.variant = .noLink) : exec (.hostSnoop addr) s = .next s := by
  show event _ = _
  rw [if_pos hv]; rfl
theorem exec_hostSnoop {s : State} {addr : Nat} (hv : s.variant ≠ .noLink) (he : exclGate s noTeam (addr / 128) = none) :
    exec (.hostSnoop addr) s = .next (snoopAnswer s (addr / 128)) := by
  show event _ = _
  rw [if_neg hv, he]; rfl
/-- The answer for a line that is not modified here, and for one that is, which leaves (R404). -/
theorem snoopAnswer_clean {s : State} {line : Nat} (hp : s.poison.contains line = false) (hd : line ∉ s.hostDirty) :
    snoopAnswer s line = { s with hostOut := s.hostOut ++ [(true, [])] } := by
  simp [snoopAnswer, hostAnswer, hd, show line ∉ s.poison by simpa using hp]
theorem snoopAnswer_dirty {s : State} {line : Nat} (hp : s.poison.contains line = false) (hd : line ∈ s.hostDirty) :
    snoopAnswer s line =
      hostAnswer (hitReaders { s with hostDirty := s.hostDirty.filter fun l => l != line } none fun l => l == line) true
        ((List.range 128).map fun i => readMem s (line * 128 + i)) := by
  simp [snoopAnswer, hd, show line ∉ s.poison by simpa using hp]

/-- A snooped line of the host after its answer: shared after a read's snoop, gone after a write's (R403). -/
def afterSnoop (x : HostLine) (line : Nat) (l : List HostLine) : List HostLine :=
  if x.snoop = 1 then l.map fun y => if y.line == line then { y with excl := false, snoop := 0 } else y
  else l.filter fun y => y.line != line
theorem mem_afterSnoop {x y : HostLine} {line : Nat} {l : List HostLine} (hy : y ∈ afterSnoop x line l) (hl : y.line = line) :
    x.snoop = 1 ∧ y.snoop = 0 ∧ y.excl = false := by
  unfold afterSnoop at hy
  split at hy
  · next h1 =>
    obtain ⟨z, -, rfl⟩ := List.mem_map.1 hy
    by_cases hz : z.line = line
    · simp [h1, hz]
    · simp [hz] at hl
  · simp [hl] at hy
/-- What the data of an answer do: those of a line held exclusively are a host write, refused where it may not write
(R403, R406). -/
def answerData (s : State) (line : Nat) (x : HostLine) (data : List Byte) : State :=
  if data.isEmpty || !x.excl then s
  else if !x.tee && tdiBreach s (backWrite line data) then refuseTdi s (line * 128)
  else writeEvent s none ((List.range (min 128 data.length)).map fun i => (line * 128 + i, nth 0 data i)) (sPagesOn s [line])
theorem answerData_write {s : State} {line : Nat} {x : HostLine} {data : List Byte} (he : x.excl = true) (hd : data ≠ [])
    (hlen : data.length ≤ 128) (ht : x.tee = true ∨ tdiBreach s (backWrite line data) = false) :
    answerData s line x data =
      writeEvent s none ((List.range data.length).map fun i => (line * 128 + i, nth 0 data i)) (sPagesOn s [line]) := by
  unfold answerData
  rw [if_neg (by simp [he, hd]), if_neg (by rcases ht with h | h <;> simp [h]), Nat.min_eq_right hlen]
section
variable {s : State} {line : Nat} {x : HostLine} (hx : s.hostLines.find? (fun x => x.line == line && x.snoop != 0) = some x)
include hx
/-- An answer has its data written, and then the line's state changes (R403). -/
theorem exec_birsp (data : List Byte) : exec (.birsp line data) s =
    .next { answerData s line x data with hostLines := afterSnoop x line (answerData s line x data).hostLines } := by
  have hstate : ∀ t : State, (if x.snoop = 1 then
      { t with hostLines := t.hostLines.map fun y => if y.line == line then { y with excl := false, snoop := 0 } else y }
      else { t with hostLines := t.hostLines.filter fun y => y.line != line }) =
      { t with hostLines := afterSnoop x line t.hostLines } := by
    intro t
    unfold afterSnoop
    split <;> rfl
  show event _ = _
  rw [hx]
  exact congrArg Host.Outcome.next (hstate (answerData s line x data))
theorem exec_birspTimeout : exec (.birspTimeout line) s = .next (rasEvent
    { s with hostLines := s.hostLines.filter fun y => y.line != line, poison := nins s.poison line }
    (rasMake 0x0A 1 (homeDie (line * 128)) (homeSlice (line * 128)) none (line * 128))) := by
  have hany : (s.hostLines.any fun x => x.line == line && x.snoop != 0) = true :=
    List.any_eq_true.2 ⟨x, List.mem_of_find?_eq_some hx, List.find?_some (p := fun x : HostLine => x.line == line && x.snoop != 0) hx⟩
  show event _ = _
  rw [if_pos hany]
  rfl
end
/-- The bytes of a list from a place on, counted by their index, are the list with its indices. -/
theorem map_range_nth {α : Type} (d : α) (l : List α) (k : Nat) :
    (List.range l.length).map (fun i => (k + i, nth d l i)) = l.zipIdx.map fun b => (k + b.2, b.1) := by
  apply List.ext_getElem
  · simp
  · intro i h1 h2
    have hi : i < l.length := by simpa using h1
    simp [nth, List.headD_eq_head?_getD, List.head?_drop, hi]

/-- A machine without a valid context has no descriptor to clear (R388, R405). -/
theorem clearValid_of_none_valid {s : State} (h : ∀ c < 64, descDw s c 0 % 2 = 0) : clearValid s = s := by
  unfold clearValid
  refine List.foldlRecOn (motive := fun t => t = s) _ _ rfl fun t ht c hc => ?_
  subst ht
  exact if_pos (h c (List.mem_range.1 hc))
/-- An FLR as it starts, on a machine that neither lends nor borrows pages and has no valid context (R405). -/
def flrStarted (s : State) : State := { s with
  flr := .draining, remoteIn := [], nacks := [], teams := s.teams.filter fun t => isCtl t.1,
  groups := [], grids := [], handed := [], chains := [], saveBusy := [], tlb := [], tags := [], faultWait := [], journal := [],
  cores := s.cores.map fun c => (c.1, { Core.reset with hot := c.2.hot }),
  dies := [], queues := s.queues.map fun q => (q.1, { q.2 with en := false, heads := [], cur := none, running := [], served := 0 }),
  remoteOut := s.remoteOut.map fun x => (x.1, { x.2 with what := 9 }) }
theorem exec_flr_plain {s : State} (hb : s.borrowed = []) (hp : s.pages = []) (hc : ∀ c < 64, descDw s c 0 % 2 = 0) :
    exec .flr s = .next (flrStarted s) := by
  have hclear : clearValid (flrStarted s) = flrStarted s := clearValid_of_none_valid hc
  show event (let t := clearValid (flrStarted s)
    let t := (t.borrowed.map (·.1)).foldl (fun s p => returnPage s p) t
    t.pages.foldl (fun s e => (distinct (e.2.sharers ++ e.2.owner.toList)).foldl (fun s d => recallPage s e.1 d false) s) t) = _
  rw [hclear]
  have hb' : (flrStarted s).borrowed = [] := hb
  have hp' : (flrStarted s).pages = [] := hp
  simp [hb', hp', event]

/-- The lines of the host that were not written back in time, as the free choice says (R405; log 5). -/
def lateLines (s : State) : List Nat :=
  (((List.range s.hostDirty.length).zip s.hostDirty).filter fun x => (Config.freeValue (s.free + x.1)).getLsbD 0).map (·.2)
/-- The machine whose dirty host lines are gone, the late ones poisoned, and one whose drain has then ended (R405). -/
def hostLinesDropped (s : State) : State := { s with
  free := s.free + s.hostDirty.length, hostDirty := [], poison := (lateLines s).foldl nins s.poison }
def flrDrained (s : State) : State := { hostLinesDropped s with tdi := .error, ide := [] }
theorem exec_flrDrainDeadline_plain {s : State} (hf : s.flr = .draining) (hp : s.pages = []) :
    exec .flrDrainDeadline s = .next (if s.tdi == .locked || s.tdi == .run then { flrDrained s with flr := .zeroing }
      else flrEnd (flrDrained s)) := by
  have hkeep : (hostLinesDropped s).pages.foldl (fun s e => (distinct (e.2.sharers ++ e.2.owner.toList)).foldl
      (fun s d => losePage s e.1 d) s) (hostLinesDropped s) = hostLinesDropped s := by
    rw [show (hostLinesDropped s).pages = [] from hp]; rfl
  show event _ = _
  rw [if_neg (not_not_intro hf)]
  exact congrArg (fun t : State => Host.Outcome.next (if t.tdi == .locked || t.tdi == .run
    then { t with tdi := .error, ide := [], flr := .zeroing } else flrEnd { t with tdi := .error, ide := [] })) hkeep

/-- The machine whose DRAM lines have all been zeroed (R405, R414). -/
def dramZeroed (s : State) : State := { s with
  mem := s.mem.filter fun c => !isDram c.1, poison := s.poison.filter fun l => !isDram (l * 128) }
theorem exec_flrZeroDone {s : State} (hf : s.flr = .zeroing) : exec .flrZeroDone s = .next (flrEnd (dramZeroed s)) := by
  show event _ = _
  rw [if_neg (not_not_intro hf)]
  rfl
theorem readMem_dramZeroed (s : State) (a : Nat) :
    readMem (dramZeroed s) a = if isDram a && !isRemote a then 0 else readMem s a := by
  have hm : tget Memory.unlisted (dramZeroed s).mem a = if !isDram a then tget Memory.unlisted s.mem a else Memory.unlisted :=
    tget_filter_key Memory.unlisted (fun l => !isDram l) s.mem a
  have hp : (dramZeroed s).proxy = s.proxy := rfl
  unfold readMem
  rw [hm, hp]
  cases isRemote a <;> cases isDram a <;> simp [Memory.unlisted]
theorem same_flrEnd (s : State) : SameBytes s (flrEnd s) := ⟨rfl, rfl⟩
end Sys2Proof.Proofs
end

section
/-! The statement about the host ports. -/
namespace Sys2Proof.Proofs
open Sys2Proof.Machine Sys2Proof.Safety Sys2Proof.Claims Sys2Proof.Laws

/-- Settles O51: an admitted write is one write event and nothing later in its service writes a byte; a refusal, a snoop and
an FLR have closed forms under the premises, from which each clause is read off. -/
theorem hostPortEvents : Obligations.HostPortEvents := by
  unfold Obligations.HostPortEvents
  intro s
  refine ⟨?access, ?refused, ?noLink, ?snoop, ?birsp, ?flr, ?deadline, ?zeroed⟩
  case access =>
    intro h0 loc h hb hw hl hh hr ht hwait
    have hk : h.keep ≠ 3 := keep_asked_ne_snoop h0
    refine ⟨fun hwr => ?_, fun hwr hp => ?_⟩
    · refine Does.of_next (exec_hostAccess_served hw (hostServe_write hb hk hl hh hr ht hwait hwr)) fun a => ?_
      rw [(same_hostKeep _ _ _).readMem, readMem_writeEvent]
    · refine Does.of_next (exec_hostAccess_served hw (hostServe_read hb hk hl hh hr ht hwait hwr hp)) ⟨?_, ?_, ?_⟩
      · rw [hostKeep_eq]; rfl
      · exact (SameBytes.trans ⟨rfl, rfl⟩ (same_hostKeep _ _ _)).readMem
      · rw [hostKeep_eq]; rfl
  case refused =>
    intro h loc hb hw hl hh hr
    refine Does.of_next (exec_hostAccess_served hw (hostServe_refused hb (keep_asked_ne_snoop h) hl hh hr)) ⟨?_, ?_, ?_, ?_, ?_⟩
    · rw [hostRefuse_frame]
    · intro a; rw [hostRefuse_frame]; rfl
    · exact hostRefuse_hostOut_plain s
    · exact hostRefuse_hostOut_cxl s
    · rw [hostRefuse_frame]
  case noLink => exact fun addr hv => Does.of_next (exec_hostSnoop_noLink addr hv) rfl
  case snoop =>
    intro addr hv he hp
    refine Does.of_next (exec_hostSnoop hv he) ⟨fun hd => snoopAnswer_clean hp hd, fun hd => ?_⟩
    exact ⟨_, snoopAnswer_dirty hp hd, rfl⟩
  case birsp =>
    intro line x data hx
    refine ⟨fun he hd hlen ht => ?_, ?_, ?_⟩
    · refine Does.of_next (exec_birsp hx data) fun a => ?_
      rw [← map_range_nth 0 data (line * 128), answerData_write he hd hlen ht]
      exact readMem_writeEvent _ _ _ _ a
    · rintro rfl
      exact Does.of_next (exec_birsp hx []) ⟨fun _ => rfl, fun y hy hl => mem_afterSnoop hy hl⟩
    · refine Does.of_next (exec_birspTimeout hx) ⟨_, _, rfl, rfl, mem_nins_self _ _, fun y hy => ?_⟩
      simpa using (List.mem_filter.1 hy).2
  case flr =>
    intro hb hp hc
    refine Does.of_next (exec_flr_plain hb hp hc) ⟨rfl, rfl, rfl, rfl, ?_, ?_, fun _ => rfl⟩
    · exact fun x hx => (List.mem_filter.1 hx).2
    · intro x hx
      obtain ⟨q, -, rfl⟩ := List.mem_map.1 hx
      exact ⟨rfl, rfl, rfl⟩
  case deadline =>
    intro hf hp
    refine Does.of_next (exec_flrDrainDeadline_plain hf hp) ?_
    by_cases ht : s.tdi = .locked ∨ s.tdi = .run
    · rw [if_pos (by simpa using ht)]
      refine ⟨rfl, rfl, fun _ => rfl, fun _ => ⟨rfl, rfl⟩, fun h => ?_⟩
      rcases ht with ht | ht <;> simp [ht] at h
    · rw [if_neg (by simpa using ht)]
      exact ⟨rfl, rfl, fun _ => rfl, fun h => absurd h ht, fun _ => ⟨rfl, rfl, rfl, rfl⟩⟩
  case zeroed =>
    intro hf
    refine Does.of_next (exec_flrZeroDone hf) ⟨rfl, rfl, fun a => ?_⟩
    rw [(same_flrEnd _).readMem, readMem_dramZeroed]
end Sys2Proof.Proofs
end

section
/-! The Swiust link (R407 to R414): flits, the loss of a port, a request of a peer that is served at once, and replies. -/
namespace Sys2Proof.Proofs
open Sys2Proof.Machine Sys2Proof.Safety Sys2Proof.Claims Sys2Proof.Laws

/-- The port after a data flit in its turn: the next number is awaited, messages of no known OP are counted, and an
acknowledgement leaves (R407 to R409). -/
def tookFlit (x : Port) (ms : List (Nat × Msg)) : Port :=
  sendFlit { x with rxSeq := (x.rxSeq + 1) % 256, rxAny := true,
                    badop := min 255 (x.badop + (ms.filter fun m => !knownOp m.1).length) } 1 0 []
section
variable {s : State} {p : Nat} (hp : p < 18) {f : List Byte}
include hp
/-- A flit that cannot be opened is asked for again (R408). -/
theorem exec_flitReceive_unopened (hst : (s.port p).st = 2) (hf : flitOpen f = none) :
    exec (.flitReceive p f) s = .next (s.setPort p (sendFlit (s.port p) 2 (s.port p).rxSeq [])) := by
  show event _ = _
  simp only [hf]
  rw [if_neg (by simp [hst]; omega)]
  rfl
theorem exec_flitReceive_data (hst : (s.port p).st = 2) {b : List Byte} (hf : flitOpen f = some b)
    (hd : bits (leVal (b.take 4)) 16 3 = 0) (hq : bits (leVal (b.take 4)) 0 8 = (s.port p).rxSeq) :
    exec (.flitReceive p f) s = .next { s.setPort p (tookFlit (s.port p) (parseMsgs 60 (b.drop 4))) with
      agenda := (((parseMsgs 60 (b.drop 4)).filter fun x => knownOp x.1).map fun x => Move.msg p x.1 x.2) ++ s.agenda } := by
  have hack : (leVal (b.take 4)).testBit 16 = false := by
    rw [Nat.testBit_eq_decide_div_mod_eq]
    simp only [bits] at hd
    simp only [decide_eq_false_iff_not]
    omega
  have htype : bits (leVal (b.take 4)) 17 2 = 0 := by
    simp only [bits] at hd ⊢
    omega
  show event _ = _
  simp only [hf, hack, htype, hq]
  rw [if_neg (by simp [hst]; omega)]
  simp [event, tookFlit]
end

/-- A Swiust port that has gone down with a cause, and what its reset at the next training restores (R414, R428). -/
def downPort (s : State) (p cause : Nat) : Port :=
  let x := s.port p
  let routes := (s.route.filter fun r => r.2.getLsbD p).map (·.1)
  { x with st := 0, downev := true, dcause := cause, out := [], replay := [], retryCnt := 0,
           heldRoutes := if x.st = 2 then routes else routes.foldl nins x.heldRoutes,
           heldPeer := if x.st = 2 then x.peer else x.heldPeer, tr := { x.tr with busy := false, last := 0 } }
/-- The routes without a port; a device that no port is left for has none (R409, R414). -/
def routesWithout (s : State) (p : Nat) : Tab (BitVec 18) :=
  (s.route.map fun r => (r.1, r.2 &&& ~~~((1 : BitVec 18) <<< p))).filter fun r => r.2 != 0
/-- A machine that has lost a port over which nothing was lent, borrowed or asked (R414). -/
def portLost (s : State) (p cause : Nat) : State :=
  { s.setPort p (downPort s p cause) with route := routesWithout s p }
/-- The machine without a page lent or borrowed and without a request out. -/
def withoutLoans (s : State) : State := { s with pages := [], borrowed := [], remoteOut := [] }
theorem withoutLoans_eq {s : State} (hpages : s.pages = []) (hb : s.borrowed = []) (ho : s.remoteOut = []) :
    withoutLoans s = s := by
  unfold withoutLoans
  rw [← hpages, ← hb, ← ho]
theorem takePortDown_withoutLoans (s : State) (p cause : Nat) : takePortDown (withoutLoans s) p cause =
    ctlSignal (if ((withoutLoans s).port p).st = 2 then rasEvent (portLost (withoutLoans s) p cause) (rasMake 0x07 3 0 p none 0)
      else portLost (withoutLoans s) p cause) 10 := rfl
theorem exec_portDown_plain {s : State} {p cause : Nat} (hp : p < 18) (hc : cause < 16) (hst : (s.port p).st ≠ 0)
    (hpages : s.pages = []) (hb : s.borrowed = []) (ho : s.remoteOut = []) :
    exec (.portDown p cause) s = .next (ctlSignal (if (s.port p).st = 2 then
      rasEvent (portLost s p cause) (rasMake 0x07 3 0 p none 0) else portLost s p cause) 10) := by
  have hdown := takePortDown_withoutLoans s p cause
  rw [withoutLoans_eq hpages hb ho] at hdown
  show event _ = _
  rw [if_neg (by omega), if_neg hst, Nat.mod_eq_of_lt hc, hdown]
  rfl
theorem not_routesWithout {s : State} {p : Nat} (hp : p < 18) {r : Nat × BitVec 18} (hr : r ∈ routesWithout s p) :
    r.2.getLsbD p = false := by
  obtain ⟨y, -, rfl⟩ := List.mem_map.1 (List.mem_filter.1 hr).1
  simp [hp]

/-- A message changes what waits in ports alone. -/
theorem sendMsg_eq (s : State) (op dev : Nat) (m : Msg) : sendMsg s op dev m = { s with ports := (sendMsg s op dev m).ports } := by
  unfold sendMsg
  split <;> rfl
theorem pageEntry_sendMsg (s : State) (op dev : Nat) (m : Msg) (k : Nat) : (sendMsg s op dev m).pageEntry k = s.pageEntry k := by
  rw [sendMsg_eq]; rfl
theorem same_reply (s : State) (op : Nat) (m : Msg) (fl : BitVec 32) (b : List Byte) : SameBytes s (reply s op m fl b) :=
  same_sendMsg _ _ _ _
/-- A grant to share puts the borrower last among those that share the page (R411). -/
theorem grantPage_sharers (s : State) (m : Msg) (page : Nat) :
    ((grantPage s m page false).pageEntry page).sharers = ((s.pageEntry page).sharers.filter fun d => d != m.src) ++ [m.src] := by
  unfold grantPage reply
  rw [pageEntry_sendMsg, State.pageEntry_setPageEntry]
  rfl
theorem same_grantPage (s : State) (m : Msg) (page : Nat) (mod : Bool) : SameBytes s (grantPage s m page mod) :=
  SameBytes.trans ⟨rfl, rfl⟩ (same_reply _ _ _ _ _)

/-- With no request before it, one that is served is done with at once (R410). -/
theorem event_peerArrive {s t : State} {p op : Nat} {m : Msg} (hp : p < 18) (hv : s.variant ≠ .noLink) (hw : s.peerWait = [])
    (hs : peerServe s op m = (t, true)) : event (peerArrive s p op m) = .next t := by
  have hnone : { s with peerWait := [] } = s := by rw [← hw]
  have hbehind : heldBehind s [] op m = false := rfl
  have hsettle : settlePeers { s with peerWait := s.peerWait ++ [(p, op, m)] } = peerTry [(p, op, m)] [] s := by
    show (if (s.peerWait ++ [(p, op, m)]).isEmpty then _ else peerTry (s.peerWait ++ [(p, op, m)]) [] { s with peerWait := [] }) = _
    rw [if_neg (by simp), hnone, hw, List.nil_append]
  unfold peerArrive
  rw [if_neg (by simp [hv]; omega), hsettle, peerTry, hbehind, hs]
  rfl

/-- The bytes of a line that the mask of a WRL selects (R409). -/
def wrlCells (line : Nat) (m : Msg) : List (Nat × Byte) :=
  ((List.range 128).filter fun i => (nth 0 m.body (i / 8)).getLsbD (i % 8)).map fun i => (line * 128 + i, nth 0 m.body (16 + i))
section
variable {s : State} {m : Msg} {loc page : Nat}
theorem peerServe_read_refused (h : peerRefused s m false = true) : peerServe s 1 m = (nackMsg s m cACCESS, true) := by
  simp [peerServe, h]
/-- A read, a write and an atomic of a peer that nothing holds (R266, R409, R410; the fields of an ATOM's FLAGS are log 20). -/
theorem peerServe_read (hloc : (physLoc m.off).getD 0 = loc) (h : peerRefused s m false = false)
    (hg : peerGate s (lineOf loc) m.src false = none) (hp : s.poison.contains (lineOf loc) = false) :
    peerServe s 1 m = (reply s 0x03 m 0 ((List.range 128).map fun i => readMem s (lineOf loc * 128 + i)), true) := by
  have hp' : lineOf loc ∉ s.poison := by simpa using hp
  simp [peerServe, hloc, h, hg, hp']
theorem peerServe_write (hloc : (physLoc m.off).getD 0 = loc) (h : peerRefused s m true = false)
    (hg : peerGate s (lineOf loc) m.src true = none) :
    peerServe s 2 m = (reply (writeEvent s none (wrlCells (lineOf loc) m) (sPagesOn s [lineOf loc])) 0x04 m 0 [], true) := by
  simp [peerServe, hloc, h, hg, wrlCells]
theorem peerServe_atom (hloc : (physLoc m.off).getD 0 = loc) (h : peerRefused s m true = false)
    (hg : peerGate s (lineOf loc) m.src true = none) (hp : s.poison.contains (lineOf loc) = false) :
    let op := (m.flags.toNat - 0x200) % 16
    let ty := bits m.flags.toNat 12 2
    let n := atomBytes op ty
    let old := leVal ((List.range n).map fun i => readMem s (loc + i))
    let r := atomApply op ty old (leVal (m.body.take 16)) (leVal (m.body.drop 16))
    let s1 := writeEvent s none ((List.range n).zip (bytesOf n r.new) |>.map fun x => (loc + x.1, x.2)) (sPagesOn s [lineOf loc])
    peerServe s 10 m = (if bits m.flags.toNat 10 2 = 2 then reply s1 0x04 m 0 [] else reply s1 0x03 m 0 (bytesOf 128 old), true) := by
  have hp' : lineOf loc ∉ s.poison := by simpa using hp
  have hty : bits m.flags.toNat 10 4 / 4 = bits m.flags.toNat 12 2 := by simp only [bits]; omega
  have hsz : bits m.flags.toNat 10 4 % 4 = bits m.flags.toNat 10 2 := by simp only [bits]; omega
  simp [peerServe, hloc, h, hg, hp', hty, hsz, show bytesOf = leBytes from rfl]
/-- A page that no one holds against a peer, and that has not been asked back from it, is granted (R410, R411). -/
theorem peerServe_pgs (hpage : (physLoc m.off).getD 0 / 4096 = page) (h : peerRefused s m false = false)
    (hg : pageGate s page m.src false = none) (hr : ∀ r ∈ (s.pageEntry page).recalls, r.1 ≠ m.src)
    (hn : (s.pageEntry page).sharers.length < 4) : peerServe s 5 m = (grantPage s m page false, true) := by
  have hr' : ((s.pageEntry page).recalls.any fun r => r.1 == m.src) = false := by simpa using hr
  have hroom : ¬ 4 ≤ (s.pageEntry page).sharers.length := Nat.not_le.2 hn
  simp [peerServe, hpage, h, hg, hr', hroom]
theorem peerServe_pgm (hpage : (physLoc m.off).getD 0 / 4096 = page) (h : peerRefused s m true = false)
    (hheld : pageHeld s page = none) (hg : pageGate s page m.src true = none)
    (hr : ∀ r ∈ (s.pageEntry page).recalls, r.1 ≠ m.src) (hl : ∀ x ∈ s.hostLines, x.line / 32 ≠ page) :
    peerServe s 6 m = (grantPage (hitReaders s none fun l => l / 32 == page) m page true, true) := by
  have hr' : ((s.pageEntry page).recalls.any fun r => r.1 == m.src) = false := by simpa using hr
  have hl' : (s.hostLines.filter fun x => x.line / 32 == page) = [] := by simpa using hl
  simp [peerServe, hpage, h, hheld, hg, hr', hl']
/-- A RETN of the borrower's own accord, or one that answers the recall that is out, ends its hold of the page; it stays as
a sharer only where a recall to share has met an owner (R412, R413, log 89). -/
theorem retnServe_answering (h : m.tag = 0 ∨ ∃ r ∈ (s.pageEntry (reqPage 9 m)).recalls, r.1 = m.src ∧
      tget 0 (s.pageEntry (reqPage 9 m)).rtags m.src = m.tag) :
    ∃ n, retnServe s m = s.setPageEntry (reqPage 9 m) n ∧ (∀ r ∈ n.recalls, r.1 ≠ m.src) ∧ n.owner ≠ some m.src ∧
      (m.src ∈ n.sharers → (m.src, true) ∈ (s.pageEntry (reqPage 9 m)).recalls ∧ (s.pageEntry (reqPage 9 m)).owner = some m.src) := by
  unfold retnServe
  dsimp only
  generalize s.pageEntry (reqPage 9 m) = e at h ⊢
  have hgo : ¬ (m.tag ≠ 0 && !((e.recalls.any fun r => r.1 == m.src) && tget 0 e.rtags m.src == m.tag)) = true := by
    rcases h with h | ⟨r, hr, hsrc, htag⟩
    · simp [h]
    · have : (e.recalls.any fun r => r.1 == m.src) = true := List.any_eq_true.2 ⟨r, hr, by simpa using hsrc⟩
      simp [this, htag]
  have hrecalls : ∀ r ∈ (dropBorrower e m.src).recalls, r.1 ≠ m.src := by simp [dropBorrower]
  have howner : (dropBorrower e m.src).owner ≠ some m.src := by
    simp only [dropBorrower]; split <;> simp_all
  rw [if_neg (by simpa using hgo)]
  refine ⟨_, rfl, ?_⟩
  by_cases hS : ((e.recalls.any fun r => r.1 == m.src && r.2) && e.owner == some m.src) = true
  · rw [if_pos hS]
    simp only [Bool.and_eq_true, List.any_eq_true, beq_iff_eq] at hS
    obtain ⟨⟨⟨a, b⟩, hr, hsrc, hb⟩, ho⟩ := hS
    subst hsrc hb
    exact ⟨hrecalls, howner, fun _ => ⟨hr, ho⟩⟩
  · rw [if_neg hS]
    exact ⟨hrecalls, howner, fun hmem => absurd hmem (by simp [dropBorrower])⟩
/-- A RETN that answers a recall which is no longer out changes nothing (R413, log 89). -/
theorem retnServe_stale (ht : m.tag ≠ 0) (h : ∀ r ∈ (s.pageEntry (reqPage 9 m)).recalls, r.1 = m.src →
    tget 0 (s.pageEntry (reqPage 9 m)).rtags m.src ≠ m.tag) : retnServe s m = s := by
  have hstale : ((s.pageEntry (reqPage 9 m)).recalls.any (fun r => r.1 == m.src) &&
      tget 0 (s.pageEntry (reqPage 9 m)).rtags m.src == m.tag) = false := by
    refine Bool.eq_false_iff.2 fun hb => ?_
    obtain ⟨hasked, htag⟩ := Bool.and_eq_true_iff.1 hb
    obtain ⟨r, hr, hsrc⟩ := List.any_eq_true.1 hasked
    exact h r hr (beq_iff_eq.1 hsrc) (beq_iff_eq.1 htag)
  unfold retnServe
  exact if_pos (by rw [hstale]; simpa using ht)
theorem peerServe_retn : peerServe s 9 m = (retnServe s m, true) := rfl
theorem reqPage_recall : reqPage 8 m = (remoteBase + m.src * 2 ^ 45 + m.off) / 4096 := if_pos rfl
/-- A page that is not borrowed is answered to have gone back (R412). -/
theorem peerServe_recall_absent (hh : pageHeld s ((remoteBase + m.src * 2 ^ 45 + m.off) / 4096) = none)
    (hg : (tget ⟨false, false, false⟩ s.borrowed ((remoteBase + m.src * 2 ^ 45 + m.off) / 4096)).granted = false) :
    peerServe s 8 m = (sendMsg s 0x09 m.src ⟨ownDev s, m.tag, 0, m.off, []⟩, true) := by
  rw [← reqPage_recall] at hh hg
  simp [peerServe, recallServe, hh, hg]

theorem exec_recallRetransmit_one {page : Nat} {r : Nat × Bool} (hr : (s.pageEntry page).recalls = [r])
    (hup : ((routePort s r.1 (tget (page * 4096) (s.pageEntry page).offs r.1 / 4096)).any fun k => (s.port k).st == 2) = true) :
    exec (.recallRetransmit page) s = .next (sendMsg s 0x08 r.1 ⟨ownDev s, tget 0 (s.pageEntry page).rtags r.1,
      if r.2 then 1 else 0, tget (page * 4096) (s.pageEntry page).offs r.1, []⟩) := by
  show event _ = _
  simp only [hr, List.foldl_cons, List.foldl_nil, hup, if_true]
  rfl
end

/-- The machine once the request that a message answers is no longer out (R409). -/
def answered (s : State) (m : Msg) : State := { s with remoteOut := tdel s.remoteOut m.tag }
section
variable {s : State} {p : Nat} {m : Msg} {a : Ask} (hp : p < 18) (ha : tget? s.remoteOut m.tag = some a)
include ha
theorem askOf_eq : askOf s m = some (a, answered s m) := by
  simp [askOf, ha, answered]
include hp
theorem exec_dataMsg_read (hw : a.what = 1) :
    exec (.dataMsg p m) s = .next { answered s m with remoteIn := tput s.remoteIn a.key m.body } := by
  show event _ = _
  rw [if_neg (by omega), askOf_eq ha]
  simp [hw, event, answered]
theorem exec_ack_write (hw : a.what = 2) :
    exec (.ack p m) s = .next { answered s m with remoteIn := tput s.remoteIn a.key [] } := by
  show event _ = _
  rw [if_neg (by omega), askOf_eq ha]
  simp [hw, event, answered]
theorem exec_grant_page (hw : a.what = 4) :
    exec (.grant p m) s =
      .next { answered s m with borrowed := tput s.borrowed (a.loc / 4096) ⟨m.flags.getLsbD 0, true, false⟩ } := by
  show event _ = _
  rw [if_neg (by omega), askOf_eq ha]
  simp [hw, event, answered]
theorem exec_nack_access (hw : a.what < 4) :
    exec (.nack p m) s = .next { answered s m with nacks := tput s.nacks (lineOf a.loc) (bits m.flags.toNat 0 8) } := by
  show event _ = _
  rw [if_neg (by omega), askOf_eq ha]
  have hcases : a.what = 0 ∨ a.what = 1 ∨ a.what = 2 ∨ a.what = 3 := by omega
  rcases hcases with h | h | h | h <;> simp [h, event, answered]
end
end Sys2Proof.Proofs
end

section
/-! The statement about the Swiust link. -/
namespace Sys2Proof.Proofs
open Sys2Proof.Machine Sys2Proof.Safety Sys2Proof.Claims Sys2Proof.Laws

/-- Settles O52: a request with none before it is served at once (`event_peerArrive`), so each message has the closed form of
its service; what a write or an atomic leaves in memory is what its one write event carries. -/
theorem linkEvents : Obligations.LinkEvents := by
  unfold Obligations.LinkEvents
  intro s p m hp
  refine ⟨?flit, ?down, ?home, ?replies, ?recalled⟩
  case flit =>
    intro f hst
    split
    · next hf => exact Does.of_next (exec_flitReceive_unopened hp hst hf) rfl
    · next b hf =>
      intro hd hq
      refine Does.of_next (exec_flitReceive_data hp hst hf hd hq) ⟨?_, rfl, ?_, rfl⟩
      · show ((s.setPort p _).port p).rxSeq = _
        rw [State.port_setPort]; rfl
      · show ((s.setPort p _).port p).tx.length = _
        rw [State.port_setPort]; exact List.length_append
  case down =>
    intro cause hc hst hpages hb ho
    have hport : (portLost s p cause).port p = downPort s p cause := State.port_setPort s p (downPort s p cause)
    refine Does.of_next (exec_portDown_plain hp hc hst hpages hb ho)
      ⟨portLost s p cause, ?_, ?_, ?_, ?_, fun r hr => not_routesWithout hp hr, fun _ => rfl, rfl, rfl⟩ <;> rw [hport] <;> rfl
  case home =>
    intro loc hw hv
    refine ⟨fun hr => ?_, fun hr hg hpo => ?_, fun hr hg => ⟨?_, fun hpo => ?_⟩, ?pages⟩
    · exact Does.of_next (event_peerArrive hp hv hw (peerServe_read_refused hr)) rfl
    · exact Does.of_next (event_peerArrive hp hv hw (peerServe_read rfl hr hg hpo)) rfl
    · exact Does.of_next (event_peerArrive hp hv hw (peerServe_write rfl hr hg)) ⟨_, rfl, readMem_writeEvent _ _ _ _⟩
    · exact Does.of_next (event_peerArrive hp hv hw (peerServe_atom rfl hr hg hpo)) ⟨_, readMem_writeEvent _ _ _ _, rfl⟩
    case pages =>
      intro page e
      refine ⟨fun hr hg hrec hn => ?_, fun hr hheld hg hrec hl => ?_, fun h => ?_, fun ht h => ?_, ?_⟩
      · exact Does.of_next (event_peerArrive hp hv hw (peerServe_pgs rfl hr hg hrec hn))
          ⟨grantPage_sharers s m page, (same_grantPage s m page false).readMem⟩
      · exact Does.of_next (event_peerArrive hp hv hw (peerServe_pgm rfl hr hheld hg hrec hl)) ⟨_, rfl, rfl⟩
      · exact Does.of_next (event_peerArrive hp hv hw peerServe_retn) (retnServe_answering h)
      · exact Does.of_next (event_peerArrive hp hv hw peerServe_retn) (retnServe_stale ht h)
      · intro r off hr hup
        exact Does.of_next (exec_recallRetransmit_one hr hup) rfl
  case replies =>
    intro a ha s0
    refine ⟨fun h => ?_, fun h => ?_, fun h => ?_, fun h => ?_⟩
    · exact Does.of_next (exec_dataMsg_read hp ha h) rfl
    · exact Does.of_next (exec_ack_write hp ha h) rfl
    · exact Does.of_next (exec_grant_page hp ha h) rfl
    · exact Does.of_next (exec_nack_access hp ha h) rfl
  case recalled =>
    intro page hv hw hheld hg
    exact Does.of_next (event_peerArrive hp hv hw (peerServe_recall_absent hheld hg)) rfl
end Sys2Proof.Proofs
end

section
/-! Integer results at a width (R197, R198, R200, R204, R207): the model computes on numbers, the statements on bit vectors
of 32 or 64 bits. -/
namespace Sys2Proof.Proofs
open Sys2Proof.Machine Sys2Proof.Safety Sys2Proof.Claims Sys2Proof.Laws

/-- A result of the model is a bit vector of its width, zero-extended (R197). -/
theorem wRes_iRes (w : Bool) (i : Int) (c v : Bool) :
    wRes w (iRes w i c v).val = if w then BitVec.ofInt 64 i else (BitVec.ofInt 32 i).setWidth 64 := by
  cases w <;> apply BitVec.eq_of_toNat_eq <;> simp [wRes, iRes, wbits] <;> omega

/-- The Z and N that the model finds in the number are those of the register written (R198). -/
theorem ccOf_eq_ccZN (w : Bool) (old : CC) (r : IRes) : ccOf w old r = ccZN w old (wRes w r.val) r.c r.v := by
  have hnat : (wRes w r.val).toNat = r.val % 2 ^ wbits w := by cases w <;> simp [wRes, wbits]; omega
  have hz : (wRes w r.val == 0) = (r.val % 2 ^ wbits w == 0) := by
    rw [← hnat, Bool.eq_iff_iff, beq_iff_eq, beq_iff_eq]
    exact BitVec.toNat_inj.symm
  have hn : (wRes w r.val).getLsbD (wbits w - 1) = decide (2 ^ (wbits w - 1) ≤ r.val % 2 ^ wbits w) := by
    rw [← BitVec.testBit_toNat, hnat, Nat.testBit_eq_decide_div_mod_eq, decide_eq_decide]
    cases w <;> simp only [wbits, Bool.false_eq_true, if_false, if_true] <;> omega
  rw [ccZN, hz, hn]
  rfl

theorem sextN_toNat {n : Nat} (f : BitVec n) : sextN n f.toNat = f.toInt := by
  unfold sextN
  dsimp only
  rw [BitVec.toInt_eq_toNat_cond, Nat.mod_eq_of_lt f.isLt]
  cases n with
  | zero => simp [BitVec.of_length_zero]
  | succ k =>
    have hpow : 2 ^ (k + 1) = 2 ^ k * 2 := Nat.pow_succ ..
    rw [Nat.add_sub_cancel]
    by_cases h : 2 ^ k ≤ f.toNat
    · rw [if_pos h, if_neg (by omega), Int.natCast_pow]; rfl
    · rw [if_neg h, if_pos (by omega)]

/-- The number that BFX computes, at any width (R204). -/
theorem ofInt_field (sx : Bool) (pos len n : Nat) (a b : BitVec n) :
    BitVec.ofInt n (if sx then sextN len (a.toNat / 2 ^ pos % 2 ^ len) else (a.toNat / 2 ^ pos % 2 ^ len : Nat)) =
      bfxVal sx pos len n a b := by
  have hf : a.toNat / 2 ^ pos % 2 ^ len = ((a >>> pos).setWidth len).toNat := by
    rw [BitVec.toNat_setWidth, BitVec.toNat_ushiftRight, Nat.shiftRight_eq_div_pow]
  rw [hf]
  cases sx
  · exact (BitVec.ofInt_natCast n _).trans (BitVec.ofNat_toNat ..)
  · exact congrArg (BitVec.ofInt n) (sextN_toNat _)

/-- The bits of the number that BFI computes: those of the field from `a`, the others from `d` (R204). -/
theorem testBit_replaced (d a pos len i : Nat) :
    (d / 2 ^ (pos + len) * 2 ^ (pos + len) + a % 2 ^ len * 2 ^ pos + d % 2 ^ pos).testBit i =
      if pos ≤ i ∧ i < pos + len then a.testBit (i - pos) else d.testBit i := by
  have hsum : d / 2 ^ (pos + len) * 2 ^ (pos + len) + a % 2 ^ len * 2 ^ pos + d % 2 ^ pos =
      2 ^ pos * (2 ^ len * (d / 2 ^ (pos + len)) + a % 2 ^ len) + d % 2 ^ pos := by
    rw [Nat.mul_add, ← Nat.mul_assoc, ← Nat.pow_add, Nat.mul_comm (d / _), Nat.mul_comm (a % _)]
  rw [hsum, Nat.testBit_two_pow_mul_add _ (Nat.mod_lt _ (Nat.two_pow_pos pos)),
    Nat.testBit_two_pow_mul_add _ (Nat.mod_lt _ (Nat.two_pow_pos len)), Nat.testBit_mod_two_pow, Nat.testBit_mod_two_pow,
    Nat.testBit_div_two_pow]
  by_cases hlow : i < pos
  · simp [hlow, show ¬ pos ≤ i by omega]
  · by_cases hfield : i < pos + len
    · simp [hlow, hfield, show pos ≤ i by omega, show i - pos < len by omega]
    · simp [hlow, hfield, show ¬ i - pos < len by omega, show i - pos - len + (pos + len) = i by omega]
/-- The same of the bit vector that masks and shifts give. -/
theorem getLsbD_bfiVal (pos len : Nat) {n i : Nat} (d a : BitVec n) (hi : i < n) :
    (bfiVal pos len n d a).getLsbD i = if pos ≤ i ∧ i < pos + len then a.getLsbD (i - pos) else d.getLsbD i := by
  unfold bfiVal
  simp only [BitVec.getLsbD_or, BitVec.getLsbD_and, BitVec.getLsbD_not, BitVec.getLsbD_shiftLeft, BitVec.getLsbD_setWidth,
    BitVec.getLsbD_allOnes, hi]
  by_cases hlow : i < pos
  · simp [hlow, show ¬ pos ≤ i by omega]
  · by_cases hfield : i < pos + len
    · simp [hlow, hfield, show pos ≤ i by omega, show i - pos < len by omega, show i - pos < n by omega]
    · simp [hlow, hfield, show ¬ i - pos < len by omega]
theorem ofInt_replaced (pos len n : Nat) (d a : BitVec n) :
    BitVec.ofInt n ((d.toNat / 2 ^ (pos + len) * 2 ^ (pos + len) + a.toNat % 2 ^ len * 2 ^ pos + d.toNat % 2 ^ pos : Nat) : Int) =
      bfiVal pos len n d a := by
  rw [BitVec.ofInt_natCast]
  refine BitVec.eq_of_getLsbD_eq fun i hi => ?_
  rw [getLsbD_bfiVal pos len d a hi, BitVec.getLsbD_ofNat, testBit_replaced, decide_eq_true hi, Bool.true_and]
  rfl
theorem ofInt_mul_add {n : Nat} (a b d : BitVec n) :
    BitVec.ofInt n ((a.toNat * b.toNat + d.toNat : Nat) : Int) = a * b + d := by
  rw [BitVec.ofInt_natCast, BitVec.ofNat_add, BitVec.ofNat_mul]
  simp

/-- POS and LEN as numbers (R204). -/
theorem toNat_pos (x : W32) : (x.extractLsb' 0 6).toNat = x.toNat % 64 := by simp
theorem toNat_len (x : W32) : (x.extractLsb' 8 7).toNat = x.toNat / 256 % 128 := by simp [Nat.shiftRight_eq_div_pow]

theorem bfxOf_eq_wRes (f : FAWX) (t : Team) (c l : Nat) : bfxOf f t c l =
    wRes f.w (iBfx f.w (f.x.getLsbD 16) (readW t c l f.w f.a) (f.x.toNat % 64) (f.x.toNat / 256 % 128)).val := by
  unfold bfxOf iBfx
  rw [toNat_pos, toNat_len, wRes_iRes]
  cases f.w
  · exact congrArg (BitVec.setWidth 64) (ofInt_field _ _ _ 32 ((reg f.a t c l).setWidth 32) 0).symm
  · exact (ofInt_field _ _ _ 64 (reg f.a t c l) 0).symm
theorem bfiOf_eq_wRes (f : FAWX) (t : Team) (c l : Nat) : bfiOf f t c l =
    wRes f.w (iBfi f.w (readW t c l f.w f.d) (readW t c l f.w f.a) (f.x.toNat % 64) (f.x.toNat / 256 % 128)).val := by
  unfold bfiOf iBfi
  rw [toNat_pos, toNat_len, wRes_iRes]
  cases f.w
  · exact congrArg (BitVec.setWidth 64)
      (ofInt_replaced _ _ 32 ((reg f.d t c l).setWidth 32) ((reg f.a t c l).setWidth 32)).symm
  · exact (ofInt_replaced _ _ 64 (reg f.d t c l) (reg f.a t c l)).symm
theorem imadVal_eq_wRes (f : FAW) (t : Team) (c l : Nat) : imadVal f t c l =
    wRes f.w (iMad f.w (readW t c l f.w f.d) (readW t c l f.w f.a) (readW t c l f.w f.b)).val := by
  unfold imadVal iMad
  rw [wRes_iRes]
  cases f.w
  · refine congrArg (BitVec.setWidth 64) (Eq.trans ?_
      (ofInt_mul_add ((reg f.a t c l).setWidth 32) ((reg f.b t c l).setWidth 32) ((reg f.d t c l).setWidth 32)).symm)
    simp [atW]
  · exact (ofInt_mul_add (reg f.a t c l) (reg f.b t c l) (reg f.d t c l)).symm
theorem wRes_readW (t : Team) (c l : Nat) (w : Bool) (r : Reg) :
    wRes w (readW t c l w r) = atW w (fun _ a _ => a) (reg r t c l) 0 := by
  cases w <;> apply BitVec.eq_of_toNat_eq <;> simp [wRes, readW, atW, reg]
/-- The immediate of MOVI: extended to the width, it is the low part of its extension to 64 bits (R207). -/
theorem wRes_immediate (w : Bool) (i : BitVec 14) :
    wRes w (i.toInt % (2 ^ wbits w : Int)).toNat = atW w (fun _ a _ => a) (i.signExtend 64) 0 := by
  refine (wRes_iRes w i.toInt false false).trans ?_
  cases w
  · refine congrArg (BitVec.setWidth 64) (?_ : i.signExtend 32 = (i.signExtend 64).setWidth 32)
    refine BitVec.eq_of_getLsbD_eq fun j hj => ?_
    simp only [BitVec.getLsbD_signExtend, BitVec.getLsbD_setWidth, hj, show j < 64 by omega, decide_true, Bool.true_and]
  · rfl
/-- The literal of MOVL: one X word, or two with the low half first (R207). -/
theorem wRes_literal (w : Bool) (lo hi : W32) :
    wRes w (if w then lo.toNat + 2 ^ 32 * hi.toNat else lo.toNat) = if w then hi ++ lo else lo.setWidth 64 := by
  cases w <;> apply BitVec.eq_of_toNat_eq
  · simp [wRes]; omega
  · have happ : (hi ++ lo).toNat = 2 ^ 32 * hi.toNat + lo.toNat := by
      rw [BitVec.toNat_append, Nat.shiftLeft_eq, Nat.mul_comm hi.toNat, ← Nat.two_pow_add_eq_or_of_lt lo.isLt]
    have := hi.isLt
    simp [wRes]
    omega
end Sys2Proof.Proofs
end

section
/-! A team that is written twice, and MOV.KILL, which writes 0 and then returns physical registers (R66). -/
namespace Sys2Proof.Proofs
open Sys2Proof.Machine Sys2Proof.Safety Sys2Proof.Claims Sys2Proof.Laws

section
variable {α : Type}
theorem tput_tput (m : Tab α) (k : Nat) (x y : α) : tput (tput m k x) k y = tput m k y := by
  induction m with
  | nil => simp [tput]
  | cons c r ih =>
    obtain ⟨j, v⟩ := c
    by_cases h : k = j
    · simp [tput, h]
    · by_cases hl : k < j <;> simp [tput, h, hl, ih]
theorem tdel_tput (m : Tab α) (k : Nat) (x : α) : tdel (tput m k x) k = tdel m k := by
  induction m with
  | nil => simp [tput, tdel]
  | cons c r ih =>
    obtain ⟨j, v⟩ := c
    by_cases h : k = j
    · simp [tput, tdel, h]
    · by_cases hl : k < j <;> simp [tput, tdel, h, hl, ih]
theorem tdel_tdel (m : Tab α) (k : Nat) : tdel (tdel m k) k = tdel m k := by
  induction m with
  | nil => rfl
  | cons c r ih =>
    obtain ⟨j, v⟩ := c
    by_cases h : k = j
    · subst h; simpa [tdel] using ih
    · simp [tdel, h, ih]
/-- The second of two writes of a key stands alone, unless the first unlists the key and the second lists it again: on a
table that is not in canonical form the two differ. -/
theorem tset_tset [DecidableEq α] (d : α) (m : Tab α) (k : Nat) {x y : α} (h : x = d → y = d) :
    tset d (tset d m k x) k y = tset d m k y := by
  unfold tset
  by_cases hy : y = d
  · by_cases hx : x = d
    · simp [hx, hy, tdel_tdel]
    · simp [hx, hy, tdel_tput]
  · simp [mt h hy, hy, tput_tput]
end
theorem setTeam_setTeam (s : State) (tk : Nat) {t u : Team} (h : t = Team.none → u = Team.none) :
    (s.setTeam tk t).setTeam tk u = s.setTeam tk u :=
  congrArg (fun m => { s with teams := m }) (tset_tset Team.none s.teams tk h)

/-- Returning the physical registers of a cleared register changes the rename maps alone (R66). -/
theorem killAlloc_eq (t : Team) (r : Reg) :
    killAlloc t r = { t with alloc := (killAlloc t r).alloc, salloc := (killAlloc t r).salloc } := by
  unfold killAlloc
  split <;> rfl
theorem killAlloc_none (r : Reg) : killAlloc Team.none r = Team.none := by
  unfold killAlloc
  split <;> rfl
theorem setTeam_modTeam_killAlloc (s : State) (tk : Nat) (u : Team) (r : Reg) :
    (s.setTeam tk u).modTeam tk (fun t => killAlloc t r) = s.setTeam tk (killAlloc u r) := by
  rw [State.modTeam, State.team_setTeam, setTeam_setTeam]
  rintro rfl
  exact killAlloc_none r
theorem did_killAlloc {t u : Team} {l : List (Nat × LaneOut)} (h : Did t u l) (r : Reg) : Did t (killAlloc u r) l := by
  obtain ⟨hrest, hids, hreg, hpred, hflag⟩ := h
  rw [killAlloc_eq]
  exact ⟨by rw [hrest], hids, hreg, hpred, hflag⟩

/-- A scalar-class word that writes registers and no CC. -/
theorem did_writeRegs_scalar (t : Team) (rs : List (Reg × Word)) :
    Did t (writeRegs t (toRes t 0 { regs := rs }).w) (scalarLanes t { regs := rs }) := by
  have hcc : ∀ u : Team, u.cc = t.cc → { u with cc := t.cc } = u := fun u h => by rw [← h]
  exact hcc _ (writeRegs_cc t _) ▸ did_scalar_regs t rs t.cc

/-- MOV.KILL acts as its lanes' write of 0 does, with the physical registers returned. -/
theorem movKill_acts {f : FA} {s : State} {tk : Nat} {u : Team} {a b r : Nat} (h : Issues s tk (.movKill f) [])
    (hl : laneWord f.d [f.d] true false 1 1 (fun _ _ _ => ⟨0, false, false⟩) s tk (s.team tk).clk =
      .done (s.setTeam tk u) a b r) :
    Acts s tk (.movKill f) (s.setTeam tk (killAlloc u f.d)) a b r := by
  refine word_acts h ?_
  rw [hl, ← setTeam_modTeam_killAlloc]
theorem movKill_claim (f : FA) : LaneClaim (.movKill f) [] [f.d] (fun _ _ _ => 1) 1 (one f.d (lit 0)) sameCC := by
  intro s tk hs
  show if scalarClass tk [f.d] then _ else _
  split
  · next h =>
    exact ⟨_, movKill_acts hs (by simp only [laneWord, h, if_true]; rfl),
      did_killAlloc (did_writeRegs_scalar (s.team tk) [(f.d, 0)]) f.d⟩
  · next h =>
    refine ⟨_, movKill_acts hs ?_, did_killAlloc (did_applyLanes (s.team tk) _) f.d⟩
    simp only [laneWord, h, List.map_map]
    rfl
end Sys2Proof.Proofs
end

section
/-! The statement about IMAD, BFX, BFI and the moves and literals. -/
namespace Sys2Proof.Proofs
open Sys2Proof.Machine Sys2Proof.Safety Sys2Proof.Claims Sys2Proof.Laws

section
variable {i : Instr} {srcs rs : List Reg} {d : Reg} {w : Bool} {ivl rdy : Nat} {g : Team → Nat → Nat → IRes}
  {x : Team → Nat → Nat → Word}
/-- A word of one register result that writes Z and N and clears C and V, and one that writes no CC (R198). -/
theorem resultWord_claim (hi : ∀ s, exec i s = word i s srcs (laneWord d rs w true ivl rdy g))
    (hx : ∀ t c l, x t c l = wRes w (g t c l).val) (hc : ∀ t c l, (g t c l).c = false) (hv : ∀ t c l, (g t c l).v = false) :
    LaneClaim i srcs rs (fun _ _ _ => ivl) rdy (one d x) (ccRes w x) := by
  refine laneWord_claim i srcs rs d w true ivl rdy g _ _ hi (fun t c l => ?_) fun t => ?_
  · rw [← hx]; rfl
  · rw [if_pos rfl, ccOf_eq_ccZN, hc, hv, ← hx]; rfl
theorem moveWord_claim (hi : ∀ s, exec i s = word i s srcs (laneWord d rs w false ivl rdy g))
    (hx : ∀ t c l, x t c l = wRes w (g t c l).val) :
    LaneClaim i srcs rs (fun _ _ _ => ivl) rdy (one d x) sameCC := by
  refine laneWord_claim i srcs rs d w false ivl rdy g _ _ hi (fun t c l => ?_) fun t => rfl
  rw [← hx]; rfl
end

/-- Settles O2: but for MOV.KILL each word is a `laneWord`, so it is enough that its number, written at its width, is the
statement's value. -/
theorem fieldsAndMoves : Obligations.FieldsAndMoves := by
  unfold Obligations.FieldsAndMoves
  refine ⟨fun f => ?imad, fun f => ?bfx, fun f => ?bfi, fun f => ?mov, fun f => ?movi, fun f => ?movl, fun f => ?movKill⟩
  case imad => exact resultWord_claim (fun _ => rfl) (imadVal_eq_wRes f) (fun _ _ _ => rfl) fun _ _ _ => rfl
  case bfx => exact resultWord_claim (fun _ => rfl) (bfxOf_eq_wRes f) (fun _ _ _ => rfl) fun _ _ _ => rfl
  case bfi => exact resultWord_claim (fun _ => rfl) (bfiOf_eq_wRes f) (fun _ _ _ => rfl) fun _ _ _ => rfl
  case mov => exact moveWord_claim (fun _ => rfl) fun t c l => (wRes_readW t c l f.w f.a).symm
  case movi => exact moveWord_claim (fun _ => rfl) fun _ _ _ => (wRes_immediate f.w f.i).symm
  case movl => exact moveWord_claim (fun _ => rfl) fun _ _ _ => (wRes_literal f.w f.lo f.hi).symm
  case movKill => exact movKill_claim f
end Sys2Proof.Proofs
end

section
/-! The mask and the window (R63, R209, R219): words of one cycle that change their team or trap, and the bits that
MSET.WORD leaves. -/
namespace Sys2Proof.Proofs
open Sys2Proof.Machine Sys2Proof.Safety Sys2Proof.Claims Sys2Proof.Laws

section
variable {i : Instr} {s : State} {tk : Nat} {srcs : List Reg} {g : State → Nat → Nat → Team → Option Team} {cause : Nat}
  (hi : exec i s = word i s srcs (Machine.uniform g cause)) (h : Issues s tk i srcs)
include hi h
theorem uniform_acts {u : Team} (hg : g s tk (s.team tk).clk (s.team tk) = some u) : ActsOnce s tk i (s.setTeam tk u) := by
  refine hi.trans (word_acts h ?_)
  rw [Machine.uniform, hg]
  rfl
theorem uniform_traps (hg : g s tk (s.team tk).clk (s.team tk) = none) : TrapsAt s tk i cause := by
  refine hi.trans (word_traps h ?_)
  rw [Machine.uniform, hg]
  rfl
end

/-- The mask after MSET.WORD has put a value in word j (R219). -/
def wordMask (t : Team) (j : Nat) (v : Word) : Mask :=
  (t.mask &&& ~~~wordLanes j) ||| ((BitVec.ofNat 1024 (v.toNat % 2 ^ 32) <<< (32 * j)) &&& widthMask t.width &&& occupied t)
theorem getLsbD_wordLanes {j l : Nat} (hl : l < 1024) : (wordLanes j).getLsbD l = decide (l / 32 = j) := by
  have hones : (0xFFFFFFFF#1024).getLsbD (l - 32 * j) = decide (l - 32 * j < 32) := by
    rw [show 0xFFFFFFFF#1024 = BitVec.ofNat 1024 (2 ^ 32 - 1) from rfl, BitVec.getLsbD_ofNat, Nat.testBit_two_pow_sub_one,
      decide_eq_true (show l - 32 * j < 1024 by omega), Bool.true_and]
  rw [wordLanes, BitVec.getLsbD_shiftLeft, hones, Bool.eq_iff_iff]
  simp
  omega
theorem getLsbD_widthMask (w : Nat) {l : Nat} (hl : l < 1024) : (widthMask w).getLsbD l = decide (l < w) := by
  rw [widthMask, BitVec.getLsbD_ofNat, Nat.testBit_two_pow_sub_one, decide_eq_true hl, Bool.true_and]
theorem getLsbD_wordMask (t : Team) (j : Nat) (v : Word) {l : Nat} (hl : l < 1024) : (wordMask t j v).getLsbD l =
    if l / 32 = j then v.getLsbD (l % 32) && decide (l < t.width) && (t.live ||| t.helper).getLsbD l else t.mask.getLsbD l := by
  unfold wordMask occupied
  simp only [BitVec.getLsbD_or, BitVec.getLsbD_and, BitVec.getLsbD_not, BitVec.getLsbD_shiftLeft, BitVec.getLsbD_ofNat, hl,
    getLsbD_wordLanes hl, getLsbD_widthMask _ hl, Nat.testBit_mod_two_pow]
  by_cases hj : l / 32 = j
  · have hm : l - 32 * j = l % 32 := by omega
    simp [hj, hm, BitVec.testBit_toNat, show ¬ l < 32 * j by omega, show l % 32 < 1024 by omega, Nat.mod_lt]
  · by_cases hlt : l < 32 * j
    · simp [hj, hlt]
    · simp [hj, show ¬ l - 32 * j < 32 by omega]

/-- One register written once. -/
theorem applyLanes_one (t : Team) (l : Nat) (d : Reg) (x : Word) :
    applyLanes t [(l, toRes t l { regs := [(d, x)] })] = writeRegs t (regW t l d x) := by
  have hw : (({} : RegW).append (({} : RegW).append (regW t l d x))) = regW t l d x := rfl
  unfold applyLanes toRes
  simp [hw, writePreds, raiseFlags]
theorem did_writeReg (t : Team) (l : Nat) (d : Reg) (x : Word) :
    Did t (writeRegs t (regW t l d x)) [(l, { regs := [(d, x)] })] :=
  applyLanes_one t l d x ▸ did_applyLanes t [(l, { regs := [(d, x)] })]
end Sys2Proof.Proofs
end

section
/-! The statement about MSET, MGET and WBASE. -/
namespace Sys2Proof.Proofs
open Sys2Proof.Machine Sys2Proof.Safety Sys2Proof.Claims Sys2Proof.Laws

/-- Settles O22: each mode has one answer of its `uniform` body, and MSET.WORD's mask is read bit by bit
(`getLsbD_wordMask`). -/
theorem masksAndWindow : Obligations.MasksAndWindow := by
  unfold Obligations.MasksAndWindow
  intro s tk
  refine ⟨fun f hs => ⟨?save, ?back, ?word, ?all⟩, fun f hs => ?mget, fun f hs => ?wbaseImm, fun f hs => ?wbaseReg⟩
  case save =>
    intro hb
    split
    · next h => exact uniform_acts rfl hs (by simp [hb, h, masked])
    · next h => exact uniform_traps rfl hs (by simp [hb, h])
  case back =>
    intro hb
    refine ⟨fun m r hst => uniform_acts rfl hs ?_, fun hst => uniform_traps rfl hs ?_⟩
    · simp [hb, hst, masked, occupied]
    · simp [hb, hst]
  case word =>
    intro hb
    exact ⟨wordMask (s.team tk) ((reg f.d (s.team tk) (s.team tk).clk 0).toNat % 32) (reg f.a (s.team tk) (s.team tk).clk 0),
      uniform_acts rfl hs (by simp [hb, masked, wordMask, reg]), fun l hl => getLsbD_wordMask _ _ _ hl⟩
  case all =>
    intro hb
    obtain ⟨n, hn⟩ : ∃ n, f.b.toNat = n + 3 := ⟨_, (Nat.sub_add_cancel hb).symm⟩
    exact uniform_acts rfl hs (by simp [hn, masked, occupied])
  case mget =>
    refine ⟨_, uniform_acts rfl hs rfl, ?_⟩
    simp only [beq_iff_eq]
    exact did_writeReg (s.team tk) 0 f.d _
  case wbaseImm => exact word_acts hs rfl
  case wbaseReg =>
    intro v
    split
    · next h => exact word_acts hs (if_pos h)
    · next h => exact word_traps hs (if_neg h)
end Sys2Proof.Proofs
end

section
/-! MACQ (R283): where no grid stands and nothing is logged in memory, what follows the word's own effect leaves the arrays
as the word made them, so that their fields can be read off the state that the step leaves. -/
namespace Sys2Proof.Proofs
open Sys2Proof.Machine Sys2Proof.Safety Sys2Proof.Claims Sys2Proof.Laws

/-- Units that are no teams reach no memory from the register window up (R119). -/
theorem memLoc_of_regBase_le {a : Nat} (h : regBase ≤ a) : memLoc a = none := by
  have hnone : physLoc a = none := by
    have hdram : ilvBase + dramBytes ≤ regBase := by decide
    have hhost : hostBase + 2 ^ 48 ≤ regBase := by decide
    have hsram : sramBase + 0x1000000 ≤ regBase := by decide
    unfold physLoc
    rw [if_neg (by omega), if_neg (by simp only [Bool.and_eq_true, decide_eq_true_eq]; omega),
      if_neg (by simp only [Bool.and_eq_true, decide_eq_true_eq]; omega),
      if_neg (by simp only [Bool.and_eq_true, decide_eq_true_eq]; omega)]
  rw [memLoc, hnone]
theorem physWrite_of_regBase_le (s : State) {pa : Nat} (b : List Byte) (h : regBase ≤ pa) : physWrite s pa b = s := by
  have hcells : physCells s pa b = [] := by
    refine List.filterMap_eq_nil_iff.2 fun i _ => ?_
    rw [memLoc_of_regBase_le (Nat.le_add_right_of_le h)]
  simp [physWrite, hcells]

/-- No grid stands, and the journal and the context descriptors lie beyond memory. -/
structure Unlogged (s : State) : Prop where
  noGrid : s.grids = []
  journal : regBase ≤ s.sched.jbase.toNat
  descs : regBase ≤ s.sched.ctxbase

/-- Nothing is logged, and every core stands. -/
def CoresStand (s s' : State) : Prop := Unlogged s → Unlogged s' ∧ s'.cores = s.cores
theorem CoresStand.refl (s : State) : CoresStand s s := fun h => ⟨h, rfl⟩
theorem CoresStand.trans {a b c : State} (hab : CoresStand a b) (hbc : CoresStand b c) : CoresStand a c := fun h =>
  let ⟨hb, eb⟩ := hab h
  let ⟨hc, ec⟩ := hbc hb
  ⟨hc, ec.trans eb⟩
theorem CoresStand.foldl {α : Type} {f : State → α → State} (h : ∀ s x, CoresStand s (f s x)) (l : List α) (s : State) :
    CoresStand s (l.foldl f s) := by
  induction l generalizing s with
  | nil => exact .refl s
  | cons x r ih => exact (h s x).trans (ih _)
theorem coresStand_modTeam (s : State) (tk : Nat) (f : Team → Team) : CoresStand s (s.modTeam tk f) :=
  fun ⟨hg, hj, hd⟩ => ⟨⟨hg, hj, hd⟩, rfl⟩
theorem coresStand_memPut (s : State) (cells : List (Nat × Byte)) : CoresStand s (memPut s cells) :=
  fun ⟨hg, hj, hd⟩ => ⟨⟨hg, hj, hd⟩, rfl⟩
theorem coresStand_journalEvent (s : State) (q : Option Grid) (failed : Bool) (cause info rec status : Nat) (addr : Word) :
    CoresStand s (journalEvent s q failed cause info rec status addr) := by
  intro ⟨hg, hj, hd⟩
  unfold journalEvent journalNew journalPut
  rw [physWrite_of_regBase_le _ _ (Nat.le_add_right_of_le hj)]
  exact ⟨⟨hg, hj, hd⟩, rfl⟩
/-- A context that halts with no grid stops nothing (R388). -/
theorem coresStand_haltContext (s : State) (ctx : Nat) (q : Option Grid) (cause info : Nat) (addr : Word) :
    CoresStand s (haltContext s ctx q cause info addr) := by
  refine (coresStand_journalEvent s q true cause info 0 0 addr).trans ?_
  intro ⟨hg, hj, hd⟩
  unfold haltContext
  generalize journalEvent s q true cause info 0 0 addr = s1 at hg hj hd ⊢
  simp only [hg, List.filter_nil, List.map_nil, List.foldl_nil]
  rw [physWrite_of_regBase_le _ _ (Nat.le_add_right_of_le hd)]
  exact ⟨⟨hg, hj, hd⟩, rfl⟩

/-- Spills write memory and rename maps (R67). -/
theorem coresStand_spillReg (s : State) (c key k : Nat) : CoresStand s (spillReg s c key k) := by
  unfold spillReg
  dsimp only
  split
  · exact .refl s
  · split
    · exact coresStand_haltContext s _ _ _ _ _
    · exact (coresStand_memPut s _).trans (coresStand_modTeam _ k _)
theorem coresStand_spillOne (s : State) (c : Nat) : CoresStand s (spillOne s c) := by
  unfold spillOne
  split
  · exact .refl s
  · exact .foldl (fun s k => coresStand_spillReg s c _ k) _ s
theorem coresStand_spillScalar (s : State) (c : Nat) : CoresStand s (spillScalar s c) := by
  unfold spillScalar
  split
  · exact .refl s
  · exact .foldl (fun s k => coresStand_modTeam s k _) _ s
theorem coresStand_spillLoop {one : State → Nat → State} (h : ∀ s c, CoresStand s (one s c)) (n : Nat) (s : State) (c : Nat) :
    CoresStand s (spillLoop one n s c) := by
  induction n generalizing s with
  | zero => exact .refl s
  | succ n ih => exact (h s c).trans (ih _)
theorem coresStand_spillPressure (s : State) (c : Nat) : CoresStand s (spillPressure s c) :=
  (coresStand_spillLoop coresStand_spillOne _ s c).trans (coresStand_spillLoop coresStand_spillScalar _ _ c)

theorem arrOf_congr {s s' : State} (h : s'.cores = s.cores) (c : Nat) : arrOf s' c = arrOf s c := by
  unfold arrOf State.core
  rw [h]
theorem arrOf_setCore {s : State} {k : Nat} {x : Core} (h : x.arr = arrOf s k) (c : Nat) : arrOf (s.setCore k x) c = arrOf s c := by
  by_cases hc : c = k
  · rw [hc, ← h, arrOf, State.core_setCore]
  · rw [arrOf, State.core_setCore_ne s x hc, arrOf]
theorem arrOf_setCyc (s : State) (tk n c : Nat) : arrOf (setCyc s tk n) c = arrOf s c := by
  unfold setCyc
  split <;> rfl
theorem arrOf_noteFin (s : State) (tk e c : Nat) : arrOf (noteFin s tk e) c = arrOf s c := by
  unfold noteFin
  dsimp only
  split
  · exact arrOf_setCore (by rfl) c
  · rfl
/-- A word that is none of the SFU's moves no other run on. -/
theorem arrOf_noteUnit (s : State) (tk : Nat) {i : Instr} (h : isSfuWord i = false) (e c : Nat) :
    arrOf (noteUnit s tk i e) c = arrOf s c := by
  unfold noteUnit
  dsimp only
  split
  · exact arrOf_setCore (by rfl) c
  · split
    · exact arrOf_setCore (by rfl) c
    · rw [if_neg (by simp [h])]
/-- What follows a MACQ inside its run leaves the arrays (R346). -/
theorem arrOf_finishWord_macq {s : State} (h : Unlogged s) (tk : Nat) {f : FA} (he : f.e = false) (n e rdy c : Nat) :
    arrOf (finishWord s tk (.macq f) n e rdy) c = arrOf s c := by
  have hspill : arrOf (if isCtl tk then s else spillPressure s (teamCore s tk)) c = arrOf s c := by
    split
    · rfl
    · exact arrOf_congr (coresStand_spillPressure s (teamCore s tk) h).2 c
  unfold finishWord
  simp only [Instr.ebit, he, Bool.false_eq_true, if_false]
  rw [← hspill]
  generalize (if isCtl tk then s else spillPressure s (teamCore s tk)) = s1
  split
  · rfl
  · split
    · exact arrOf_setCyc ..
    · exact (arrOf_noteFin ..).trans (arrOf_noteUnit s1 tk rfl ..)
theorem arrOf_acts_macq {s s1 : State} {tk : Nat} {f : FA} (h : ActsOnce s tk (.macq f) s1) (h1 : Unlogged s1) (he : f.e = false)
    (c : Nat) : arrOf (stateOf s (exec (.macq f) s)) c = arrOf s1 c := by
  unfold ActsOnce Acts at h
  rw [h]
  exact arrOf_finishWord_macq h1 tk he ..

/-- One team of a group on core 0, whose array is free and bears the mark of a pair's follower. -/
def markedFree : State :=
  { State.reset with
    teams := [(0, { Team.none with st := .issuing, live := 255, mask := 255, pc := 0x200000, wordPc := 0x200000, nextPc := 0x200004 })],
    groups := [(0, plGroup 0)], cur := some (.team 0),
    cores := [(0, { Core.reset with arr := { MArray.reset with follower := true } })],
    sched := { Sched.reset with jbase := BitVec.ofNat 64 regBase, ctxbase := regBase } }
/-- MACQ s1 of the array alone. -/
def acquire : FA := ⟨false, 97, 0, 0⟩

theorem acquire_issues : Issues markedFree 0 (.macq acquire) [] := by unfold Issues; decide +kernel
/-- The array that the model's MACQ gives keeps its mark. -/
theorem acquire_keeps_mark : (arrOf (stateOf markedFree (exec (.macq acquire) markedFree)) 0).follower = true := by decide +kernel
theorem unlogged_of_markedFree {s : State} (h : s = { markedFree with teams := s.teams, cores := s.cores }) : Unlogged s := by
  have hj : regBase ≤ markedFree.sched.jbase.toNat := by decide
  rw [h]
  exact ⟨rfl, hj, Nat.le_refl _⟩
theorem unlogged_entryAfter {s : State} (h : Unlogged s) (tk : Nat) : Unlogged (entryAfter s tk) :=
  (coresStand_modTeam s tk _ h).1

/-- Refutes O37: the statement has MACQ leave `follower` false in the array it gives, but the word writes that mark in the
other array of a pair alone. In `markedFree` the array is free and marked, and the team gets it with its mark. No premise
excludes such a state; what frees an array (`releaseArray`, `dropArray`) clears its mark, so a premise that a free array bears
none would. -/
theorem not_recordsAndArrays : ¬ Obligations.RecordsAndArrays := by
  unfold Obligations.RecordsAndArrays
  intro ⟨_, harrays⟩
  obtain ⟨hmacq, _⟩ := harrays acquire markedFree 0
  obtain ⟨_, hget⟩ := hmacq acquire_issues rfl
  obtain ⟨s1, u, hacts, -, -, -, -, hfollower, -, -, -, hs1⟩ := hget (by decide +kernel) (by decide +kernel)
  have hkept : arrOf (stateOf markedFree (exec (.macq acquire) markedFree)) 0 = arrOf s1 0 :=
    arrOf_acts_macq hacts (unlogged_entryAfter (unlogged_of_markedFree hs1) 0) rfl 0
  have hmark := hkept ▸ acquire_keeps_mark
  exact absurd (hmark.symm.trans hfollower) (by decide)
end Sys2Proof.Proofs
end
